-- ==== Sys2Proof/Word.lean ====
section
/-!
DEFINITION. The word types of the Orollato (R31, R59, R159): the 64-bit scalar word, the 32-bit instruction
word, the byte, and the widths of the encoding's fields (R35 to R37, R41, R46).
-/
namespace Sys2Proof

/-- A scalar register or doubleword (R159). -/
abbrev Word := BitVec 64
/-- An instruction word (R31). -/
abbrev IWord := BitVec 32
/-- A byte of any memory. -/
abbrev Byte := BitVec 8
/-- A six-bit register field (R37). -/
abbrev Reg := BitVec 6

end Sys2Proof
end

