-- ==== Sys2Proof/Config.lean ====
section
/-!
DEFINITION. What an implementation fixes and the manual leaves open: constants without a body, so that no proof can
see their values. Each is named in a row of the assumption log.
-/
namespace Sys2Proof

/-- The resident supervisor's entry point (R161). The manual gives no address. -/
opaque Config.supervisorEntry : BitVec 64

/-- A free value: an uninterpreted function of the counter `fresh` that State holds. -/
opaque Config.freeValue : Nat → BitVec 64

/-- The bytes of CXL expander memory behind memory port 0 and port 1, as populated (R91). -/
opaque Config.cxlBytes : Bool → Nat

/-- The device's own port on the host's switch (R451). -/
opaque Config.ownPort : BitVec 8

/-- The fused voltages of each island, in mV (R423): Vmin, the lowest the regulator accepts; Vsafe, above it, since the
regulator accepts every request between its clamps and undervolting works between Vmin and Vsafe (R423, R439; DEDUCED,
log entry 6); Vmax, the highest. Only their order is fixed. -/
opaque Config.vmin : Nat → Nat
opaque Config.undervoltSpan : Nat → Nat
opaque Config.headroom : Nat → Nat
def Config.vsafe (isl : Nat) : Nat := Config.vmin isl + 1 + Config.undervoltSpan isl
/-- The voltage at which a parked island retains its SRAM (R445). -/
opaque Config.vretain : Nat → Nat
def Config.vmax (isl : Nat) : Nat := Config.vsafe isl + Config.headroom isl

/-- The version a firmware image names (R467). The manual gives no image layout. -/
opaque Config.imageVersion : List (BitVec 8) → Nat

/-- The firmware images the module leaves the factory with, by kind (R467). -/
opaque Config.factoryImage : Nat → List (BitVec 8)

/-- What is fused (R467, R468): the SHAKE256 digest of Narsulia's firmware key, and the device secret. -/
opaque Config.firmwareKeyDigest : BitVec 512
opaque Config.deviceSecret : List (BitVec 8)

/-- The hardware fingerprint: module serial, near-DRAM stack identities, expander serials (R465). -/
opaque Config.fingerprint : List (BitVec 8)

/-- The format version of the training records that the firmware reads and writes (R465). -/
opaque Config.trainingVersion : Nat

/-- The identity page of BAR0, by doubleword, but for the firmware revisions: part code and silicon revision (R449). -/
opaque Config.identityPage : Nat → BitVec 64

/-- The body of one of the standard CXL DVSECs of configuration space, by doubleword after its header (R448). -/
opaque Config.dvsecBody : Nat → Nat → BitVec 64

end Sys2Proof
end

