-- ==== Sys2Proof/Syntax.lean ====
section
/-!
DEFINITION. The instruction syntax of the Orollato: ONE constructor per row of the opcode table. The rows are of
three kinds: the control subset (R35 to R38), the engine instructions (R41 to R47), and the device's own steps and
events (a job starting, a barrier releasing, a host register write …), which have no encoding: they carry as plain
arguments what the outside world or the schedule supplies (which core, which stack, the value written, the raw bit
errors a read meets).
-/
namespace Sys2Proof

/-- The engine field of an engine instruction (R8, R41). -/
inductive Eng where
  | vector | matrix | copy | kv | stack | backfill
  deriving DecidableEq, Repr

/-- The three CXL ports that can hold IDE streams (R458): the host port and the two memory ports. -/
inductive LinkPort where
  | host | mem0 | mem1
  deriving DecidableEq, Repr

/-- Why a word is no instruction (R34, R48): an ILL with the FLTA it sets (0, or the item of `ecfg`/`erd`), or a
word that cannot be fetched (SEGV). -/
inductive Reject where
  | ill (flta : Word)
  | fetch
  deriving DecidableEq, Repr

/-- The first word of an engine instruction less its engine and opcode (R41): version, destination, scheduling. -/
structure Head where
  ver : BitVec 2
  dst : Reg
  sch : BitVec 14
  deriving DecidableEq, Repr

/-- Layout A of the second word (R46). -/
structure LayA where
  a : Reg
  b : Reg
  c : Reg
  ka : Bool
  kb : Bool
  m : BitVec 12
  deriving DecidableEq, Repr

/-- Layout B of the second word (R46). -/
structure LayB where
  a : Reg
  b : Reg
  imm : BitVec 20
  deriving DecidableEq, Repr

/-- The instructions, engine instructions and steps of the opcode table, one constructor per row. -/
inductive Instr where
  /-- R164. Sets sD to sA plus sB, modulo 2^64. -/
  | add (rd : Reg) (ra : Reg) (rb : Reg)
  /-- R164. Sets sD to sA minus sB, modulo 2^64. -/
  | sub (rd : Reg) (ra : Reg) (rb : Reg)
  /-- R164. Sets sD to the low 64 bits of sA times sB. -/
  | mul (rd : Reg) (ra : Reg) (rb : Reg)
  /-- R164. Sets sD to the high 64 bits of the signed 128-bit product. -/
  | mulh (rd : Reg) (ra : Reg) (rb : Reg)
  /-- R164. Sets sD to the high 64 bits of the unsigned 128-bit product. -/
  | mulhu (rd : Reg) (ra : Reg) (rb : Reg)
  /-- R165. Signed division truncating toward zero, with defined results for a zero divisor and for overflow. -/
  | div (rd : Reg) (ra : Reg) (rb : Reg)
  /-- R165. Unsigned division, giving all ones for a zero divisor. -/
  | divu (rd : Reg) (ra : Reg) (rb : Reg)
  /-- R165. Signed remainder whose sign follows the dividend. -/
  | rem (rd : Reg) (ra : Reg) (rb : Reg)
  /-- R165. Unsigned remainder, giving sA for a zero divisor. -/
  | remu (rd : Reg) (ra : Reg) (rb : Reg)
  /-- R164. Bitwise AND of sA and sB. -/
  | and (rd : Reg) (ra : Reg) (rb : Reg)
  /-- R164. Bitwise OR of sA and sB. -/
  | or (rd : Reg) (ra : Reg) (rb : Reg)
  /-- R164. Bitwise XOR of sA and sB. -/
  | xor (rd : Reg) (ra : Reg) (rb : Reg)
  /-- R164. Sets sD to sA AND NOT sB. -/
  | andn (rd : Reg) (ra : Reg) (rb : Reg)
  /-- R164. Shifts sA left by sB[5:0]. -/
  | shl (rd : Reg) (ra : Reg) (rb : Reg)
  /-- R164. Shifts sA right, logically, by sB[5:0]. -/
  | shr (rd : Reg) (ra : Reg) (rb : Reg)
  /-- R164. Shifts sA right, arithmetically, by sB[5:0]. -/
  | sar (rd : Reg) (ra : Reg) (rb : Reg)
  /-- R164. Signed minimum of sA and sB. -/
  | min (rd : Reg) (ra : Reg) (rb : Reg)
  /-- R164. Signed maximum of sA and sB. -/
  | max (rd : Reg) (ra : Reg) (rb : Reg)
  /-- R164. Unsigned minimum of sA and sB. -/
  | minu (rd : Reg) (ra : Reg) (rb : Reg)
  /-- R164. Unsigned maximum of sA and sB. -/
  | maxu (rd : Reg) (ra : Reg) (rb : Reg)
  /-- R164. Sets sD to 1 if sA is below sB as signed values, otherwise to 0. -/
  | slt (rd : Reg) (ra : Reg) (rb : Reg)
  /-- R164. Sets sD to 1 if sA is below sB as unsigned values, otherwise to 0. -/
  | sltu (rd : Reg) (ra : Reg) (rb : Reg)
  /-- R164. Counts the leading zero bits of sA, giving 64 for zero. -/
  | clz (rd : Reg) (ra : Reg)
  /-- R164. Counts the trailing zero bits of sA, giving 64 for zero. -/
  | ctz (rd : Reg) (ra : Reg)
  /-- R164. Counts the one bits of sA. -/
  | popc (rd : Reg) (ra : Reg)
  /-- R166. Adds the sign-extended imm13 to sA. -/
  | addi (rd : Reg) (ra : Reg) (imm : BitVec 13)
  /-- R166. ANDs sA with the sign-extended imm13. -/
  | andi (rd : Reg) (ra : Reg) (imm : BitVec 13)
  /-- R166. ORs sA with the sign-extended imm13. -/
  | ori (rd : Reg) (ra : Reg) (imm : BitVec 13)
  /-- R166. XORs sA with the sign-extended imm13. -/
  | xori (rd : Reg) (ra : Reg) (imm : BitVec 13)
  /-- R166. Signed comparison of sA with the sign-extended imm13. -/
  | slti (rd : Reg) (ra : Reg) (imm : BitVec 13)
  /-- R166. Shifts sA left by the immediate n. -/
  | shli (rd : Reg) (ra : Reg) (n : BitVec 6)
  /-- R166. Shifts sA right, logically, by the immediate n. -/
  | shri (rd : Reg) (ra : Reg) (n : BitVec 6)
  /-- R166. Shifts sA right, arithmetically, by the immediate n. -/
  | sari (rd : Reg) (ra : Reg) (n : BitVec 6)
  /-- R36. Sets sD to the sign-extended imm19 times 2^13. -/
  | lui (rd : Reg) (imm : BitVec 19)
  /-- R167. Sets sD to (sA times sB plus sC) modulo 2^64. -/
  | imad (rd : Reg) (ra : Reg) (rb : Reg) (rc : Reg)
  /-- R167. Sets sD to sA if sC is nonzero, otherwise to sB. -/
  | sel (rd : Reg) (ra : Reg) (rb : Reg) (rc : Reg)
  /-- R167. Extracts a zero-extended bit field of sA. -/
  | bfx (rd : Reg) (ra : Reg) (pos : BitVec 6) (lenM1 : BitVec 6)
  /-- R167. Inserts the low bits of sA into a bit field of sD. -/
  | bfi (rd : Reg) (ra : Reg) (pos : BitVec 6) (lenM1 : BitVec 6)
  /-- R167. Sets sD to sA plus sB shifted left by sh. -/
  | lea (rd : Reg) (ra : Reg) (rb : Reg) (sh : BitVec 3)
  /-- R198. Wraps an address into the ring of channel cN. -/
  | wrapa (rd : Reg) (ra : Reg) (ch : Reg)
  /-- R168. Branches when sA equals sB. -/
  | beq (ra : Reg) (rb : Reg) (off : BitVec 13)
  /-- R168. Branches when sA differs from sB. -/
  | bne (ra : Reg) (rb : Reg) (off : BitVec 13)
  /-- R168. Branches when sA is below sB as signed values. -/
  | blt (ra : Reg) (rb : Reg) (off : BitVec 13)
  /-- R168. Branches when sA is at least sB as signed values. -/
  | bge (ra : Reg) (rb : Reg) (off : BitVec 13)
  /-- R168. Branches when sA is below sB as unsigned values. -/
  | bltu (ra : Reg) (rb : Reg) (off : BitVec 13)
  /-- R168. Branches when sA is at least sB as unsigned values. -/
  | bgeu (ra : Reg) (rb : Reg) (off : BitVec 13)
  /-- R168. Jumps unconditionally by a word offset. -/
  | jmp (off : BitVec 25)
  /-- R169. Writes the return address into s1 and jumps. -/
  | jal (off : BitVec 25)
  /-- R169. Jumps to the address in sA, checking its alignment and its upper bits. -/
  | jr (ra : Reg)
  /-- R170. Starts a hardware loop level, taking its count from sA. -/
  | loop (lvl : BitVec 2) (p : Bool) (ra : Reg) (len : BitVec 16)
  /-- R170. Starts a hardware loop level with an immediate count. -/
  | loopi (lvl : BitVec 2) (p : Bool) (cnt : BitVec 12) (len : BitVec 10)
  /-- R179. Breaks a loop level at the index in sA, discarding later-tagged entries that have not started. -/
  | lbrk (lvl : BitVec 2) (ra : Reg)
  /-- R179. Breaks a loop level at its current iteration. -/
  | lbrkUnconditional (lvl : BitVec 2)
  /-- R174. Repeats the next instruction sA times. -/
  | rep (ra : Reg)
  /-- R174. Repeats the next instruction an immediate number of times. -/
  | repImmediate (cnt : BitVec 12)
  /-- R176. Sets the stage mask SPM and the stage predicates SP. -/
  | spset (imm : BitVec 8)
  /-- R183. Loads and sign-extends a value from an on-chip address. -/
  | lds (rd : Reg) (base : Reg) (size : BitVec 2) (off : BitVec 11)
  /-- R183. Loads and zero-extends a value from an on-chip address. -/
  | ldsu (rd : Reg) (base : Reg) (size : BitVec 2) (off : BitVec 11)
  /-- R183. Stores to an on-chip address. -/
  | sts (rd : Reg) (base : Reg) (size : BitVec 2) (off : BitVec 11)
  /-- R184. Loads and sign-extends a value through a handle. -/
  | ldh (rd : Reg) (base : Reg) (size : BitVec 2) (off : BitVec 11)
  /-- R184. Loads and zero-extends a value through a handle. -/
  | ldhu (rd : Reg) (base : Reg) (size : BitVec 2) (off : BitVec 11)
  /-- R184. Stores through a handle. -/
  | sth (rd : Reg) (base : Reg) (size : BitVec 2) (off : BitVec 11)
  /-- R101. Translates sA into handle hD, starting a walk on a translation-cache miss. -/
  | xlat (h : Reg) (ra : Reg)
  /-- R102. Invalidates a handle and discards its pending walk. -/
  | hinv (h : Reg)
  /-- R102. Writes the visible state of a handle to sD. -/
  | hq (rd : Reg) (h : Reg)
  /-- R186. Atomic read-modify-write at the home that returns the old value. -/
  | amo (rd : Reg) (ra : Reg) (rb : Reg) (ord : BitVec 2) (z : Bool) (hnd : Bool) (op : BitVec 3)
  /-- R187. Atomic compare-and-swap. -/
  | cas (rd : Reg) (ra : Reg) (rb : Reg) (ord : BitVec 2) (z : Bool) (hnd : Bool)
  /-- R188. Acquire load. -/
  | lda (rd : Reg) (ra : Reg) (size : BitVec 2) (hnd : Bool)
  /-- R188. Release store. -/
  | stl (ra : Reg) (rb : Reg) (size : BitVec 2) (hnd : Bool)
  /-- R112. Full fence within a scope; it also waits for earlier vector instructions. -/
  | fence (scope : BitVec 2)
  /-- R191. Waits as a device fence does, records the core's arrival and stalls until the barrier releases. -/
  | bar
  /-- R192. Records the core's barrier arrival and continues issuing. -/
  | bara
  /-- R192. Waits for the release of the barrier at which the outstanding bara arrived. -/
  | barw
  /-- R194. Reads a channel descriptor and sets a channel as its home register or as a view. -/
  | cbset (ch : Reg) (ra : Reg)
  /-- R195. Advances the producer or consumer pointer of a channel. -/
  | cbadv (ch : Reg) (rb : Reg) (side : Bool)
  /-- R197. Writes a snapshot of the channel state to sD. -/
  | cbq (rd : Reg) (ch : Reg)
  /-- R196. Waits until the channel has enough filled or free slots. -/
  | cbwait (ch : Reg) (rb : Reg) (side : Bool)
  /-- R201. Waits until a job has completed, as an acquire. -/
  | jwait (ra : Reg)
  /-- R202. Reads the token of a job from the job table without waiting. -/
  | jq (rd : Reg) (ra : Reg)
  /-- R203. Writes an engine configuration item. -/
  | ecfg (item : BitVec 12) (ra : Reg)
  /-- R203. Reads an engine configuration item. -/
  | erd (rd : Reg) (item : BitVec 12)
  /-- R205. Reads STAMP into sD. -/
  | stmp (rd : Reg)
  /-- R205. Stalls until STAMP reaches an absolute tick. -/
  | stwait (ra : Reg)
  /-- R205. Stalls until STAMP reaches BRS plus sA. -/
  | stwaitR (ra : Reg)
  /-- R206. Returns a work-identifier field. -/
  | wid (rd : Reg) (f : BitVec 3)
  /-- R146. Ends the current work item and moves its outstanding work into the retirement tracker. -/
  | tail
  /-- R147. Ends the current work item as tail does. -/
  | exit
  /-- R209. Reads a CSR. -/
  | csrr (rd : Reg) (csr : BitVec 12)
  /-- R209. Writes a CSR, subject to its access class. -/
  | csrw (csr : BitVec 12) (ra : Reg)
  /-- R207. Raises TRAP, a service call. -/
  | trap (code : BitVec 12)
  /-- R207. Raises BRK, which holds the context. -/
  | brk (code : BitVec 12)
  /-- R210. Has no effect. -/
  | nop
  /-- R208. Returns from supervisor mode to FLTI. -/
  | sret
  /-- R210. Stalls until an event occurs or 4,096 cycles pass. -/
  | wfe
  /-- R222. Floating-point add. -/
  | vadd (h : Head) (f : LayA)
  /-- R222. Floating-point subtract. -/
  | vsub (h : Head) (f : LayA)
  /-- R222. Floating-point multiply. -/
  | vmul (h : Head) (f : LayA)
  /-- R222. Fused multiply-add. -/
  | vfma (h : Head) (f : LayA)
  /-- R222. Fused multiply-subtract. -/
  | vfms (h : Head) (f : LayA)
  /-- R222. Fused negated multiply-add. -/
  | vfnma (h : Head) (f : LayA)
  /-- R222. Floating-point divide. -/
  | vdiv (h : Head) (f : LayA)
  /-- R222. Floating-point square root. -/
  | vsqrt (h : Head) (f : LayA)
  /-- R222. Floating-point minimum. -/
  | vmin (h : Head) (f : LayA)
  /-- R222. Floating-point maximum. -/
  | vmax (h : Head) (f : LayA)
  /-- R222. Absolute value. -/
  | vabs (h : Head) (f : LayA)
  /-- R222. Negation. -/
  | vneg (h : Head) (f : LayA)
  /-- R222. Floating-point compare. -/
  | vcmp (h : Head) (f : LayA)
  /-- R222. Classifies each element. -/
  | vclass (h : Head) (f : LayA)
  /-- R222. Base-2 exponential, or e^x when E = 1. -/
  | vexp2 (h : Head) (f : LayA)
  /-- R222. Base-2 logarithm. -/
  | vlog2 (h : Head) (f : LayA)
  /-- R223. Integer add, wrapping or saturating. -/
  | viadd (h : Head) (f : LayA)
  /-- R223. Integer subtract, wrapping or saturating. -/
  | visub (h : Head) (f : LayA)
  /-- R223. Integer multiply, low or high part. -/
  | vimul (h : Head) (f : LayA)
  /-- R223. Integer multiply-add. -/
  | vimad (h : Head) (f : LayA)
  /-- R223. Bitwise AND. -/
  | viand (h : Head) (f : LayA)
  /-- R223. Bitwise OR. -/
  | vior (h : Head) (f : LayA)
  /-- R223. Bitwise XOR. -/
  | vixor (h : Head) (f : LayA)
  /-- R223. Shift left. -/
  | vishl (h : Head) (f : LayA)
  /-- R223. Logical shift right. -/
  | vishr (h : Head) (f : LayA)
  /-- R223. Arithmetic shift right. -/
  | visar (h : Head) (f : LayA)
  /-- R223. Integer minimum. -/
  | vimin (h : Head) (f : LayA)
  /-- R223. Integer maximum. -/
  | vimax (h : Head) (f : LayA)
  /-- R223. Integer compare. -/
  | vicmp (h : Head) (f : LayA)
  /-- R225. Converts elements between formats. -/
  | vcvt (h : Head) (f : LayB)
  /-- R225. Encodes elements to a taper format. -/
  | vtfenc (h : Head) (f : LayB)
  /-- R225. Decodes taper-format elements. -/
  | vtfdec (h : Head) (f : LayB)
  /-- R226. Compares taper patterns as signed integers. -/
  | vtfcmp (h : Head) (f : LayA)
  /-- R228. Quantises rows into E2M1 elements with scales. -/
  | vqblk (h : Head) (f : LayB)
  /-- R228. Dequantises scaled E2M1 rows. -/
  | vdqblk (h : Head) (f : LayB)
  /-- R229. Row or column reduction. -/
  | vred (h : Head) (f : LayA)
  /-- R230. Block-scaled E2M1 dot product per row. -/
  | vdot4 (h : Head) (f : LayA)
  /-- R231. Strided vector load. -/
  | vld (h : Head) (f : LayB)
  /-- R231. Strided vector store. -/
  | vst (h : Head) (f : LayB)
  /-- R232. Loads a vector from a channel ring, as consumer. -/
  | vldc (h : Head) (f : LayA)
  /-- R232. Stores a vector into a channel ring, as producer. -/
  | vstc (h : Head) (f : LayA)
  /-- R233. Copies the active lanes. -/
  | vmov (h : Head) (f : LayA)
  /-- R233. Selects lanes under a mask. -/
  | vsel (h : Head) (f : LayA)
  /-- R234. Broadcasts a scalar or a vector element. -/
  | vbcast (h : Head) (f : LayB)
  /-- R233. Permutes the elements of each row. -/
  | vperm (h : Head) (f : LayA)
  /-- R233. Transposes 16 by 16 blocks. -/
  | vtrans (h : Head) (f : LayA)
  /-- R235. Gathers 32-bit elements. -/
  | vgat (h : Head) (f : LayB)
  /-- R235. Scatters 32-bit elements. -/
  | vsca (h : Head) (f : LayB)
  /-- R236. Logical operation on mask registers. -/
  | mlog (h : Head) (f : LayA)
  /-- R237. Random keep test on each element. -/
  | vkeep (h : Head) (f : LayA)
  /-- R237. Generates random numbers. -/
  | vrng (h : Head) (f : LayA)
  /-- R238. Sets SHP at enqueue. -/
  | vshape (h : Head) (f : LayB)
  /-- R239. Appends elements to a deferral queue. -/
  | vdfr (h : Head) (f : LayA)
  /-- R239. Drains elements from a deferral queue. -/
  | vdrn (h : Head) (f : LayA)
  /-- R239. Writes the count of a deferral queue. -/
  | vdcnt (h : Head) (f : LayA)
  /-- R309. Fills the score or value array latch. -/
  | mlatch (h : Head) (f : LayA)
  /-- R310. Gathers table rows into the operand latch. -/
  | mgath (h : Head) (f : LayA)
  /-- R311. Matrix product accumulated into a tile. -/
  | mmul (h : Head) (f : LayA)
  /-- R312. Streaming attention into a tile. -/
  | mattn (h : Head) (f : LayA)
  /-- R322. Adds a follower core's tile half into the leader's tile. -/
  | mpair (h : Head) (f : LayA)
  /-- R315. Drains tile rows to memory, dividing and converting them. -/
  | mdrain (h : Head) (f : LayA)
  /-- R308. Loads a tile and its metadata. -/
  | mld (h : Head) (f : LayA)
  /-- R308. Resets tiles to the mzero state. -/
  | mzero (h : Head) (f : LayA)
  /-- R314. Writes the mask shadow items at enqueue. -/
  | mmask (h : Head) (f : LayA)
  /-- R316. Writes the m and l of tile rows. -/
  | mstat (h : Head) (f : LayA)
  /-- R320. Runs the band self-test at once. -/
  | mtest (h : Head) (f : LayA)
  /-- R317. Completes on its effective tick. -/
  | mwait (h : Head) (f : LayA)
  /-- R257. Copies one map to another. -/
  | cpy (h : Head) (f : LayA)
  /-- R258. Copies into a channel ring, as producer. -/
  | cpyw (h : Head) (f : LayA)
  /-- R259. Fills a map with a value. -/
  | cfill (h : Head) (f : LayA)
  /-- R260. Gathers table rows by an index list. -/
  | cgat (h : Head) (f : LayA)
  /-- R260. Scatters rows into a table by an index list. -/
  | csca (h : Head) (f : LayA)
  /-- R261. Stamped exchange send between slices. -/
  | cxs (h : Head) (f : LayA)
  /-- R263. Copy push or pull to a peer window. -/
  | cpeer (h : Head) (f : LayA)
  /-- R278. Initialises a sequence descriptor. -/
  | kvopen (h : Head) (f : LayA)
  /-- R279. Resolves a position to its slot. -/
  | kvseek (h : Head) (f : LayA)
  /-- R283. Streams K and V rows into rings. -/
  | kvstrm (h : Head) (f : LayA)
  /-- R280. Appends one position. -/
  | kvapp (h : Head) (f : LayA)
  /-- R281. Adds to the reference counts of a sequence's pages. -/
  | kvref (h : Head) (f : LayA)
  /-- R287. Closes a sequence and releases its pages. -/
  | kvfree (h : Head) (f : LayA)
  /-- R281. Writes a status record of a sequence. -/
  | kvstat (h : Head) (f : LayA)
  /-- R345. Broadcasts activations into the stacks' activation SRAM. -/
  | fact (h : Head) (f : LayA)
  /-- R346. Senses pages and multiplies them against one activation vector. -/
  | fsa (h : Head) (f : LayA)
  /-- R346. Senses pages and multiplies them against several vectors, with optional backfill attachment. -/
  | fsav (h : Head) (f : LayA)
  /-- R359. Raw sense of one plane pair. -/
  | fsense (h : Head) (f : LayA)
  /-- R358. Loads scale pages into the scale buffers. -/
  | fscal (h : Head) (f : LayA)
  /-- R360. Rebuilds a page from its stripe and relocates the sub-block. -/
  | frebuild (h : Head) (f : LayA)
  /-- R362. Writes the map record of a page. -/
  | fmap (h : Head) (f : LayA)
  /-- R363. Writes stack status records. -/
  | fstat (h : Head) (f : LayA)
  /-- R364. Waits for the earlier stack commands of the context. -/
  | fsync (h : Head) (f : LayA)
  /-- R366. Programs a logical page; supervisor only. -/
  | fprog (h : Head) (f : LayA)
  /-- R367. Unmaps sub-blocks and erases freed block pairs; supervisor only. -/
  | ferase (h : Head) (f : LayA)
  /-- R371. Sets the thermal duty cycling; supervisor only. -/
  | fduty (h : Head) (f : LayA)
  /-- R380. Exit confidence test on logits. -/
  | xconf (h : Head) (f : LayA)
  /-- R388. Flips skipped slots to PENDING and creates an exit record. -/
  | bfpost (h : Head) (f : LayA)
  /-- R395. Sets the horizon and waits for the records up to a position. -/
  | bfwait (h : Head) (f : LayA)
  /-- R384. Sets the backfill mode and the age limit. -/
  | bfmode (h : Head) (f : LayA)
  /-- R397. Writes a backfill status record. -/
  | bfq (h : Head) (f : LayA)
  /-- R396. Issues standalone senses for records up to a position. -/
  | bfflush (h : Head) (f : LayA)
  /-- R420. Writes maintenance status records of stacks. -/
  | bdgq (h : Head) (f : LayA)
  /-- R421. Requests a maintenance hold window on stacks. -/
  | bdghold (h : Head) (f : LayA)
  /-- R162. A stalled control-core instruction issues once its awaited result, queue entry or condition is available. -/
  | instructionStallEnd (k : Fin 16)
  /-- R163. An outstanding load returns its data; poisoned data squashes the later instructions. -/
  | loadReturn (k : Fin 16)
  /-- R101. A pending page walk finishes and clears PD of its handle. -/
  | translationWalk (k : Fin 16) (hn : Fin 16)
  /-- R221. The vector engine begins executing its head entry once its channel data and sources are ready. -/
  | vectorEntryStart (k : Fin 16)
  /-- R244. The control core takes a reported vector fault at its next instruction boundary. -/
  | vectorFaultTaken (k : Fin 16)
  /-- R304. On its effective tick, or when it becomes ready, a matrix entry starts or takes SMISS. -/
  | matrixEntryStart (k : Fin 16)
  /-- R322. The leader receives a follower's header and data and sends its verdict. -/
  | pairHeaderArrival (k : Fin 16)
  /-- R322. 8n + 32 cycles after the last data arrives, the leader adds the halves and completes. -/
  | pairMerge (k : Fin 16)
  /-- R322. The follower receives OK or REJECT and completes. -/
  | pairVerdict (k : Fin 16)
  /-- R323. A member that receives ABORT completes with PAB. -/
  | pairAbort (k : Fin 16)
  /-- R262. A waiting exchange send reserves every link of its path once they are free. -/
  | cxsPathReserve (k : Fin 16) (seq : BitVec 16)
  /-- R285. Once the ring has a free slot, a stream writes the next ring slot and advances the channels. -/
  | streamSlotFill (k : Fin 16) (seq : BitVec 16)
  /-- R368. A command packet reaches a stack's sequencer and queues in its class. -/
  | stackCommandArrival (j : Fin 16)
  /-- R368. A free plane pair takes the next waiting command by class and age and begins its sense. -/
  | pairArbitration (j : Fin 16) (die : Fin 8) (q : Fin 64)
  /-- R351. tR after it began, the sense of a pair completes and decode begins. -/
  | senseComplete (j : Fin 16) (die : Fin 8) (q : Fin 64)
  /-- R352. A page's codewords are decoded and logged. -/
  | pageDecode (j : Fin 16) (die : Fin 8) (pl : Fin 128) (errs : List Nat)
  /-- R354. A failed codeword is sensed again with the next retry offsets. -/
  | softReread (j : Fin 16) (die : Fin 8) (pl : Fin 128) (errs : List Nat)
  /-- R334. A sense-accumulate unit multiplies a decoded page against its vectors. -/
  | macPass (j : Fin 16) (die : Fin 8) (q : Fin 64)
  /-- R351. 32 ticks after a group's last MAC, its sums are reduced. -/
  | groupReduction (j : Fin 16) (cid : Nat) (gi : Nat)
  /-- R347. The stack sends its outputs, which are written to the destination or the ring with the poison map. -/
  | stackOutput (j : Fin 16) (cid : Nat)
  /-- R390. When a vector slot is free, a record's hidden state is loaded into the stack's backfill buffer. -/
  | backfillVectorLoad (rec : Nat) (j : Fin 16)
  /-- R393. Once every list descriptor of a layer has been sensed, the K and V rows are formed. -/
  | backfillRowForm (rec : Nat) (layer : Nat)
  /-- R394. The rows are written to the slot, which then flips to FINAL, or the layer is dropped. -/
  | backfillSlotWrite (rec : Nat) (layer : Nat)
  /-- R11. A head queue entry is dispatched into a freed executing place of its engine. -/
  | engineDispatch (k : Fin 16) (e : Eng)
  /-- R15. A job starts once its edges, prior stores and channel waits are met. -/
  | jobStart (k : Fin 16) (seq : BitVec 16)
  /-- R16. The job scheduler writes a job's final token and frees its table entry. -/
  | jobCompletion (k : Fin 16) (seq : BitVec 16)
  /-- R152. A job fault writes the token and the fault record without trapping. -/
  | jobFault (k : Fin 16) (seq : BitVec 16)
  /-- R20. A wait, read or advance from a view arrives at the home and is applied or refused. -/
  | channelViewRequest (k : Fin 16)
  /-- R23. Once all participants have arrived and the sweep is done, the barrier releases on an even tick. -/
  | barrierRelease (slot : Fin 16)
  /-- R126. The sweeper clears aged tags of the phase's slice. -/
  | tagSweep (slot : Fin 16)
  /-- R153. The host answers a page request and the held core resumes. -/
  | pageRequestAnswer (idx : Nat)
  /-- R453. A doorbell write captures the submission and, within 2 µs, writes SUBRES. -/
  | doorbell (v : Word)
  /-- R130. The scheduler checks the slot, the header, the save area, the segment table and the after-tokens. -/
  | launchDecision (slot : Fin 16)
  /-- R141. A core takes a stop at its next engine-instruction boundary, drains and switches banks. -/
  | preemption (k : Fin 16)
  /-- R142. A resumed context shifts BRS and its queued stamps by D. -/
  | contextResume (slot : Fin 16)
  /-- R135. The next work item of the share starts with reset registers. -/
  | workItemStart (k : Fin 16)
  /-- R146. A retirement tracker entry frees once its item's work has completed. -/
  | trackerEntryFree (k : Fin 16)
  /-- R147. Once every share has ended and no exit record remains, the DONE record is written and the slot freed. -/
  | contextEnd (slot : Fin 16)
  /-- R456. CMD opcode 1 aborts a launch. -/
  | abort (lseq : BitVec 32)
  /-- R475. Arms an error-injection slot. -/
  | injectionSlotWrite (i : Fin 8) (dw : Fin 3) (v : Word)
  /-- R449. A host write to a register that has no row of its own. -/
  | registerWrite (bar : BitVec 3) (off : Nat) (data : Option Word)
  /-- R450. A host access through the tier-1 aperture. -/
  | apertureAccess (off : Nat) (len : Nat) (data : Option (List Byte))
  /-- R457. A host CXL.mem access to LPDDR-6. -/
  | hostMemoryAccess (d : Nat) (len : Nat) (data : Option (List Byte))
  /-- R463. Power-good of AON runs the boot steps: whether stage one verifies in WS0 and in WS1, the interfaces and the bands
  that fail, the die temperature. -/
  | coldBoot (copies : Bool × Bool) (fails : BitVec 21 × BitVec 64) (temp : Nat)
  /-- R48. The control core issues a word that decodes to no instruction, or cannot be fetched, and raises ILL, PRIV or SEGV precisely. -/
  | encodingNotAnInstruction (r : Reject)
  /-- R366. The program of a page by fprog completes, or fails and retires the block pair with a reprogram of the sub-block's earlier pages. -/
  | pageProgram (j : Fin 16) (cid : Nat) (ok : Bool) (ok2 : Bool)
  /-- R318. Between entries the engine tests one band with a fixed product. -/
  | selfTest (k : Fin 16) (b : Fin 4) (pass : Bool)
  /-- R322. The leader's or the follower's wait window expires, giving SMISS reason 5. -/
  | pairWindowExpiry (k : Fin 16)
  /-- R285. Every 256 cycles a WAIT stream re-fetches the header of a PENDING slot. -/
  | pendingRefetch (k : Fin 16) (seq : BitVec 16)
  /-- R399. After each 60,000 ticks of waiting, a stream asks whether its PENDING slot is covered and may stop with reason 12. -/
  | coverageQuery (k : Fin 16) (seq : BitVec 16)
  /-- R374. A stack-link flit that fails its CRC is replayed. -/
  | flitReplay (j : Fin 16) (ok : Bool)
  /-- R374. 16 failed replays, or 1 ms down, marks the stack failed. -/
  | stackLinkFailure (j : Fin 16)
  /-- R374. A die that stops answering marks its stack failed. -/
  | dieNotResponding (j : Fin 16) (die : Fin 8)
  /-- R392. A record's age reaches ALIM and standalone senses are issued for it. -/
  | backfillAgeLimit (slot : Fin 16)
  /-- R149. After 1 s of channel stall the detector raises CHST. -/
  | channelStall (k : Fin 16)
  /-- R265. A near-DRAM channel reads a 64-byte burst, checking parity and ECC. -/
  | tier1BurstRead (pa : Nat) (errs : List Nat) (par : List (Fin 8 × Fin 4)) (ctx : Word)
  /-- R267. 64 cycles after a parity failure, the burst is read again. -/
  | parityRetry (ch : Fin 256) (par : List (Fin 8 × Fin 4))
  /-- R267. After three failed retries, a walking-pattern test finds a failed lane and swaps in a spare. -/
  | laneTest (ch : Fin 256) (lane : Option (Fin 64))
  /-- R268. A die signals a write parity error and the interface retries. -/
  | writeParityError (pa : Nat) (par : List (Fin 8 × Fin 4)) (ctx : Word)
  /-- R105. The supervisor revokes a virtual range and waits until its handles, accesses, cache entries and jobs are gone. -/
  | revocation (slot : Fin 16) (lo : Nat) (len : Nat)
  /-- R138. Each full 10 ms of waiting lowers the effective priority number by one level. -/
  | priorityAging (slot : Fin 16)
  /-- R143. ENRG reaches the allowance and the context is HELD. -/
  | energyHold (slot : Fin 16)
  /-- R456. CMD opcode 2 resumes a launch held by BRK. -/
  | resume (lseq : BitVec 32)
  /-- R456. CMD opcode 3 sets ENERGY and may release a hold. -/
  | setEnergy (lseq : BitVec 32)
  /-- R455. A write to CRBASE or CRSIZE, which is ignored while records are pending. -/
  | completionRingConfigWrite (size : Bool) (v : Word)
  /-- R450. Sets PS, ignoring values out of range. -/
  | powlimWrite (v : Word)
  /-- R451. Sets a peer-table entry, ignoring the device's own port. -/
  | peerEntryWrite (i : Fin 4) (v : Word)
  /-- R451. Sets INWB or INWL for accesses that start later. -/
  | inboundWindowWrite (len : Bool) (v : Word)
  /-- R450. Sets the aperture base, ignoring bases at or above 192 GiB. -/
  | apbaseWrite (v : Word)
  /-- R461. An inbound peer request is accepted or refused. -/
  | peerRequest (port : Byte) (off : Nat) (len : Nat) (data : Option (List Byte)) (poisoned : Bool)
  /-- R462. A zero-length read that completes after earlier writes have performed. -/
  | peerFlushRead (port : Byte)
  /-- R462. No completion within 50 ms ends the cpeer job with SEGV, at a unit of it. -/
  | peerTimeout (k : Fin 16) (at_ : BitVec 16 × Nat)
  /-- R458. IDE keys are established for a port over SPDM through DOE, whose messages are signed. -/
  | ideKeyExchange (spdm : LinkPort × List Byte)
  /-- R458. An IDE failure stops the host-port interfaces, or fails a memory port. -/
  | ideIntegrityFailure (port : LinkPort)
  /-- R460. A memory-port link goes down and the port is marked failed. -/
  | memoryPortFailure (p : Fin 2)
  /-- R459. An expander request without completion after 1 ms fails the port. -/
  | expanderTimeout (p : Fin 2)
  /-- R446. An access to a parked slice starts its exit and waits for it. -/
  | retentionParkExit (k : Fin 16) (errs : List (Nat × List Nat))
  /-- R466. A new training record is written after training or a lane swap. -/
  | trainingRecordWrite (powerLost : Bool)
  /-- R372. A die at 115 °C stops new stack operations. -/
  | stackTrip (j : Fin 16)
  /-- R372. The stack resumes at 100 °C or below. -/
  | stackTripClear (j : Fin 16)
  /-- R372. A trip lasting 10 s marks the stack failed. -/
  | stackTripPersisted (j : Fin 16)
  /-- R371. Above 85 °C the pairs insert idle slots. -/
  | dutyCyclingStart (j : Fin 16)
  /-- R371. At 83 °C or below duty cycling stops. -/
  | dutyCyclingStop (j : Fin 16)
  /-- R427. Each 1 ms epoch updates BR and BH and refills the buckets. -/
  | boostEpoch (em : Nat)
  /-- R430. Energy counters and context charges are updated each window. -/
  | energyWindow (uj : List Nat)
  /-- R439. Every 100 ms CL-island voltages move with the corrected-error count. -/
  | undervoltWindow (cl : Fin 4) (errs : Nat)
  /-- R440. An uncorrectable SRAM error below Vsafe raises the voltage, stalls the island and poisons with the margin mark. -/
  | marginEvent (isl : Fin 40) (core : Fin 16) (arr : BitVec 4) (addr : Nat)
  /-- R440. Vsafe is reached and the island's clocks restart. -/
  | marginStallEnd (isl : Fin 40)
  /-- R440. After 60 s undervolting resumes from Vsafe. -/
  | undervoltResume (cl : Fin 4)
  /-- R438. An unused band island is switched off after 60,000 ticks. -/
  | bandSwitchOff (c : Fin 4) (b : Fin 4)
  /-- R438. An entry that needs a switched-off band wakes it. -/
  | bandWake (c : Fin 4) (b : Fin 4)
  /-- R414. Badger takes a plane pair for its highest-ranked work step. -/
  | badgerStep (j : Fin 16) (die : Fin 8) (q : Fin 64)
  /-- R406. Three pair senses of a word line are read and decoded. -/
  | relocationReadStep (j : Fin 16) (die : Fin 8) (q : Fin 64) (wl : Nat)
  /-- R406. A word line is re-encoded and programmed in both planes. -/
  | relocationProgramStep (j : Fin 16) (die : Fin 8) (q : Fin 64) (ok : Bool)
  /-- R408. After the copy, the new map entry is written under MOVING. -/
  | mapSwitch (j : Fin 16) (die : Fin 8) (q : Fin 64)
  /-- R410. A small pool starts compaction of a block pair. -/
  | compaction (j : Fin 16) (die : Fin 8) (q : Fin 64)
  /-- R410. A block-pair erase completes and adds 1 to its cycle count. -/
  | blockErase (j : Fin 16) (die : Fin 8) (q : Fin 64) (blk : Fin 256) (ok : Bool)
  /-- R412. An extent 30 days past its last sense is queued for scrub. -/
  | scrubDue (ext : BitVec 32)
  /-- R412. A scrub of an extent senses pages and checks the digest. -/
  | scrubSense (j : Fin 16) (ext : BitVec 32)
  /-- R422. A maintenance hold ends at T1. -/
  | holdEnd (j : Fin 16)
  /-- R371. A plane pair's K idle duty-cycling slots run out and the pair may again begin a sense. -/
  | idleSlotsEnd (j : Fin 16) (die : Fin 8) (q : Fin 64)
  /-- R138. A context that has run 10 ms without interruption has its effective priority returned to its base PRIO, and the scheduler re-evaluates. -/
  | priorityReturnToPrio (slot : Fin 16)
  /-- R139. The scheduler re-ranks contexts, admits, evicts and pre-empts. -/
  | schedulerEvaluation
  /-- R455. When the ring has room, a completion record is written, CRTAIL advances and the interrupt is raised. -/
  | completionRecordWrite
  /-- R478. Writes the state summary. -/
  | resync
  /-- R469. Reads log entries. -/
  | logread
  /-- R469. Empties a log. -/
  | logclr
  /-- R469. Reads Owl events or dumps. -/
  | owlread
  /-- R477. Returns the wear record. -/
  | wear
  /-- R470. Returns a signed attestation report. -/
  | attest
  /-- R469. Sets the wall clock and queues overdue scrubs. -/
  | time
  /-- R469. Checks an extent and enters it in the extent table. -/
  | extadd
  /-- R469. Removes an extent entry. -/
  | extdel
  /-- R445. Parks every core and idles the stacks. -/
  | park
  /-- R469. Ends the park. -/
  | unpark
  /-- R469. Writes and verifies a firmware image. -/
  | fwupd
  /-- R466. Marks both training copies invalid. -/
  | retrain
  /-- R338. Module reset clears stores and counters to their reset state. -/
  | moduleReset
  /-- R474. On power loss the cores stop and the dump and wear record are written. -/
  | powerLoss
  /-- R476. Each second the hottest sensor is sampled and thermal cycles counted. -/
  | wearSample
  /-- R476. Every 10 minutes the counts are written to the boot region. -/
  | wearCountSave
  /-- R426. A sensor at 110 °C stops the cores and aborts every launch. -/
  | computeDieTrip
  /-- R373. A new 60,000-tick window grants each stack its allowance. -/
  | senseAllowanceWindow
  /-- R443. A missed watchdog signal puts the module into fallback. -/
  | watchdogExpiry
  /-- R444. Signed firmware runs again and fallback ends. -/
  | fallbackEnd
  /-- R435. At each even tick the limiter releases units, raises PERM and grants requests. -/
  | limiterStep
  /-- R416. Each 100 ms window renews each die's pre-emption budget. -/
  | badgerBudgetWindow
  deriving DecidableEq, Repr

end Sys2Proof
end

