-- ==== Sys2Proof/Machine/Fields.lean ====
section
/-!
DEFINITION. The sub-fields of the instruction words: the scheduling field SCH (R42), the common vector layout CM
(R217), the vector conversion, block, memory, broadcast and gather fields (R224, R227, R231, R234, R235), and the
mod12 fields of the copy, KV, matrix and stack engines (R249, R276, R306).
-/
namespace Sys2Proof.Machine

/-- Bits `[lo + w - 1 : lo]` of a word, as a word of width `w`. -/
def bits {n : Nat} (x : BitVec n) (lo w : Nat) : BitVec w := x.extractLsb' lo w

/-- Bit `i` of a word. -/
def bit {n : Nat} (x : BitVec n) (i : Nat) : Bool := x.getLsbD i

/-! ## SCH (R42) -/

def schWA (h : Head) : Nat := (bits h.sch 10 4).toNat
def schWB (h : Head) : Nat := (bits h.sch 6 4).toNat
def schAA (h : Head) : Bool := bit h.sch 5
def schAB (h : Head) : Bool := bit h.sch 4
def schY (h : Head) : Bool := bit h.sch 3
/-- S: the stamp is relative to BRS (v1 only). -/
def schS (h : Head) : Bool := bit h.sch 2
def schTL (h : Head) : BitVec 2 := bits h.sch 0 2
/-- VER = v1. -/
def isV1 (h : Head) : Bool := h.ver = 1#2

/-! ## CM, the common mod12 layout of vector instructions (R217) -/

def cmT (f : LayA) : BitVec 2 := bits f.m 10 2
def cmMK (f : LayA) : BitVec 4 := bits f.m 6 4
def cmME (f : LayA) : Bool := bit f.m 5
/-- MZ; DIR on `vred`, Q on the deferral instructions. -/
def cmMZ (f : LayA) : Bool := bit f.m 4
def cmFN (f : LayA) : Nat := (bits f.m 0 4).toNat
/-- PE of `vstc` and `vdfr` (R232, R239). -/
def cmPE (f : LayA) : Bool := bit f.m 3
/-- SPK of `vstc` and `vdfr`. -/
def cmSPK (f : LayA) : Nat := (bits f.m 0 3).toNat
/-- [11:6]: the format index FX (R230, R276), or the restart register RS (R249). -/
def mHi (f : LayA) : Reg := bits f.m 6 6
/-- [5]: the L bit of a format operand (R230, R276). -/
def mL (f : LayA) : Bool := bit f.m 5

/-! ## Layout B fields of vector instructions -/

/-- The conversion field (R224). -/
def cvFrom (f : LayB) : Nat := (bits f.imm 16 4).toNat
def cvTo (f : LayB) : Nat := (bits f.imm 12 4).toNat
def cvMK (f : LayB) : BitVec 4 := bits f.imm 8 4
def cvME (f : LayB) : Bool := bit f.imm 7
def cvMZ (f : LayB) : Bool := bit f.imm 6
def cvRZ (f : LayB) : Bool := bit f.imm 5
def cvSAT (f : LayB) : Bool := bit f.imm 4
def cvPART (f : LayB) : Nat := (bits f.imm 1 3).toNat
/-- The block field (R227). -/
def bkFX (f : LayB) : Reg := bits f.imm 14 6
def bkL (f : LayB) : Bool := bit f.imm 13
def bkWT (f : LayB) : BitVec 2 := bits f.imm 11 2
/-- The memory field (R231); H, MK and ME are shared with the gather field (R235). -/
def mfH (f : LayB) : Bool := bit f.imm 19
def mfMK (f : LayB) : BitVec 4 := bits f.imm 15 4
def mfME (f : LayB) : Bool := bit f.imm 14
def mfPE (f : LayB) : Bool := bit f.imm 13
def mfSPK (f : LayB) : Nat := (bits f.imm 10 3).toNat
def mfOFF (f : LayB) : Int := (bits f.imm 0 10).toInt
/-- The broadcast field (R234). -/
def bcR (f : LayB) : Bool := bit f.imm 19
def bcW (f : LayB) : BitVec 2 := bits f.imm 17 2
def bcIDX (f : LayB) : Nat := (bits f.imm 8 9).toNat
def bcMK (f : LayB) : BitVec 4 := bits f.imm 4 4
def bcME (f : LayB) : Bool := bit f.imm 3
def bcMZ (f : LayB) : Bool := bit f.imm 2
/-- The shape field (R238). -/
def vsLN (f : LayB) : Nat := (bits f.imm 8 7).toNat
def vsROWS (f : LayB) : Nat := (bits f.imm 0 5).toNat

/-! ## mod12 of the matrix instructions (R306) -/

def mxT (f : LayA) : Nat := (bits f.m 9 3).toNat
def mxOL (f : LayA) : Bool := bit f.m 8
def mxTWO (f : LayA) : Bool := bit f.m 7
def mxARR (f : LayA) : Bool := bit f.m 4
def mxTR (f : LayA) : Bool := bit f.m 3
def mxVB (f : LayA) : Bool := bit f.m 2
def mxROLE (f : LayA) : Bool := bit f.m 8
def mxDIV (f : LayA) : Bool := bit f.m 8
def mxFREE (f : LayA) : Bool := bit f.m 7
/-- n of `mgath`, `mpair` and `mstat`: [6:0] holds n - 1. -/
def mxN (f : LayA) : Nat := (bits f.m 0 7).toNat + 1

/-! ## Whole-field legality: the ILL conditions of R48 that a word alone decides -/

/-- A field of the handle, channel or mask kind (R37). -/
def in16 (r : Reg) : Bool := r.toNat < 16

/-- VER and SCH (R41 to R45): a reserved version, v0 with SCH[2:0] nonzero, S on an opcode without a stamp, or a
wait or advance for a channel that does not exist. -/
def headOk (h : Head) (ka kb stamped : Bool) : Bool :=
  (h.ver = 0#2 && bits h.sch 0 3 = 0#3 || h.ver = 1#2)
  && (stamped || !schS h)
  && (ka || (schWA h = 0 && !schAA h))
  && (kb || (schWB h = 0 && !schAB h))

/-- A vector-or-channel field (R218): with its K bit set it holds a channel. -/
def vocOk (k : Bool) (r : Reg) : Bool := !k || in16 r

/-- MK and MZ are zero-required when ME = 0 (R215). -/
def maskOk (me mz : Bool) (mk : BitVec 4) : Bool := me || (!mz && mk = 0#4)

/-- The CM layout with functions 0 to `fn` listed (R217). -/
def cmOk (f : LayA) (fn : Nat) : Bool :=
  cmT f != 3#2 && maskOk (cmME f) (cmMZ f) (cmMK f) && cmFN f ≤ fn

/-- A vector instruction of layout A with sources a and b, and c zero-required unless `useC`. -/
def vecAB (h : Head) (f : LayA) (useC : Bool) : Bool :=
  headOk h f.ka f.kb false && vocOk f.ka f.a && vocOk f.kb f.b && (useC || f.c = 0#6)

/-- A vector instruction of layout A with the one source a. -/
def vecA1 (h : Head) (f : LayA) : Bool :=
  headOk h f.ka false false && vocOk f.ka f.a && !f.kb && f.b = 0#6 && f.c = 0#6

/-- A layout A instruction with no channel operand. -/
def noChan (h : Head) (f : LayA) (stamped : Bool) : Bool :=
  headOk h false false stamped && !f.ka && !f.kb

/-- A layout A instruction whose field a alone may name a channel. -/
def chanA (h : Head) (f : LayA) (stamped : Bool) : Bool :=
  headOk h f.ka false stamped && vocOk f.ka f.a && !f.kb

/-- A layout B instruction: no channels, no stamp. -/
def headB (h : Head) : Bool := headOk h false false false

/-- `ecfg`/`erd` items some file lists (R39, R86, R88, R204, R216, R295). -/
def itemListed (item : BitVec 12) : Bool :=
  let n := item.toNat
  n = 0 || n = 0x010 || n = 0x011 || (0x0F0 ≤ n && n ≤ 0x0F2) || (0x100 ≤ n && n ≤ 0x104) || (0x600 ≤ n && n ≤ 0x641)

/-- Items their owning file marks read-only (R216). -/
def itemReadOnly (item : BitVec 12) : Bool :=
  let n := item.toNat
  n = 0x010 || n = 0x011 || (0x0F0 ≤ n && n ≤ 0x0F2)

/-- CSR numbers the table of R40 assigns. -/
def csrAssigned (c : BitVec 12) : Bool :=
  let n := c.toNat
  (0x400 ≤ n && n ≤ 0x409) || (0x800 ≤ n && n ≤ 0x802) || (0xC00 ≤ n && n ≤ 0xC04)

/-- The access class of a CSR number, its bits [11:10] (R40). -/
def csrClass (c : BitVec 12) : Nat := (bits c 10 2).toNat

/-- Every ILL condition of R48 that the instruction's own fields decide; the device's own steps have no word.
Fields that mean nothing must be zero (R46); the rules do not say so of SPK at PE = 0 in `vstc` and `vdfr`, of MK at MW = 0 in
`vdrn`, and of IDX at R = 0 in `vbcast`, where it is the model's choice (DESIGN CHOICE, log entry 77). -/
def legal : Instr → Bool
  | .bfx _ _ pos lenM1 | .bfi _ _ pos lenM1 => pos.toNat + lenM1.toNat + 1 ≤ 64
  | .wrapa _ _ ch => in16 ch
  | .loop _ _ _ len => len != 0#16
  | .loopi _ _ cnt len => cnt != 0#12 && len != 0#10
  | .repImmediate cnt => cnt != 0#12
  | .ldsu _ _ size _ => size != 3#2
  | .ldh _ base _ _ | .sth _ base _ _ => in16 base
  | .ldhu _ base size _ => in16 base && size != 3#2
  | .xlat h _ | .hinv h | .hq _ h => in16 h
  | .amo _ ra _ _ _ hnd _ | .cas _ ra _ _ _ hnd => vocOk hnd ra
  | .lda _ ra _ hnd | .stl ra _ _ hnd => vocOk hnd ra
  | .cbset ch _ | .cbadv ch _ _ | .cbq _ ch | .cbwait ch _ _ => in16 ch
  | .fence _ => true
  | .ecfg item _ => itemListed item && !itemReadOnly item
  | .erd _ item => itemListed item
  | .wid _ f => f != 7#3
  | .csrr _ c => csrAssigned c
  | .csrw c _ => csrAssigned c && csrClass c != 3
  -- vector engine (R218)
  | .vadd h f | .vsub h f | .vmul h f | .vdiv h f | .vmin h f | .vmax h f => vecAB h f false && cmOk f 0
  | .vfma h f | .vfms h f | .vfnma h f | .vimad h f => vecAB h f true && cmOk f 0
  | .vsqrt h f | .vabs h f | .vneg h f | .vclass h f | .vlog2 h f => vecA1 h f && cmOk f 0
  | .vexp2 h f => vecA1 h f && cmOk f 1
  | .vcmp h f => vecAB h f false && cmOk f 7
  | .viadd h f | .visub h f | .vimul h f => vecAB h f false && cmOk f 2
  | .viand h f | .vior h f | .vixor h f | .vishl h f | .vishr h f | .visar h f => vecAB h f false && cmOk f 0
  | .vimin h f | .vimax h f => vecAB h f false && cmOk f 1
  | .vicmp h f => vecAB h f false && cmOk f 9
  | .vcvt h f | .vtfenc h f | .vtfdec h f =>
    headB h && f.b = 0#6 && !bit f.imm 0 && maskOk (cvME f) (cvMZ f) (cvMK f)
  | .vtfcmp h f => vecAB h f false && cmOk f 6
  | .vqblk h f => headB h && f.b = 0#6 && bkWT f != 3#2 && bits f.imm 0 11 = 0#11
  | .vdqblk h f => headB h && bkWT f != 3#2 && bits f.imm 0 11 = 0#11
  | .vred h f => vecA1 h f && cmT f != 3#2 && maskOk (cmME f) false (cmMK f) && cmFN f ≤ 7
  | .vdot4 h f => vecAB h f true && bits f.m 0 4 = 0#4
  | .vld h f | .vst h f =>
    headB h && vocOk (mfH f) f.a && maskOk (mfME f) false (mfMK f) && (mfPE f || mfSPK f = 0)
  | .vldc h f =>
    chanA h f false && f.ka && f.b = 0#6 && f.c = 0#6 && cmT f = 0#2 && !cmMZ f
      && maskOk (cmME f) false (cmMK f) && cmFN f = 0
  | .vstc h f =>
    chanA h f false && f.ka && f.b = 0#6 && f.c = 0#6 && cmT f = 0#2 && !cmMZ f
      && maskOk (cmME f) false (cmMK f) && (cmPE f || cmSPK f = 0)
  | .vmov h f => vecA1 h f && cmOk f 0 && cmT f = 0#2
  | .vsel h f => vecAB h f false && cmT f = 0#2 && cmME f && !cmMZ f && cmFN f = 0
  | .vbcast h f =>
    headB h && f.b = 0#6 && bcW f != 3#2 && maskOk (bcME f) (bcMZ f) (bcMK f) && bits f.imm 0 2 = 0#2
      && (bcR f || bcIDX f = 0)
  | .vperm h f => vecAB h f false && cmOk f 0
  | .vtrans h f => vecA1 h f && (cmT f = 0#2 || cmT f = 1#2) && bits f.m 0 10 = 0#10
  | .vgat h f | .vsca h f =>
    headB h && vocOk (mfH f) f.b && maskOk (mfME f) false (mfMK f) && bits f.imm 0 14 = 0#14
  | .mlog h f =>
    noChan h f false && in16 h.dst && f.c = 0#6 && bits f.m 4 8 = 0#8
      && (if cmFN f ≤ 3 then in16 f.a && in16 f.b
          else if cmFN f = 4 then in16 f.a && f.b = 0#6
          else if cmFN f ≤ 6 then f.a = 0#6 && f.b = 0#6
          else cmFN f = 7 && f.b = 0#6)
  | .vkeep h f => headOk h f.ka false false && vocOk f.ka f.a && !f.kb && cmOk f 0
  | .vrng h f => noChan h f false && f.c = 0#6 && cmT f = 0#2 && cmOk f 1
  | .vshape h f =>
    headB h && h.dst = 0#6 && f.a = 0#6 && f.b = 0#6 && bits f.imm 15 5 = 0#5 && bits f.imm 5 3 = 0#3
  | .vdfr h f =>
    noChan h f false && f.a = 0#6 && f.b = 0#6 && f.c = 0#6 && cmT f = 0#2
      && maskOk (cmME f) false (cmMK f) && (cmPE f || cmSPK f = 0)
  | .vdrn h f =>
    noChan h f false && f.a = 0#6 && f.b = 0#6 && f.c = 0#6 && cmT f = 0#2
      && maskOk (cmME f) false (cmMK f) && cmFN f = 0
  | .vdcnt h f =>
    noChan h f false && f.a = 0#6 && f.b = 0#6 && f.c = 0#6 && bits f.m 5 7 = 0#7 && cmFN f = 0
  -- matrix engine (R306)
  | .mlatch h f =>
    chanA h f true && f.b = 0#6 && bits f.m 5 7 = 0#7 && bits f.m 0 2 = 0#2 && (f.ka || !mxVB f)
      && !(mxARR f && mxTR f)
  | .mgath h f => noChan h f true && bits f.m 7 5 = 0#5
  | .mmul h f =>
    chanA h f true && f.b = 0#6 && bits f.m 0 7 = 0#7 && (!mxOL f || (f.a = 0#6 && !f.ka))
  | .mattn h f => chanA h f true && bits f.m 0 8 = 0#8 && (!mxOL f || (f.a = 0#6 && !f.ka))
  | .mpair h f => noChan h f true && f.b = 0#6 && !bit f.m 7
  | .mdrain h f => noChan h f true && bits f.m 0 7 = 0#7
  | .mld h f => noChan h f true && bits f.m 0 9 = 0#9
  | .mzero h f => noChan h f true && f.a = 0#6 && f.b = 0#6 && bits f.m 8 4 = 0#4 && bits f.m 0 8 != 0#8
  | .mmask h f => noChan h f false && f.c = 0#6 && f.m = 0#12
  | .mstat h f => noChan h f true && f.b = 0#6 && bits f.m 7 2 = 0#2
  | .mtest h f => noChan h f true && f.a = 0#6 && f.b = 0#6 && bits f.m 4 8 = 0#8 && bits f.m 0 4 != 0#4
  | .mwait h f => noChan h f true && f.a = 0#6 && f.b = 0#6 && f.m = 0#12 && (schS h || f.c != 0#6)
  -- copy and gather engine (R249)
  | .cpy h f => noChan h f false && f.c = 0#6 && bits f.m 0 6 = 0#6
  | .cpyw h f => chanA h f false && f.ka && bits f.m 0 6 = 0#6
  | .cfill h f => noChan h f false && f.c = 0#6 && bits f.m 2 4 = 0#4
  | .cgat h f | .csca h f => noChan h f false && bits f.m 0 6 = 0#6
  | .cxs h f => noChan h f true && f.m = 0#12
  | .cpeer h f => noChan h f false && bits f.m 1 5 = 0#5
  -- KV page engine (R276)
  | .kvopen h f => noChan h f false && bits f.m 0 5 = 0#5
  | .kvseek h f => noChan h f false && f.m = 0#12
  | .kvstrm h f =>
    headOk h f.ka f.kb false && f.ka && f.kb && in16 f.a && in16 f.b && !schAA h && !schAB h
      && bits f.m 2 10 = 0#10 && bits f.m 0 2 != 3#2
  | .kvapp h f => noChan h f false && f.c = 0#6 && bits f.m 1 4 = 0#4
  | .kvref h f => noChan h f false && f.c = 0#6 && f.m = 0#12
  | .kvfree h f => noChan h f false && f.b = 0#6 && f.c = 0#6 && f.m = 0#12
  | .kvstat h f => noChan h f false && f.c = 0#6 && f.m = 0#12
  -- weight stack engine (R342)
  | .fact h f | .fsa h f | .fsav h f => chanA h f false && f.c = 0#6 && f.m = 0#12
  | .fsense h f | .fmap h f | .fstat h f | .fprog h f => noChan h f false && f.c = 0#6 && f.m = 0#12
  | .fscal h f | .frebuild h f | .fsync h f | .ferase h f | .fduty h f =>
    noChan h f false && f.a = 0#6 && f.c = 0#6 && f.m = 0#12
  -- backfill and maintenance (R378, R418)
  | .xconf h f => noChan h f false && f.m = 0#12
  | .bfq h f => noChan h f false && f.c = 0#6 && f.m = 0#12
  | .bfpost h f | .bfwait h f | .bfmode h f | .bfflush h f =>
    noChan h f false && f.b = 0#6 && f.c = 0#6 && f.m = 0#12
  | .bdgq h f => noChan h f false && f.c = 0#6 && f.m = 0#12
  | .bdghold h f => noChan h f true && f.m = 0#12
  -- no field of these can make the word illegal
  | .add _ _ _ | .sub _ _ _ | .mul _ _ _ | .mulh _ _ _ | .mulhu _ _ _ | .div _ _ _ | .divu _ _ _ | .rem _ _ _
  | .remu _ _ _ | .and _ _ _ | .or _ _ _ | .xor _ _ _ | .andn _ _ _ | .shl _ _ _ | .shr _ _ _ | .sar _ _ _
  | .min _ _ _ | .max _ _ _ | .minu _ _ _ | .maxu _ _ _ | .slt _ _ _ | .sltu _ _ _ | .clz _ _ | .ctz _ _
  | .popc _ _ | .addi _ _ _ | .andi _ _ _ | .ori _ _ _ | .xori _ _ _ | .slti _ _ _ | .shli _ _ _ | .shri _ _ _
  | .sari _ _ _ | .lui _ _ | .imad _ _ _ _ | .sel _ _ _ _ | .lea _ _ _ _ | .beq _ _ _ | .bne _ _ _ | .blt _ _ _
  | .bge _ _ _ | .bltu _ _ _ | .bgeu _ _ _ | .jmp _ | .jal _ | .jr _ | .lbrk _ _ | .lbrkUnconditional _ | .rep _
  | .spset _ | .lds _ _ _ _ | .sts _ _ _ _ | .bar | .bara | .barw | .jwait _ | .jq _ _ | .stmp _ | .stwait _
  | .stwaitR _ | .tail | .exit | .trap _ | .brk _ | .nop | .sret | .wfe => true
  -- the device's own steps: no word stands for them
  | .instructionStallEnd _ | .loadReturn _ | .translationWalk _ _ | .vectorEntryStart _ | .vectorFaultTaken _
  | .matrixEntryStart _ | .selfTest _ _ _ | .pairHeaderArrival _ | .pairMerge _ | .pairVerdict _
  | .pairWindowExpiry _ | .pairAbort _ | .cxsPathReserve _ _ | .streamSlotFill _ _ | .pendingRefetch _ _
  | .coverageQuery _ _ | .stackCommandArrival _ | .pairArbitration _ _ _ | .senseComplete _ _ _
  | .pageDecode _ _ _ _ | .softReread _ _ _ _ | .macPass _ _ _ | .groupReduction _ _ _ | .stackOutput _ _
  | .flitReplay _ _ | .stackLinkFailure _ | .dieNotResponding _ _ | .backfillVectorLoad _ _ | .backfillAgeLimit _
  | .backfillRowForm _ _ | .backfillSlotWrite _ _ | .engineDispatch _ _ | .jobStart _ _ | .jobCompletion _ _
  | .jobFault _ _ | .channelViewRequest _ | .channelStall _ | .barrierRelease _ | .tagSweep _
  | .tier1BurstRead _ _ _ _ | .parityRetry _ _ | .laneTest _ _ | .writeParityError _ _ _ | .revocation _ _ _
  | .pageRequestAnswer _ | .doorbell _ | .launchDecision _ | .schedulerEvaluation | .priorityAging _
  | .preemption _ | .contextResume _ | .workItemStart _ | .trackerEntryFree _ | .contextEnd _ | .energyHold _
  | .completionRecordWrite | .abort _ | .resume _ | .setEnergy _ | .completionRingConfigWrite _ _
  | .powlimWrite _ | .peerEntryWrite _ _ | .inboundWindowWrite _ _ | .apbaseWrite _ | .injectionSlotWrite _ _ _
  | .registerWrite _ _ _ | .apertureAccess _ _ _ | .hostMemoryAccess _ _ _ | .peerRequest _ _ _ _ _
  | .peerFlushRead _ | .peerTimeout _ _ | .ideKeyExchange _ | .ideIntegrityFailure _ | .memoryPortFailure _
  | .expanderTimeout _ | .resync | .logread | .logclr | .owlread | .wear | .attest | .time | .extadd | .extdel
  | .park | .unpark | .retentionParkExit _ _ | .fwupd | .retrain | .coldBoot _ _ _ | .trainingRecordWrite _
  | .moduleReset | .powerLoss | .wearSample | .wearCountSave | .computeDieTrip | .stackTrip _ | .stackTripClear _
  | .stackTripPersisted _ | .dutyCyclingStart _ | .dutyCyclingStop _ | .boostEpoch _ | .senseAllowanceWindow
  | .energyWindow _ | .undervoltWindow _ _ | .marginEvent _ _ _ _ | .marginStallEnd _ | .undervoltResume _
  | .watchdogExpiry | .fallbackEnd | .limiterStep | .bandSwitchOff _ _ | .bandWake _ _ | .badgerStep _ _ _
  | .relocationReadStep _ _ _ _ | .relocationProgramStep _ _ _ _ | .mapSwitch _ _ _ | .compaction _ _ _
  | .blockErase _ _ _ _ _ | .scrubDue _ | .scrubSense _ _ | .badgerBudgetWindow | .holdEnd _
  | .encodingNotAnInstruction _ | .pageProgram _ _ _ _ | .idleSlotsEnd _ _ _ | .priorityReturnToPrio _ => false

end Sys2Proof.Machine
end

