-- ==== Sys2Proof/WellFormed.lean ====
section
/-!
DEFINITION. Well-formedness of an instruction: no ILL condition of R48 that its own fields decide. The conditions
themselves stand in Machine/Fields.lean (`legal`). The device's own steps have no word, so none is well-formed as an
encoding.
-/
namespace Sys2Proof

/-- The instruction has a word, and none of R48's ILL conditions holds of it. -/
def Instr.wf (i : Instr) : Bool := Machine.legal i

end Sys2Proof
end

