-- ==== Sys2Proof/Decode.lean ====
section
/-!
DEFINITION. The decoder and the encoder, both written from R31 to R47. `decode` is total on any two words: it gives
the instruction or says by name why the word is none (R48). `encode` gives the words of an instruction.
-/
namespace Sys2Proof
open Sys2Proof.Machine (bits bit legal)

/-! ## The control subset (R35 to R38) -/

/-- Major opcode 0x01: func7 selects the operation. -/
def decodeAlu (rd ra rb : Reg) (f7 : BitVec 7) : Option Instr :=
  match f7.toNat with
  | 0x00 => some (.add rd ra rb)
  | 0x01 => some (.sub rd ra rb)
  | 0x02 => some (.mul rd ra rb)
  | 0x03 => some (.mulh rd ra rb)
  | 0x04 => some (.mulhu rd ra rb)
  | 0x05 => some (.div rd ra rb)
  | 0x06 => some (.divu rd ra rb)
  | 0x07 => some (.rem rd ra rb)
  | 0x08 => some (.remu rd ra rb)
  | 0x10 => some (.and rd ra rb)
  | 0x11 => some (.or rd ra rb)
  | 0x12 => some (.xor rd ra rb)
  | 0x13 => some (.andn rd ra rb)
  | 0x18 => some (.shl rd ra rb)
  | 0x19 => some (.shr rd ra rb)
  | 0x1A => some (.sar rd ra rb)
  | 0x20 => some (.min rd ra rb)
  | 0x21 => some (.max rd ra rb)
  | 0x22 => some (.minu rd ra rb)
  | 0x23 => some (.maxu rd ra rb)
  | 0x24 => some (.slt rd ra rb)
  | 0x25 => some (.sltu rd ra rb)
  | 0x30 => if rb = 0#6 then some (.clz rd ra) else none
  | 0x31 => if rb = 0#6 then some (.ctz rd ra) else none
  | 0x32 => if rb = 0#6 then some (.popc rd ra) else none
  | _ => none

/-- A word with bit 31 clear: the control subset (R38). `none` is a word that is no instruction by its own bits. -/
def decodeControl (w : IWord) : Option Instr :=
  let rd : Reg := bits w 19 6
  let ra : Reg := bits w 13 6
  let rb : Reg := bits w 7 6
  let f7 : BitVec 7 := bits w 0 7
  let imm13 : BitVec 13 := bits w 0 13
  let size : BitVec 2 := bits w 11 2
  let off11 : BitVec 11 := bits w 0 11
  let lvl : BitVec 2 := bits w 23 2
  let when' (c : Bool) (i : Instr) : Option Instr := if c then some i else none
  match (bits w 25 6).toNat with
  | 0x01 => decodeAlu rd ra rb f7
  | 0x02 => some (.addi rd ra imm13)
  | 0x03 => some (.andi rd ra imm13)
  | 0x04 => some (.ori rd ra imm13)
  | 0x05 => some (.xori rd ra imm13)
  | 0x06 => some (.slti rd ra imm13)
  | 0x07 =>
    if bits w 6 5 != 0#5 then none
    else match size.toNat with
      | 0 => some (.shli rd ra (bits w 0 6))
      | 1 => some (.shri rd ra (bits w 0 6))
      | 2 => some (.sari rd ra (bits w 0 6))
      | _ => none
  | 0x08 => some (.lui rd (bits w 0 19))
  | 0x09 => if bit w 0 then some (.sel rd ra rb (bits w 1 6)) else some (.imad rd ra rb (bits w 1 6))
  | 0x0A => when' (!bit w 12) (.bfx rd ra (bits w 6 6) (bits w 0 6))
  | 0x0B => when' (!bit w 12) (.bfi rd ra (bits w 6 6) (bits w 0 6))
  | 0x0C => when' (bits w 3 4 = 0#4) (.lea rd ra rb (bits w 0 3))
  | 0x0D => when' (f7 = 0#7) (.wrapa rd ra rb)
  | 0x10 => some (.beq rd ra imm13)
  | 0x11 => some (.bne rd ra imm13)
  | 0x12 => some (.blt rd ra imm13)
  | 0x13 => some (.bge rd ra imm13)
  | 0x14 => some (.bltu rd ra imm13)
  | 0x15 => some (.bgeu rd ra imm13)
  | 0x16 => some (.jmp (bits w 0 25))
  | 0x17 => some (.jal (bits w 0 25))
  | 0x18 => when' (rd = 0#6 && imm13 = 0#13) (.jr ra)
  | 0x19 => some (.loop lvl (bit w 22) (bits w 16 6) (bits w 0 16))
  | 0x1A => some (.loopi lvl (bit w 22) (bits w 10 12) (bits w 0 10))
  | 0x1B =>
    if bits w 0 16 != 0#16 then none
    else if bit w 22 then when' (bits w 16 6 = 0#6) (.lbrkUnconditional lvl)
    else some (.lbrk lvl (bits w 16 6))
  | 0x1C =>
    if lvl != 0#2 then none
    else if bit w 22 then when' (bits w 0 10 = 0#10) (.repImmediate (bits w 10 12))
    else when' (bits w 0 16 = 0#16) (.rep (bits w 16 6))
  | 0x1D => when' (bits w 8 17 = 0#17) (.spset (bits w 0 8))
  | 0x20 => some (.lds rd ra size off11)
  | 0x21 => some (.ldsu rd ra size off11)
  | 0x22 => some (.sts rd ra size off11)
  | 0x23 => some (.ldh rd ra size off11)
  | 0x24 => some (.ldhu rd ra size off11)
  | 0x25 => some (.sth rd ra size off11)
  | 0x26 =>
    match f7.toNat with
    | 0 => when' (rb = 0#6) (.xlat rd ra)
    | 1 => when' (ra = 0#6 && rb = 0#6) (.hinv rd)
    | 2 => when' (rb = 0#6) (.hq rd ra)
    | _ => none
  | 0x27 => some (.amo rd ra rb (bits w 5 2) (bit w 4) (bit w 3) (bits w 0 3))
  | 0x28 => when' (bits w 0 3 = 0#3) (.cas rd ra rb (bits w 5 2) (bit w 4) (bit w 3))
  | 0x29 => when' (bits w 5 2 = 0#2 && bits w 0 2 = 0#2 && rb = 0#6) (.lda rd ra (bits w 3 2) (bit w 2))
  | 0x2A => when' (bits w 5 2 = 0#2 && bits w 0 2 = 0#2 && rd = 0#6) (.stl ra rb (bits w 3 2) (bit w 2))
  | 0x2B => when' (rd = 0#6 && ra = 0#6 && bits w 2 11 = 0#11) (.fence (bits w 0 2))
  | 0x2C =>
    if rd != 0#6 || ra != 0#6 then none
    else match imm13.toNat with
      | 0 => some .bar
      | 1 => some .bara
      | 2 => some .barw
      | _ => none
  | 0x2D =>
    if bits w 0 3 != 0#3 then none
    else match (bits w 4 3).toNat with
      | 0 => when' (!bit w 3 && rb = 0#6) (.cbset rd ra)
      | 1 => when' (rd = 0#6) (.cbadv ra rb (bit w 3))
      | 2 => when' (!bit w 3 && rb = 0#6) (.cbq rd ra)
      | 3 => when' (rd = 0#6) (.cbwait ra rb (bit w 3))
      | _ => none
  | 0x2E =>
    match f7.toNat with
    | 0 => when' (rd = 0#6 && rb = 0#6) (.jwait ra)
    | 1 => when' (rb = 0#6) (.jq rd ra)
    | _ => none
  | 0x2F => when' (rd = 0#6 && !bit w 12) (.ecfg (bits w 0 12) ra)
  | 0x30 => when' (ra = 0#6 && !bit w 12) (.erd rd (bits w 0 12))
  | 0x31 =>
    match f7.toNat with
    | 0 => when' (ra = 0#6 && rb = 0#6) (.stmp rd)
    | 1 => when' (rd = 0#6 && rb = 0#6) (.stwait ra)
    | 2 => when' (rd = 0#6 && rb = 0#6) (.stwaitR ra)
    | _ => none
  | 0x32 =>
    if ra != 0#6 then none
    else match (bits w 10 3).toNat with
      | 0 => when' (bits w 3 7 = 0#7) (.wid rd (bits w 0 3))
      | 1 => when' (rd = 0#6 && bits w 0 10 = 0#10) .tail
      | 2 => when' (rd = 0#6 && bits w 0 10 = 0#10) .exit
      | _ => none
  | 0x3C => when' (ra = 0#6 && !bit w 12) (.csrr rd (bits w 0 12))
  | 0x3D => when' (rd = 0#6 && !bit w 12) (.csrw (bits w 0 12) ra)
  | 0x3E =>
    if rd != 0#6 || ra != 0#6 then none
    else if bit w 12 then some (.brk (bits w 0 12)) else some (.trap (bits w 0 12))
  | 0x3F =>
    if rd != 0#6 || ra != 0#6 then none
    else match imm13.toNat with
      | 0 => some .nop
      | 1 => some .sret
      | 2 => some .wfe
      | _ => none
  | _ => none

/-! ## Engine instructions (R41 to R47) -/

/-- The first word's version, destination and scheduling (R41). -/
def decodeHead (w : IWord) : Head := ⟨bits w 20 2, bits w 14 6, bits w 0 14⟩
/-- The second word in layout A (R46). -/
def decodeLayA (w : IWord) : LayA := ⟨bits w 26 6, bits w 20 6, bits w 14 6, bit w 13, bit w 12, bits w 0 12⟩
/-- The second word in layout B (R46). -/
def decodeLayB (w : IWord) : LayB := ⟨bits w 26 6, bits w 20 6, bits w 0 20⟩

/-- The vector engine's opcode map (R47). -/
def decodeVector (opc : Nat) (h : Head) (w : IWord) : Option Instr :=
  match opc with
  | 0x00 => some (.vadd h (decodeLayA w))
  | 0x01 => some (.vsub h (decodeLayA w))
  | 0x02 => some (.vmul h (decodeLayA w))
  | 0x03 => some (.vfma h (decodeLayA w))
  | 0x04 => some (.vfms h (decodeLayA w))
  | 0x05 => some (.vfnma h (decodeLayA w))
  | 0x06 => some (.vdiv h (decodeLayA w))
  | 0x07 => some (.vsqrt h (decodeLayA w))
  | 0x08 => some (.vmin h (decodeLayA w))
  | 0x09 => some (.vmax h (decodeLayA w))
  | 0x0A => some (.vabs h (decodeLayA w))
  | 0x0B => some (.vneg h (decodeLayA w))
  | 0x0C => some (.vcmp h (decodeLayA w))
  | 0x0D => some (.vclass h (decodeLayA w))
  | 0x0E => some (.vexp2 h (decodeLayA w))
  | 0x0F => some (.vlog2 h (decodeLayA w))
  | 0x10 => some (.viadd h (decodeLayA w))
  | 0x11 => some (.visub h (decodeLayA w))
  | 0x12 => some (.vimul h (decodeLayA w))
  | 0x13 => some (.vimad h (decodeLayA w))
  | 0x14 => some (.viand h (decodeLayA w))
  | 0x15 => some (.vior h (decodeLayA w))
  | 0x16 => some (.vixor h (decodeLayA w))
  | 0x17 => some (.vishl h (decodeLayA w))
  | 0x18 => some (.vishr h (decodeLayA w))
  | 0x19 => some (.visar h (decodeLayA w))
  | 0x1A => some (.vimin h (decodeLayA w))
  | 0x1B => some (.vimax h (decodeLayA w))
  | 0x1C => some (.vicmp h (decodeLayA w))
  | 0x20 => some (.vcvt h (decodeLayB w))
  | 0x21 => some (.vtfenc h (decodeLayB w))
  | 0x22 => some (.vtfdec h (decodeLayB w))
  | 0x23 => some (.vtfcmp h (decodeLayA w))
  | 0x24 => some (.vqblk h (decodeLayB w))
  | 0x25 => some (.vdqblk h (decodeLayB w))
  | 0x26 => some (.vred h (decodeLayA w))
  | 0x27 => some (.vdot4 h (decodeLayA w))
  | 0x28 => some (.vld h (decodeLayB w))
  | 0x29 => some (.vst h (decodeLayB w))
  | 0x2A => some (.vldc h (decodeLayA w))
  | 0x2B => some (.vstc h (decodeLayA w))
  | 0x2C => some (.vmov h (decodeLayA w))
  | 0x2D => some (.vsel h (decodeLayA w))
  | 0x2E => some (.vbcast h (decodeLayB w))
  | 0x2F => some (.vperm h (decodeLayA w))
  | 0x30 => some (.vtrans h (decodeLayA w))
  | 0x31 => some (.vgat h (decodeLayB w))
  | 0x32 => some (.vsca h (decodeLayB w))
  | 0x38 => some (.mlog h (decodeLayA w))
  | 0x39 => some (.vkeep h (decodeLayA w))
  | 0x3A => some (.vrng h (decodeLayA w))
  | 0x3B => some (.vshape h (decodeLayB w))
  | 0x3C => some (.vdfr h (decodeLayA w))
  | 0x3D => some (.vdrn h (decodeLayA w))
  | 0x3E => some (.vdcnt h (decodeLayA w))
  | _ => none

/-- The matrix engine's opcode map (R47). -/
def decodeMatrix (opc : Nat) (h : Head) (w : IWord) : Option Instr :=
  match opc with
  | 0x00 => some (.mlatch h (decodeLayA w))
  | 0x01 => some (.mgath h (decodeLayA w))
  | 0x02 => some (.mmul h (decodeLayA w))
  | 0x03 => some (.mattn h (decodeLayA w))
  | 0x04 => some (.mpair h (decodeLayA w))
  | 0x05 => some (.mdrain h (decodeLayA w))
  | 0x06 => some (.mld h (decodeLayA w))
  | 0x07 => some (.mzero h (decodeLayA w))
  | 0x08 => some (.mmask h (decodeLayA w))
  | 0x09 => some (.mstat h (decodeLayA w))
  | 0x0A => some (.mtest h (decodeLayA w))
  | 0x0B => some (.mwait h (decodeLayA w))
  | _ => none

/-- The copy engine's opcode map (R47). -/
def decodeCopy (opc : Nat) (h : Head) (w : IWord) : Option Instr :=
  match opc with
  | 0x00 => some (.cpy h (decodeLayA w))
  | 0x01 => some (.cpyw h (decodeLayA w))
  | 0x02 => some (.cfill h (decodeLayA w))
  | 0x03 => some (.cgat h (decodeLayA w))
  | 0x04 => some (.csca h (decodeLayA w))
  | 0x05 => some (.cxs h (decodeLayA w))
  | 0x06 => some (.cpeer h (decodeLayA w))
  | _ => none

/-- The kv engine's opcode map (R47). -/
def decodeKv (opc : Nat) (h : Head) (w : IWord) : Option Instr :=
  match opc with
  | 0x00 => some (.kvopen h (decodeLayA w))
  | 0x01 => some (.kvseek h (decodeLayA w))
  | 0x02 => some (.kvstrm h (decodeLayA w))
  | 0x03 => some (.kvapp h (decodeLayA w))
  | 0x04 => some (.kvref h (decodeLayA w))
  | 0x05 => some (.kvfree h (decodeLayA w))
  | 0x06 => some (.kvstat h (decodeLayA w))
  | _ => none

/-- The stack engine's opcode map (R47). -/
def decodeStack (opc : Nat) (h : Head) (w : IWord) : Option Instr :=
  match opc with
  | 0x00 => some (.fact h (decodeLayA w))
  | 0x01 => some (.fsa h (decodeLayA w))
  | 0x02 => some (.fsav h (decodeLayA w))
  | 0x03 => some (.fsense h (decodeLayA w))
  | 0x04 => some (.fscal h (decodeLayA w))
  | 0x05 => some (.frebuild h (decodeLayA w))
  | 0x06 => some (.fmap h (decodeLayA w))
  | 0x07 => some (.fstat h (decodeLayA w))
  | 0x08 => some (.fsync h (decodeLayA w))
  | 0x20 => some (.fprog h (decodeLayA w))
  | 0x21 => some (.ferase h (decodeLayA w))
  | 0x22 => some (.fduty h (decodeLayA w))
  | _ => none

/-- The backfill engine's opcode map (R47). -/
def decodeBackfill (opc : Nat) (h : Head) (w : IWord) : Option Instr :=
  match opc with
  | 0x00 => some (.xconf h (decodeLayA w))
  | 0x01 => some (.bfpost h (decodeLayA w))
  | 0x02 => some (.bfwait h (decodeLayA w))
  | 0x03 => some (.bfmode h (decodeLayA w))
  | 0x04 => some (.bfq h (decodeLayA w))
  | 0x05 => some (.bfflush h (decodeLayA w))
  | 0x10 => some (.bdgq h (decodeLayA w))
  | 0x11 => some (.bdghold h (decodeLayA w))
  | _ => none

/-- A word with bit 31 set, and the word after it: an engine instruction (R41, R47). -/
def decodeEngine (w0 w1 : IWord) : Option Instr :=
  let h := decodeHead w0
  let opc := (bits w0 22 6).toNat
  match (bits w0 28 3).toNat with
  | 0 => decodeVector opc h w1
  | 1 => decodeMatrix opc h w1
  | 2 => decodeCopy opc h w1
  | 3 => decodeKv opc h w1
  | 4 => decodeStack opc h w1
  | 5 => decodeBackfill opc h w1
  | _ => none

/-- The FLTA that an ILL of this instruction sets: the item for an item fault, otherwise 0 (R48). -/
def illFlta : Instr → Word
  | .ecfg item _ | .erd _ item => item.setWidth 64
  | _ => 0#64

/-- Kind of a first word: bit 31 set is an engine instruction of two words (R31). -/
def twoWords (w0 : IWord) : Bool := bit w0 31

/-- Decode the word at a first-word address and the word after it (R33, R48). -/
def decode (w0 w1 : IWord) : Except Reject Instr :=
  match (if twoWords w0 then decodeEngine w0 w1 else decodeControl w0) with
  | none => .error (.ill 0#64)
  | some i => if legal i then .ok i else .error (.ill (illFlta i))

/-- The little-endian word of four bytes (R31). -/
def wordOfBytes (b0 b1 b2 b3 : Byte) : IWord := b3 ++ b2 ++ b1 ++ b0

/-- Decode an instruction from the bytes at its address; fewer than four bytes (eight, for two words) cannot be
fetched (R34). -/
def decodeBytes : List Byte → Except Reject Instr
  | b0 :: b1 :: b2 :: b3 :: rest =>
    let w0 := wordOfBytes b0 b1 b2 b3
    if twoWords w0 then
      match rest with
      | c0 :: c1 :: c2 :: c3 :: _ => decode w0 (wordOfBytes c0 c1 c2 c3)
      | _ => .error .fetch
    else decode w0 0#32
  | _ => .error .fetch

/-- The bytes of a word, lowest address first (R31). -/
def bytesOfWord (w : IWord) : List Byte := [bits w 0 8, bits w 8 8, bits w 16 8, bits w 24 8]

/-- The instruction the decoder reads from the opcode table's numbering of the bits: the first word's bits 31..0, then
the second word's. A table row gives a control word 32 bits; the words above `nbits` are 0. -/
def decodeTableWord (nbits w : Nat) : Option Instr :=
  let v : BitVec 64 := BitVec.ofNat 64 (w % 2 ^ nbits)
  match decodeBytes (bytesOfWord (bits v 0 32) ++ bytesOfWord (bits v 32 32)) with
  | .ok i => some i
  | .error _ => none

/-! ## The encoder (R35, R38, R41, R46) -/

/-- Format R. -/
def encR (op : BitVec 6) (rd ra rb : Reg) (f7 : BitVec 7) : IWord := 0#1 ++ op ++ rd ++ ra ++ rb ++ f7
/-- Format Q. -/
def encQ (op : BitVec 6) (rd ra rb rc : Reg) (f : Bool) : IWord := 0#1 ++ op ++ rd ++ ra ++ rb ++ rc ++ BitVec.ofBool f
/-- Formats I and B, which share their field places. -/
def encI (op : BitVec 6) (rd ra : Reg) (imm : BitVec 13) : IWord := 0#1 ++ op ++ rd ++ ra ++ imm
/-- Format IL. -/
def encIL (op : BitVec 6) (rd : Reg) (imm : BitVec 19) : IWord := 0#1 ++ op ++ rd ++ imm
/-- Format J. -/
def encJ (op : BitVec 6) (off : BitVec 25) : IWord := 0#1 ++ op ++ off
/-- Format M. -/
def encM (op : BitVec 6) (rd base : Reg) (size : BitVec 2) (off : BitVec 11) : IWord :=
  0#1 ++ op ++ rd ++ base ++ size ++ off
/-- Format L: level, flag, and the 22 low bits. -/
def encL (op : BitVec 6) (lvl : BitVec 2) (p : Bool) (low : BitVec 22) : IWord :=
  0#1 ++ op ++ lvl ++ BitVec.ofBool p ++ low
/-- The first word of an engine instruction (R41). -/
def encHead (eng : BitVec 3) (opc : BitVec 6) (h : Head) : IWord := 1#1 ++ eng ++ opc ++ h.ver ++ h.dst ++ h.sch
/-- Layout A (R46). -/
def encLayA (f : LayA) : IWord := f.a ++ f.b ++ f.c ++ BitVec.ofBool f.ka ++ BitVec.ofBool f.kb ++ f.m
/-- Layout B (R46). -/
def encLayB (f : LayB) : IWord := f.a ++ f.b ++ f.imm
/-- An engine instruction of layout A. -/
def encA (eng : BitVec 3) (opc : BitVec 6) (h : Head) (f : LayA) : List IWord := [encHead eng opc h, encLayA f]
/-- An engine instruction of layout B. -/
def encB (eng : BitVec 3) (opc : BitVec 6) (h : Head) (f : LayB) : List IWord := [encHead eng opc h, encLayB f]

/-- The words of an instruction; the device's own steps have none. -/
def encode : Instr → List IWord
  | .add rd ra rb => [encR 0x01#6 rd ra rb 0x00#7]
  | .sub rd ra rb => [encR 0x01#6 rd ra rb 0x01#7]
  | .mul rd ra rb => [encR 0x01#6 rd ra rb 0x02#7]
  | .mulh rd ra rb => [encR 0x01#6 rd ra rb 0x03#7]
  | .mulhu rd ra rb => [encR 0x01#6 rd ra rb 0x04#7]
  | .div rd ra rb => [encR 0x01#6 rd ra rb 0x05#7]
  | .divu rd ra rb => [encR 0x01#6 rd ra rb 0x06#7]
  | .rem rd ra rb => [encR 0x01#6 rd ra rb 0x07#7]
  | .remu rd ra rb => [encR 0x01#6 rd ra rb 0x08#7]
  | .and rd ra rb => [encR 0x01#6 rd ra rb 0x10#7]
  | .or rd ra rb => [encR 0x01#6 rd ra rb 0x11#7]
  | .xor rd ra rb => [encR 0x01#6 rd ra rb 0x12#7]
  | .andn rd ra rb => [encR 0x01#6 rd ra rb 0x13#7]
  | .shl rd ra rb => [encR 0x01#6 rd ra rb 0x18#7]
  | .shr rd ra rb => [encR 0x01#6 rd ra rb 0x19#7]
  | .sar rd ra rb => [encR 0x01#6 rd ra rb 0x1A#7]
  | .min rd ra rb => [encR 0x01#6 rd ra rb 0x20#7]
  | .max rd ra rb => [encR 0x01#6 rd ra rb 0x21#7]
  | .minu rd ra rb => [encR 0x01#6 rd ra rb 0x22#7]
  | .maxu rd ra rb => [encR 0x01#6 rd ra rb 0x23#7]
  | .slt rd ra rb => [encR 0x01#6 rd ra rb 0x24#7]
  | .sltu rd ra rb => [encR 0x01#6 rd ra rb 0x25#7]
  | .clz rd ra => [encR 0x01#6 rd ra 0#6 0x30#7]
  | .ctz rd ra => [encR 0x01#6 rd ra 0#6 0x31#7]
  | .popc rd ra => [encR 0x01#6 rd ra 0#6 0x32#7]
  | .addi rd ra imm => [encI 0x02#6 rd ra imm]
  | .andi rd ra imm => [encI 0x03#6 rd ra imm]
  | .ori rd ra imm => [encI 0x04#6 rd ra imm]
  | .xori rd ra imm => [encI 0x05#6 rd ra imm]
  | .slti rd ra imm => [encI 0x06#6 rd ra imm]
  | .shli rd ra n => [encI 0x07#6 rd ra (0#2 ++ 0#5 ++ n)]
  | .shri rd ra n => [encI 0x07#6 rd ra (1#2 ++ 0#5 ++ n)]
  | .sari rd ra n => [encI 0x07#6 rd ra (2#2 ++ 0#5 ++ n)]
  | .lui rd imm => [encIL 0x08#6 rd imm]
  | .imad rd ra rb rc => [encQ 0x09#6 rd ra rb rc false]
  | .sel rd ra rb rc => [encQ 0x09#6 rd ra rb rc true]
  | .bfx rd ra pos lenM1 => [encI 0x0A#6 rd ra (0#1 ++ pos ++ lenM1)]
  | .bfi rd ra pos lenM1 => [encI 0x0B#6 rd ra (0#1 ++ pos ++ lenM1)]
  | .lea rd ra rb sh => [encR 0x0C#6 rd ra rb (0#4 ++ sh)]
  | .wrapa rd ra ch => [encR 0x0D#6 rd ra ch 0#7]
  | .beq ra rb off => [encI 0x10#6 ra rb off]
  | .bne ra rb off => [encI 0x11#6 ra rb off]
  | .blt ra rb off => [encI 0x12#6 ra rb off]
  | .bge ra rb off => [encI 0x13#6 ra rb off]
  | .bltu ra rb off => [encI 0x14#6 ra rb off]
  | .bgeu ra rb off => [encI 0x15#6 ra rb off]
  | .jmp off => [encJ 0x16#6 off]
  | .jal off => [encJ 0x17#6 off]
  | .jr ra => [encI 0x18#6 0#6 ra 0#13]
  | .loop lvl p ra len => [encL 0x19#6 lvl p (ra ++ len)]
  | .loopi lvl p cnt len => [encL 0x1A#6 lvl p (cnt ++ len)]
  | .lbrk lvl ra => [encL 0x1B#6 lvl false (ra ++ 0#16)]
  | .lbrkUnconditional lvl => [encL 0x1B#6 lvl true 0#22]
  | .rep ra => [encL 0x1C#6 0#2 false (ra ++ 0#16)]
  | .repImmediate cnt => [encL 0x1C#6 0#2 true (cnt ++ 0#10)]
  | .spset imm => [encJ 0x1D#6 (0#17 ++ imm)]
  | .lds rd base size off => [encM 0x20#6 rd base size off]
  | .ldsu rd base size off => [encM 0x21#6 rd base size off]
  | .sts rd base size off => [encM 0x22#6 rd base size off]
  | .ldh rd base size off => [encM 0x23#6 rd base size off]
  | .ldhu rd base size off => [encM 0x24#6 rd base size off]
  | .sth rd base size off => [encM 0x25#6 rd base size off]
  | .xlat h ra => [encR 0x26#6 h ra 0#6 0#7]
  | .hinv h => [encR 0x26#6 h 0#6 0#6 1#7]
  | .hq rd h => [encR 0x26#6 rd h 0#6 2#7]
  | .amo rd ra rb ord z hnd op => [encR 0x27#6 rd ra rb (ord ++ BitVec.ofBool z ++ BitVec.ofBool hnd ++ op)]
  | .cas rd ra rb ord z hnd => [encR 0x28#6 rd ra rb (ord ++ BitVec.ofBool z ++ BitVec.ofBool hnd ++ 0#3)]
  | .lda rd ra size hnd => [encR 0x29#6 rd ra 0#6 (0#2 ++ size ++ BitVec.ofBool hnd ++ 0#2)]
  | .stl ra rb size hnd => [encR 0x2A#6 0#6 ra rb (0#2 ++ size ++ BitVec.ofBool hnd ++ 0#2)]
  | .fence scope => [encI 0x2B#6 0#6 0#6 (0#11 ++ scope)]
  | .bar => [encI 0x2C#6 0#6 0#6 0#13]
  | .bara => [encI 0x2C#6 0#6 0#6 1#13]
  | .barw => [encI 0x2C#6 0#6 0#6 2#13]
  | .cbset ch ra => [encR 0x2D#6 ch ra 0#6 0#7]
  | .cbadv ch rb side => [encR 0x2D#6 0#6 ch rb (1#3 ++ BitVec.ofBool side ++ 0#3)]
  | .cbq rd ch => [encR 0x2D#6 rd ch 0#6 (2#3 ++ 0#4)]
  | .cbwait ch rb side => [encR 0x2D#6 0#6 ch rb (3#3 ++ BitVec.ofBool side ++ 0#3)]
  | .jwait ra => [encR 0x2E#6 0#6 ra 0#6 0#7]
  | .jq rd ra => [encR 0x2E#6 rd ra 0#6 1#7]
  | .ecfg item ra => [encI 0x2F#6 0#6 ra (0#1 ++ item)]
  | .erd rd item => [encI 0x30#6 rd 0#6 (0#1 ++ item)]
  | .stmp rd => [encR 0x31#6 rd 0#6 0#6 0#7]
  | .stwait ra => [encR 0x31#6 0#6 ra 0#6 1#7]
  | .stwaitR ra => [encR 0x31#6 0#6 ra 0#6 2#7]
  | .wid rd f => [encI 0x32#6 rd 0#6 (0#10 ++ f)]
  | .tail => [encI 0x32#6 0#6 0#6 (1#3 ++ 0#10)]
  | .exit => [encI 0x32#6 0#6 0#6 (2#3 ++ 0#10)]
  | .csrr rd csr => [encI 0x3C#6 rd 0#6 (0#1 ++ csr)]
  | .csrw csr ra => [encI 0x3D#6 0#6 ra (0#1 ++ csr)]
  | .trap code => [encI 0x3E#6 0#6 0#6 (0#1 ++ code)]
  | .brk code => [encI 0x3E#6 0#6 0#6 (1#1 ++ code)]
  | .nop => [encI 0x3F#6 0#6 0#6 0#13]
  | .sret => [encI 0x3F#6 0#6 0#6 1#13]
  | .wfe => [encI 0x3F#6 0#6 0#6 2#13]
  | .vadd h f => encA 0#3 0x00#6 h f
  | .vsub h f => encA 0#3 0x01#6 h f
  | .vmul h f => encA 0#3 0x02#6 h f
  | .vfma h f => encA 0#3 0x03#6 h f
  | .vfms h f => encA 0#3 0x04#6 h f
  | .vfnma h f => encA 0#3 0x05#6 h f
  | .vdiv h f => encA 0#3 0x06#6 h f
  | .vsqrt h f => encA 0#3 0x07#6 h f
  | .vmin h f => encA 0#3 0x08#6 h f
  | .vmax h f => encA 0#3 0x09#6 h f
  | .vabs h f => encA 0#3 0x0A#6 h f
  | .vneg h f => encA 0#3 0x0B#6 h f
  | .vcmp h f => encA 0#3 0x0C#6 h f
  | .vclass h f => encA 0#3 0x0D#6 h f
  | .vexp2 h f => encA 0#3 0x0E#6 h f
  | .vlog2 h f => encA 0#3 0x0F#6 h f
  | .viadd h f => encA 0#3 0x10#6 h f
  | .visub h f => encA 0#3 0x11#6 h f
  | .vimul h f => encA 0#3 0x12#6 h f
  | .vimad h f => encA 0#3 0x13#6 h f
  | .viand h f => encA 0#3 0x14#6 h f
  | .vior h f => encA 0#3 0x15#6 h f
  | .vixor h f => encA 0#3 0x16#6 h f
  | .vishl h f => encA 0#3 0x17#6 h f
  | .vishr h f => encA 0#3 0x18#6 h f
  | .visar h f => encA 0#3 0x19#6 h f
  | .vimin h f => encA 0#3 0x1A#6 h f
  | .vimax h f => encA 0#3 0x1B#6 h f
  | .vicmp h f => encA 0#3 0x1C#6 h f
  | .vcvt h f => encB 0#3 0x20#6 h f
  | .vtfenc h f => encB 0#3 0x21#6 h f
  | .vtfdec h f => encB 0#3 0x22#6 h f
  | .vtfcmp h f => encA 0#3 0x23#6 h f
  | .vqblk h f => encB 0#3 0x24#6 h f
  | .vdqblk h f => encB 0#3 0x25#6 h f
  | .vred h f => encA 0#3 0x26#6 h f
  | .vdot4 h f => encA 0#3 0x27#6 h f
  | .vld h f => encB 0#3 0x28#6 h f
  | .vst h f => encB 0#3 0x29#6 h f
  | .vldc h f => encA 0#3 0x2A#6 h f
  | .vstc h f => encA 0#3 0x2B#6 h f
  | .vmov h f => encA 0#3 0x2C#6 h f
  | .vsel h f => encA 0#3 0x2D#6 h f
  | .vbcast h f => encB 0#3 0x2E#6 h f
  | .vperm h f => encA 0#3 0x2F#6 h f
  | .vtrans h f => encA 0#3 0x30#6 h f
  | .vgat h f => encB 0#3 0x31#6 h f
  | .vsca h f => encB 0#3 0x32#6 h f
  | .mlog h f => encA 0#3 0x38#6 h f
  | .vkeep h f => encA 0#3 0x39#6 h f
  | .vrng h f => encA 0#3 0x3A#6 h f
  | .vshape h f => encB 0#3 0x3B#6 h f
  | .vdfr h f => encA 0#3 0x3C#6 h f
  | .vdrn h f => encA 0#3 0x3D#6 h f
  | .vdcnt h f => encA 0#3 0x3E#6 h f
  | .mlatch h f => encA 1#3 0x00#6 h f
  | .mgath h f => encA 1#3 0x01#6 h f
  | .mmul h f => encA 1#3 0x02#6 h f
  | .mattn h f => encA 1#3 0x03#6 h f
  | .mpair h f => encA 1#3 0x04#6 h f
  | .mdrain h f => encA 1#3 0x05#6 h f
  | .mld h f => encA 1#3 0x06#6 h f
  | .mzero h f => encA 1#3 0x07#6 h f
  | .mmask h f => encA 1#3 0x08#6 h f
  | .mstat h f => encA 1#3 0x09#6 h f
  | .mtest h f => encA 1#3 0x0A#6 h f
  | .mwait h f => encA 1#3 0x0B#6 h f
  | .cpy h f => encA 2#3 0x00#6 h f
  | .cpyw h f => encA 2#3 0x01#6 h f
  | .cfill h f => encA 2#3 0x02#6 h f
  | .cgat h f => encA 2#3 0x03#6 h f
  | .csca h f => encA 2#3 0x04#6 h f
  | .cxs h f => encA 2#3 0x05#6 h f
  | .cpeer h f => encA 2#3 0x06#6 h f
  | .kvopen h f => encA 3#3 0x00#6 h f
  | .kvseek h f => encA 3#3 0x01#6 h f
  | .kvstrm h f => encA 3#3 0x02#6 h f
  | .kvapp h f => encA 3#3 0x03#6 h f
  | .kvref h f => encA 3#3 0x04#6 h f
  | .kvfree h f => encA 3#3 0x05#6 h f
  | .kvstat h f => encA 3#3 0x06#6 h f
  | .fact h f => encA 4#3 0x00#6 h f
  | .fsa h f => encA 4#3 0x01#6 h f
  | .fsav h f => encA 4#3 0x02#6 h f
  | .fsense h f => encA 4#3 0x03#6 h f
  | .fscal h f => encA 4#3 0x04#6 h f
  | .frebuild h f => encA 4#3 0x05#6 h f
  | .fmap h f => encA 4#3 0x06#6 h f
  | .fstat h f => encA 4#3 0x07#6 h f
  | .fsync h f => encA 4#3 0x08#6 h f
  | .fprog h f => encA 4#3 0x20#6 h f
  | .ferase h f => encA 4#3 0x21#6 h f
  | .fduty h f => encA 4#3 0x22#6 h f
  | .xconf h f => encA 5#3 0x00#6 h f
  | .bfpost h f => encA 5#3 0x01#6 h f
  | .bfwait h f => encA 5#3 0x02#6 h f
  | .bfmode h f => encA 5#3 0x03#6 h f
  | .bfq h f => encA 5#3 0x04#6 h f
  | .bfflush h f => encA 5#3 0x05#6 h f
  | .bdgq h f => encA 5#3 0x10#6 h f
  | .bdghold h f => encA 5#3 0x11#6 h f
  | .instructionStallEnd _ | .loadReturn _ | .translationWalk _ _ | .vectorEntryStart _ | .vectorFaultTaken _
  | .matrixEntryStart _ | .selfTest _ _ _ | .pairHeaderArrival _ | .pairMerge _ | .pairVerdict _
  | .pairWindowExpiry _ | .pairAbort _ | .cxsPathReserve _ _ | .streamSlotFill _ _ | .pendingRefetch _ _
  | .coverageQuery _ _ | .stackCommandArrival _ | .pairArbitration _ _ _ | .senseComplete _ _ _
  | .pageDecode _ _ _ _ | .softReread _ _ _ _ | .macPass _ _ _ | .groupReduction _ _ _ | .stackOutput _ _
  | .flitReplay _ _ | .stackLinkFailure _ | .dieNotResponding _ _ | .backfillVectorLoad _ _ | .backfillAgeLimit _
  | .backfillRowForm _ _ | .backfillSlotWrite _ _ | .engineDispatch _ _ | .jobStart _ _ | .jobCompletion _ _
  | .jobFault _ _ | .channelViewRequest _ | .channelStall _ | .barrierRelease _ | .tagSweep _
  | .tier1BurstRead _ _ _ _ | .parityRetry _ _ | .laneTest _ _ | .writeParityError _ _ _ | .revocation _ _ _
  | .pageRequestAnswer _ | .doorbell _ | .launchDecision _ | .schedulerEvaluation | .priorityAging _
  | .preemption _ | .contextResume _ | .workItemStart _ | .trackerEntryFree _ | .contextEnd _ | .energyHold _
  | .completionRecordWrite | .abort _ | .resume _ | .setEnergy _ | .completionRingConfigWrite _ _
  | .powlimWrite _ | .peerEntryWrite _ _ | .inboundWindowWrite _ _ | .apbaseWrite _ | .injectionSlotWrite _ _ _
  | .registerWrite _ _ _ | .apertureAccess _ _ _ | .hostMemoryAccess _ _ _ | .peerRequest _ _ _ _ _
  | .peerFlushRead _ | .peerTimeout _ _ | .ideKeyExchange _ | .ideIntegrityFailure _ | .memoryPortFailure _
  | .expanderTimeout _ | .resync | .logread | .logclr | .owlread | .wear | .attest | .time | .extadd | .extdel
  | .park | .unpark | .retentionParkExit _ _ | .fwupd | .retrain | .coldBoot _ _ _ | .trainingRecordWrite _
  | .moduleReset | .powerLoss | .wearSample | .wearCountSave | .computeDieTrip | .stackTrip _ | .stackTripClear _
  | .stackTripPersisted _ | .dutyCyclingStart _ | .dutyCyclingStop _ | .boostEpoch _ | .senseAllowanceWindow
  | .energyWindow _ | .undervoltWindow _ _ | .marginEvent _ _ _ _ | .marginStallEnd _ | .undervoltResume _
  | .watchdogExpiry | .fallbackEnd | .limiterStep | .bandSwitchOff _ _ | .bandWake _ _ | .badgerStep _ _ _
  | .relocationReadStep _ _ _ _ | .relocationProgramStep _ _ _ _ | .mapSwitch _ _ _ | .compaction _ _ _
  | .blockErase _ _ _ _ _ | .scrubDue _ | .scrubSense _ _ | .badgerBudgetWindow | .holdEnd _
  | .encodingNotAnInstruction _ | .pageProgram _ _ _ _ | .idleSlotsEnd _ _ _ | .priorityReturnToPrio _ => []

/-- The bytes of an instruction's words, at rising addresses (R31). -/
def encodeBytes (i : Instr) : List Byte := (encode i).flatMap bytesOfWord

end Sys2Proof
end

