-- ==== Sys2Proof/Machine/State.lean ====
section
/-!
DEFINITION. The state of the Orollato module, as plain data: sixteen cores with two context banks each, the launch
scheduler's sixteen slots, the memories, the sixteen weight stacks, the backfill engine, the power controller and its
hardware limits, the host link and the service island; and the state after module reset. INVENTORY.md lists every
field with the rule that names it.
-/
namespace Sys2Proof.Machine

/-- A sparse map from naturals, as a list of pairs with strictly rising keys and no entry at the default value. -/
abbrev AMap (β : Type) := List (Nat × β)

/-! ## Names -/

/-- The modes of the control core (R161). -/
inductive Mode where
  | user | supervisor
  deriving DecidableEq, Repr

/-- The fault codes of R150. -/
inductive FaultCode where
  | ill | priv | align | segv | xf | hiv | mmx | fpx | smiss | band | fmte | lerr | due | marg | pab | chst | trap
  | brk | stkf | seal
  deriving DecidableEq, Repr

/-- A trapped fault on its way to the supervisor: code, FLTA, FLTC.SRC and FLTC.ISL (R151). -/
structure Exc where
  code : FaultCode
  flta : Word
  src : BitVec 3
  isl : BitVec 6
  deriving DecidableEq, Repr

/-- The poison mark of a 32-byte sector (R109): uncorrectable, or a margin event on an island. -/
inductive Mark where
  | due
  | margin (isl : BitVec 6)
  deriving DecidableEq, Repr

/-- MODE of a race-detection tag (R122). -/
inductive TagMode where
  | absent | written | readOne | readSeveral
  deriving DecidableEq, Repr

/-- A race-detection tag of a checked sector (R122). -/
structure Tag where
  ph : BitVec 8
  ag : BitVec 4
  mode : TagMode
  deriving DecidableEq, Repr

/-- The spaces footprint regions lie in (R116); on-chip and virtual addresses share one 56-bit number line. -/
inductive Space where
  | mem | tile | act | pend
  deriving DecidableEq, Repr

/-- A footprint region [lo, hi) (R116). -/
structure Region where
  space : Space
  lo : Nat
  hi : Nat
  deriving DecidableEq, Repr

/-- What a stalled control core waits for (R162). -/
inductive Stall where
  | loads
  | queue (e : Eng)
  | table
  | handle (h : Nat)
  | vector
  | naming (chan : Bool) (n : Nat)
  | job (seq : BitVec 16)
  | channel (n : Nat) (producer : Bool) (count : Nat) (advance : Bool)
  | stamp (t : Nat)
  | barrier
  | tracker
  | wfe (untilCycle : Nat)
  | pageAnswer
  | slice (k : Nat)
  deriving DecidableEq, Repr

/-! ## One context bank of one core -/

/-- A hardware loop level (R160). -/
structure LoopLevel where
  act : Bool
  pipe : Bool
  ut : Bool
  nt : Bool
  lc : Word
  idx : Word
  start : Word
  stop : Word
  deriving DecidableEq, Repr

/-- A handle register (R100). `missing` says that the walk has found the page not present (R103); with `pd` as well, that
an XF has been taken on it and that its walk runs again when the context resumes. -/
structure Handle where
  v : Bool
  pd : Bool
  ck : Bool
  tier : BitVec 2
  r : Bool
  w : Bool
  x : Bool
  va : BitVec 56
  seg : Nat
  lo : Nat
  hi : Nat
  phys : Nat
  missing : Bool
  deriving DecidableEq, Repr

/-- A channel register (R18, R20): a home register, or a view of one. -/
structure Chan where
  set : Bool
  view : Bool
  home : Fin 16
  base : Nat
  slot : Nat
  count : Nat
  head : Nat
  tail : Nat
  filled : Nat
  deriving DecidableEq, Repr

/-- An outstanding load (R163) with the window of the handle it went through, if any (R105), the value it has read, once it
has performed, and the values the squash of a poisoned load returns to. -/
structure PendingLoad where
  rd : Reg
  key : Nat
  got : Option Word
  win : Option (Nat × Nat)
  va : Word
  checked : Bool
  size : Nat
  signed : Bool
  pc : Word
  x : Vector Word 64
  loops : Vector LoopLevel 4
  handles : Vector Handle 16
  repc : Word
  rrb : Word
  sp : BitVec 8
  spm : BitVec 8
  deriving DecidableEq, Repr

/-- A posted store (R185): it has passed its checks and retired, and has yet to perform at its home. `win` is the window of
the handle it went through, if any (R105). -/
structure PostedStore where
  key : Nat
  va : Nat
  win : Option (Nat × Nat)
  bytes : List Byte
  deriving DecidableEq, Repr

/-- A queue entry: the instruction and everything captured at its enqueue (R87, R177, R214, R250, R296, R339), with the
cycle of the enqueue. -/
structure Entry where
  i : Instr
  w0 : IWord
  w1 : IWord
  iaddr : Word
  wid : Word
  tag : Option (Fin 4 × Word)
  shp : Word
  kp : BitVec 16
  xa : Word
  xb : Word
  xc : Word
  xr : Word
  vd : Nat
  va : Nat
  vb : Nat
  vc : Nat
  fxs : Word
  fxk : Word
  fxv : Word
  fxo : Word
  mash : Word
  msc : Word
  mmsk : Word
  mbmp : Word
  stamp : Option Nat
  late : Bool
  maps : List (List Word)
  since : Nat
  deriving DecidableEq, Repr

/-- A fault the vector engine has reported and holds at the head of its queue (R243, R244). -/
structure VFault where
  code : FaultCode
  addr : Word
  isl : BitVec 6
  part : Bool
  deriving DecidableEq, Repr

/-- The vector engine's part of a bank (R212 to R216, R239); `vmark` holds the poison of
its registers, each by 32-byte sector: sector 8i + q of a register is lanes 8q to 8q + 7 of row i (R109, R440). -/
structure VecState where
  v : Vector (BitVec 32768) 64
  m : Vector (BitVec 1024) 16
  vctl : Word
  vfi : Word
  vfa : Word
  vfs : Word
  vmark : AMap (AMap Mark)
  dq0 : List (BitVec 32)
  dq1 : List (BitVec 32)
  queue : List Entry
  fault : Option VFault
  deriving DecidableEq, Repr

/-- KIND of a tile's chain record (R294). -/
inductive ChainKind where
  | none | plain | attn
  deriving DecidableEq, Repr

/-- A scale as stored: a format code (UE3M5 13, E5M2 4, BF16 1) and its bits (R64). -/
structure ScaleCode where
  fc : Nat
  code : Nat
  deriving DecidableEq, Repr

/-- The scale identity of a chain (R294): the latched operand's (SCB, band index), and the streamed operand's
source: none, row scales, or (SCB, ROW0). -/
structure ScaleId where
  latched : Option (Nat × Nat)
  rowScaled : Bool
  streamed : Option (Nat × Nat)
  deriving DecidableEq, Repr

/-- An accumulator tile and its row metadata (R293), its chain record (R294) and the scales recorded in its rows
(R311); `contrib` holds, per physical band, the rows the band has fed since its last passing test (R319). -/
structure Tile where
  elems : BitVec 524288
  m : BitVec 4096
  l : BitVec 4096
  poison : AMap Mark
  nan : BitVec 128
  kind : ChainKind
  scaleId : Option ScaleId
  rowScales : AMap (List ScaleCode)
  latScales : List ScaleCode
  contrib : Vector (BitVec 128) 4
  deriving DecidableEq, Repr

/-- Where a latch was filled from (R300, R301). -/
inductive LatchSrc where
  | ring (ch : Nat) (slot : Nat) (advance : Nat)
  | desc
  | gather
  deriving DecidableEq, Repr

/-- A filled latch: its source, the entry that filled it, and the rows as stored, each with its validity, its poison
and its band scale (R298 to R301, R309, R310). -/
structure Latch where
  src : LatchSrc
  entry : Entry
  rows : List Nat
  invalid : List Bool
  poisoned : List (Option Mark)
  scales : List (Option Nat)
  deriving DecidableEq, Repr

/-- The shape of a latch as the last enqueued fill recorded it (R299): reduction rows and columns (for the operand
latch, rows and elements), TR, the band-scale identity of the rows with whether they span two bands (R302), and the
format entry the rows are stored under (R79, R83). -/
structure Shape where
  red : Nat
  cols : Nat
  tr : Bool
  scale : Option (Nat × Nat)
  spans : Bool
  fx : Word
  deriving DecidableEq, Repr

/-- The rendezvous slot of a leader core (R321, R322). -/
structure PairSlot where
  f : Nat
  follower : Nat
  n : Nat
  rows : List Nat
  poison : AMap Mark
  deriving DecidableEq, Repr

/-- The wait state of a started `mpair` (R322 to R324). -/
inductive PairState where
  | idle
  | leaderWait (seq : BitVec 16) (l : Nat)
  | merging (seq : BitVec 16) (due : Nat)
  | followerWait (seq : BitVec 16) (f : Nat)
  deriving DecidableEq, Repr

/-- A message a pair member has received (R322, R323). -/
inductive PairMsg where
  | ok | reject | abort (from_ : Nat)
  deriving DecidableEq, Repr

/-- The matrix engine's part of a bank (R293 to R303, R321). -/
structure MatState where
  tiles : Vector Tile 8
  mash : Word
  mfx : Word
  msc : Word
  mmsk : Word
  mbmp : Word
  shapeS : Option Shape
  shapeV : Option Shape
  shapeO : Option Shape
  latchS : Option Latch
  latchV : Option Latch
  latchO : Option Latch
  h : Nat
  refill : Nat
  pair : PairState
  slot : Option PairSlot
  inbox : Option PairMsg
  deriving DecidableEq, Repr

/-- The phases of a job: in its queue, in an executing place, started, its accesses over, token written. -/
inductive JobPhase where
  | queued | dispatched | running | ended | done
  deriving DecidableEq, Repr

/-- A page a stream holds pinned, with the STATE field its pinning fetch sampled (R284). -/
structure Pin where
  page : Nat
  hdr : Nat
  states : BitVec 1024
  deriving DecidableEq, Repr

/-- The state of a running KV stream (R283 to R286): `m` ring slots advanced, `row` rows of the next slot written, of
which the bits of `valid` are valid. -/
structure Stream where
  desc : Nat
  pool : Nat
  p0 : Nat
  p1 : Nat
  rowF : Nat
  g : Nat
  nslot : Nat
  wait : Bool
  m : Nat
  row : Nat
  valid : Nat
  pins : List Pin
  first : Bool
  waitSince : Option Nat
  lastFetch : Nat
  poisoned : Bool
  deriving DecidableEq, Repr

/-- A job in the job table (R13 to R17, R200). `wait` is the unit at which a started copy job waits for a page (R256). -/
structure Job where
  seq : BitVec 16
  eng : Eng
  e : Entry
  dst : Reg
  reads : List Region
  writes : List Region
  edges : List (BitVec 16)
  phase : JobPhase
  inTable : Bool
  item : Nat
  code : Byte
  psn : Bool
  prog : BitVec 32
  faddr : Word
  detail : Word
  pmap : Word
  due : Nat
  doneAt : Nat
  token : Word
  result : Word
  wait : Option Nat
  stream : Option Stream
  deriving DecidableEq, Repr

/-- One context bank of a core: everything R157 saves, and what the core waits for. -/
structure Bank where
  slot : Option (Fin 16)
  mode : Mode
  pc : Word
  x : Vector Word 64
  stall : Option Stall
  loads : List PendingLoad
  posted : List PostedStore
  heldXF : Bool
  fltc : Word
  flta : Word
  flti : Word
  pend : Bool
  shp : Word
  rrb : Word
  rotn : Word
  fmtl : Word
  ashp : Word
  brs : Word
  slip : Word
  wid : Word
  ctxid : Word
  xlive : Word
  fmt : Vector Word 64
  loops : Vector LoopLevel 4
  repc : Word
  sp : BitVec 8
  spm : BitVec 8
  handles : Vector Handle 16
  chans : Vector Chan 16
  vec : VecState
  mat : MatState
  jobs : List Job
  item : Nat
  combo : Nat
  itemLive : Bool
  shareEnded : Bool
  stoppedAt : Option Nat
  barArrived : Bool
  baraOut : Bool
  barReleased : Option Nat
  chst : Option (Nat × List Nat)
  deriving DecidableEq, Repr

/-- An entry of the retirement tracker (R146). -/
structure Tracked where
  slot : Fin 16
  item : Nat
  wid : Word
  last : Bool
  deriving DecidableEq, Repr

/-- A span of ticks in which an array held `units` active band-units on some physical bands, filler included (R431, R433,
R436). -/
structure BandUse where
  bands : BitVec 4
  units : Nat
  lo : Nat
  hi : Nat
  deriving DecidableEq, Repr

/-- One core. `tlb` is the translation cache: present leaf entries by tag, oldest first (R92). `runs` and `runFrom` are
the spans of ticks in which a context ran on it, for the energy charges (R431); `testing` is a self-test in progress, its
band and the tick it ends (R318). `parked` says that its SRAM is in a retention park: `parkAt` is the tick the entry is
over, `exitAt` the tick a begun exit is (R445, R446). `fbuf` names the 32-byte sectors of instructions that the fetch buffer
holds, by key / 32, oldest first (R92). -/
structure Core where
  bank0 : Bank
  bank1 : Bank
  second : Bool
  adef : BitVec 4
  seq : BitVec 16
  tlb : List (Nat × Word)
  fbuf : List Nat
  tracker : List Tracked
  parked : Bool
  parkAt : Nat
  exitAt : Option Nat
  testBand : Fin 4
  testing : Option (Fin 4 × Nat)
  runs : List (Word × Nat × Nat)
  runFrom : Option (Word × Nat)
  bandUse : List BandUse
  deriving DecidableEq, Repr

/-! ## Launches and contexts -/

/-- A segment of a launch (R95). -/
structure Seg where
  vbase : Nat
  len : Nat
  pbase : Nat
  r : Bool
  w : Bool
  x : Bool
  tier : Nat
  pg : Bool
  chk : Bool
  home : Nat
  deriving DecidableEq, Repr

/-- The states of a context (R137); `submitted` is a launch whose header has not been decided yet (R130). -/
inductive CtxState where
  | submitted | waiting | running | preempted | held | saved | ended
  deriving DecidableEq, Repr

/-- Why a context is HELD (R143, R153). -/
inductive HoldCause where
  | none | energy | brk
  deriving DecidableEq, Repr

/-- A launch header (R129). -/
structure Header where
  entry : Nat
  segt : Nat
  widths : List Nat
  nf : Nat
  places : List Nat
  clmask : BitVec 4
  cormask : BitVec 16
  exts : List Nat
  prio : Nat
  share : Nat
  energy : Nat
  aft0 : BitVec 32
  aft1 : BitVec 32
  fmti : Nat
  arg : Word
  frec : Nat
  deriving DecidableEq, Repr

/-- A completion record (R132). -/
structure Record where
  lseq : BitVec 32
  status : Byte
  code : Byte
  final : Bool
  flti : BitVec 56
  core : BitVec 4
  flta : Word
  enrg : Word
  stamp : Word
  deriving DecidableEq, Repr

/-- The backfill engine's context record of a launch slot (R383). -/
structure BfCtx where
  mode : BitVec 2
  hv : Bool
  hz : Word
  alim : Nat
  deriving DecidableEq, Repr

/-- A launch in its slot, and its context (R131, R136 to R147). `waited` are the ticks it waited before `since`, since it
last ran (R138); `ran` the ticks of the phase it has run on each cluster, `onSince` since when it runs there (R429);
`energySet` says that the host has set ENERGY (R456); `leaving` that the last evaluation has chosen it for eviction and
its cores still drain (R139, R141). -/
structure Launch where
  lseq : BitVec 32
  hdrPA : Nat
  savePA : Nat
  ovr : Word
  ovrEnergy : Word
  hdr : Header
  segs : List Seg
  root : Nat
  state : CtxState
  hold : HoldCause
  prio : Nat
  share : Nat
  energy : Nat
  eff : Nat
  aged : Nat
  since : Nat
  waited : Nat
  started : Bool
  phase : BitVec 8
  sweptAt : Option Nat
  arrived : BitVec 16
  lastArrival : Nat
  ended : BitVec 16
  cad : Vector Nat 4
  ran : Vector Nat 4
  onSince : Vector (Option Nat) 4
  phaseStart : Nat
  energySet : Bool
  energyNJ : Nat
  btok : Int
  bf : BfCtx
  finishing : Option Record
  leaving : Bool
  savedBanks : List (Fin 16 × Bank)
  deriving DecidableEq, Repr

/-- A page request forwarded to the host driver (R99, R152, R153). -/
structure PageReq where
  slot : Fin 16
  core : Fin 16
  va : Nat
  write : Bool
  job : Option (BitVec 16)
  deriving DecidableEq, Repr

/-- The launch scheduler (R131, R132, R139), with the last FAULT or HELD record of each slot (R478). -/
structure LaunchSched where
  slots : Vector (Option Launch) 16
  nextLseq : BitVec 32
  outcomes : List (BitVec 32 × Bool)
  records : List Record
  lastStop : Vector (Option Record) 16
  pageReqs : List PageReq
  deriving DecidableEq, Repr

/-! ## Weight stacks -/

/-- A map entry: physical block and sub-block of a logical sub-block, how many of its pages are programmed (R331) and
how many can be read, their word line being complete (R366). -/
structure MapEntry where
  pblk : Nat
  psb : Nat
  programmed : Nat
  readable : Nat
  moving : Bool
  deriving DecidableEq, Repr

/-- A physical page as stored in the cells: 9,216 bytes, byte j at bits [8j+7:8j], with the identifier, kind and sealed
flag the stack map records for it (R328, R329, R352, R365), and whether it was rebuilt from its stripe (R411). -/
structure FlashPage where
  raw : BitVec 73728
  ext : Nat
  kind : Nat
  isSealed : Bool
  mended : Bool
  deriving DecidableEq, Repr

/-- Command classes (R368). -/
inductive CmdClass where
  | urgent | foreground | backfill | maintenance
  deriving DecidableEq, Repr

/-- Where one plane of a command stands: waiting for its pair; in read n of a soft-decision sense of four, before the last
(R404); in its only or last read; sensed; being read again for the k-th time; decoded; multiplied or otherwise used. -/
inductive PlaneStep where
  | waiting | softRead (n : Nat) | sensing | sensed | reread (k : Nat) | decoded | done
  deriving DecidableEq, Repr

/-- One page a command senses in a stack: its step and when that ends, the page as decoded so far, its physical page
(1152 × block + page) with what the map records of it, the codewords found uncorrectable, those recovered by a
re-read, the bits corrected per codeword, and whether it is read with the soft-decision decode (R351 to R355, R404). -/
structure PlaneWork where
  die : Nat
  plane : Nat
  lp : Nat
  step : PlaneStep
  due : Nat
  page : BitVec 73728
  ppage : Nat
  kind : Nat
  bad : BitVec 8
  recovered : BitVec 8
  corrected : List Nat
  soft : Bool
  deriving DecidableEq, Repr

/-- What a command in a stack is for: a core's job, the backfill engine's standalone sense of a list descriptor, or the
maintenance engine's own reads (R368, R392, R406, R412). -/
inductive CmdOwner where
  | job (core : Fin 16) (slot : Option (Fin 16)) (seq : BitVec 16)
  | standalone
  | badger
  deriving DecidableEq, Repr

/-- A list descriptor of a record: the record, the layer, V or K, and its index in the list (R387, R391). -/
structure PartRef where
  rec_ : Nat
  layer : Nat
  isV : Bool
  idx : Nat
  deriving DecidableEq, Repr

/-- A command in a stack (R344, R346, R368): its owner, instruction, words, context and class; when it arrives; whether
its job may sense, every command of the job having arrived and found nothing against it (R365, R367); the sub-block pair
it reads in place of the mapped one (R406); the pages it senses; the backfill vectors attached; the groups reduced; its
outputs with their poison; the record it returns; when its output is ready; why it stopped; whether it is over in this
stack. -/
structure StackCmd where
  id : Nat
  owner : CmdOwner
  i : Instr
  dw : List Word
  ctx : Word
  cls : CmdClass
  arrive : Nat
  arrived : Bool
  clear : Bool
  place : Option (Nat × Nat)
  planes : List PlaneWork
  attached : List PartRef
  groups : List Nat
  out : AMap (BitVec 32)
  outBad : AMap Mark
  sram : Bool
  result : List Word
  due : Nat
  stop : Option (FaultCode × Nat × Word)
  isOver : Bool
  deriving DecidableEq, Repr

/-- Why a logical sub-block of a plane pair is relocated (R360, R404 to R411): a refresh, the rebuild that command `cid`
of the stack asked for, the retirement of its block pair, or compaction. -/
inductive RelocCause where
  | soft | hard | risk | rebuild (cid : Nat) | retire | compact
  deriving DecidableEq, Repr

/-- Where a relocation stands (R406 to R408): before a read step; in it, its senses made by command `cid`; while pages
are rebuilt from their stripes; before a program step; in it; before a step of the read-back; in it; before the switch;
with MOVING set, waiting for the senses begun on the old location; writing the map entry since a tick. -/
inductive RelocStep where
  | toRead | reading (cid : Nat) | rebuilding | toProgram | programming | toVerify | verifying (cid : Nat)
  | toSwitch | moving | switching (t : Nat)
  deriving DecidableEq, Repr

/-- A page of a relocation's copy: its index in the sub-block, the plane of the pair, and its content. -/
structure CopiedPage where
  page : Nat
  side : Nat
  content : FlashPage
  deriving DecidableEq, Repr

/-- A queued or running relocation of logical sub-block `lsb` of pair q of a die (R406): its destination, the word line
it is at, the rebuilt pages it uses in place of failed ones, the pages read, the pages programmed, the stripes being
sensed as (command, page, plane of the pair) (R407), the tick at which the pages read are decoded, whether its copy has
begun (R409), and the tick since which its next step waits (R368). -/
structure Reloc where
  die : Nat
  q : Nat
  lsb : Nat
  cause : RelocCause
  dst : Option (Nat × Nat)
  step : RelocStep
  wl : Nat
  rebuilt : List CopiedPage
  buf : List CopiedPage
  wrote : List CopiedPage
  asks : List (Nat × Nat × Nat)
  due : Nat
  begun : Bool
  since : Nat
  deriving DecidableEq, Repr

/-- A maintenance hold (R421). -/
structure Hold where
  ctx : Word
  slot : Fin 16
  t0 : Nat
  t1 : Nat
  deriving DecidableEq, Repr

/-- An extent of the extent table (R332, R413, R469): identifier, sealed flag, digest, runs, SUSPECT, the time of its
last sense or scrub (R412), and the tick of one made while the wall clock is not set. -/
structure Extent where
  ext : BitVec 32
  isSealed : Bool
  digest : BitVec 512
  runs : List Word
  suspect : Bool
  lastSeen : Nat
  seenTick : Option Nat
  deriving DecidableEq, Repr

/-- A scrub in progress (R412): its extent, the pages left as (die, plane, logical page), the data bytes so far, and the
command that reads the first page left, or that rebuilds it (`fix`). -/
structure Scrub where
  ext : BitVec 32
  left : List (Nat × Nat × Nat)
  data : List Byte
  cur : Option Nat
  fix : Bool
  deriving DecidableEq, Repr

/-- States of a stack (R363, R372, R374). -/
inductive StackMode where
  | ready | tripped (since : Nat) | failed (reason : Nat)
  deriving DecidableEq, Repr

/-- Duty-cycling state of one plane pair (R371): busy slots begun in a row, the tick of the last, and the tick its idle
slots end. -/
structure DutyPair where
  busy : Nat
  last : Nat
  idleUntil : Nat
  deriving DecidableEq, Repr

/-- A vector slot in use of a backfill buffer (R390): its record, the CTXID, the hidden state, and the poison of its
8-byte words. -/
structure BfSlot where
  rec_ : Nat
  ctx : Word
  bytes : List Byte
  bad : AMap Mark
  deriving DecidableEq, Repr

/-- One weight stack (R328, R331, R337, R356, R363, R402 to R422). Keys: a plane pair is 64 × die + q; a plane 128 × die +
plane; a block pair 256 × pair + block; a sub-block pair 24 × block pair + sub-block; a physical page
1152 × (256 × plane key + block) + page; a logical sub-block 8192 × pair + n. -/
structure Stack where
  act : AMap Byte
  actOwner : AMap Word
  actPoison : AMap Mark
  scale : AMap Byte
  scaleOwner : AMap Word
  scaleLpb : AMap Nat
  scaleBad : AMap Mark
  bfBuf : Vector (Option BfSlot) 16
  map : AMap MapEntry
  pages : AMap FlashPage
  retired : AMap Bool
  pec : AMap Nat
  dirty : AMap Bool
  filling : AMap (Nat × Nat)
  dist : AMap Nat
  level : AMap Nat
  wseq : BitVec 32
  cmds : List StackCmd
  held : AMap Nat
  sau : AMap Nat
  bfSkipped : AMap Nat
  lastPreempt : AMap Bool
  mode : StackMode
  temp : Nat
  dieTemp : Vector Nat 8
  cycling : Bool
  dutyK : Nat
  dutyN : Nat
  duty : AMap DutyPair
  allow : Nat
  used : Nat
  corr : Nat
  unc : Nat
  rrec : Nat
  retCount : Nat
  relocs : List Reloc
  relocDone : Nat
  erasing : List (Nat × Nat)
  eraseQ : List Nat
  budget : Vector Nat 8
  hold : Option Hold
  scrubQ : List (BitVec 32)
  scrub : Option Scrub
  extents : List Extent
  linkFails : Nat
  deriving DecidableEq, Repr

/-! ## Backfill engine -/

/-- One sense-list descriptor of an exit record (R387): its doublewords, whether it has been sensed, whether a sense is
in progress and of which stacks, whether one ended in a job fault, and the outputs returned with their poison. -/
structure PartSense where
  dw : List Word
  sensed : Bool
  inFlight : Bool
  stacksLeft : Nat
  failed : Bool
  out : AMap (BitVec 32)
  bad : AMap Mark
  deriving DecidableEq, Repr

/-- A skipped layer of an exit record (R386, R388, R393, R394). -/
structure BfLayer where
  layer : Nat
  desc : Nat
  fc : Nat
  row : Nat
  rope : Nat
  abase : Nat
  ks : List PartSense
  vs : List PartSense
  rows : Option (List Byte × List Byte × List (Option Mark) × List (Option Mark))
  final : Bool
  dropped : Bool
  deriving DecidableEq, Repr

/-- An exit record of the pending table (R385, R388). -/
structure ExitRec where
  id : Nat
  slot : Fin 16
  ctx : Word
  pos : Nat
  el : Nat
  nl : Nat
  ltab : Nat
  hid : Nat
  sig : BitVec 32
  hlen : Nat
  created : Nat
  flushed : Bool
  layers : List BfLayer
  deriving DecidableEq, Repr

/-- The backfill engine (R377). -/
structure Backfill where
  recs : List ExitRec
  nextId : Nat
  deriving DecidableEq, Repr

/-! ## Power, near DRAM, host link, service -/

/-- A waiting request of the current-slew limiter (R435). -/
structure LimReq where
  core : Fin 16
  seq : BitVec 16
  w : Nat
  tick : Nat
  deriving DecidableEq, Repr

/-- The band-units an array holds, on which bands and since when; how many of them its job needs, and the tick the job
completes, none before it starts; `prev` is the completion tick of the job before it, which left the units over (R435,
R436). -/
structure LimHeld where
  units : Nat
  need : Nat
  doneTick : Option Nat
  bands : BitVec 4
  since : Nat
  prev : Option Nat
  deriving DecidableEq, Repr

/-- The power controller and the hardware beneath it (R423 to R446). -/
structure Power where
  ps : Nat
  br : Int
  bh : Nat
  fallback : Bool
  boostOff : Bool
  reqs : List LimReq
  granted : List (Fin 16 × BitVec 16 × Nat)
  held : Vector LimHeld 16
  na : Nat
  perm : Nat
  volt : Vector Nat 40
  marginM : Vector Nat 4
  stalled : BitVec 40
  stallUntil : Vector Nat 40
  suspendUntil : Vector Nat 4
  eni : Vector Word 40
  bandOff : BitVec 16
  bandIdle : Vector Nat 16
  wakeAt : Vector Nat 16
  clTemp : Vector Nat 4
  uncTemp : Nat
  dieHeld : Bool
  limNext : Nat
  budgetWin : Nat
  allowWin : Nat
  energyWin : Nat
  boostWin : Nat
  uvWin : Vector Nat 4
  corrErrs : Vector Nat 4
  deriving DecidableEq, Repr

/-- A near-DRAM channel's lane state (R265, R267): the lanes its spares replace, degraded; and of a sequence in
progress (`active`): retries made, the burst, the beats and groups that failed first, the requester, whether a write is
retried, whether the lane test is due, and whether the read after a swap is. -/
structure DramChan where
  spares : List Nat
  degraded : Bool
  retries : Nat
  burst : Nat
  beats : BitVec 8
  grps : BitVec 4
  isWrite : Bool
  ctx : Word
  active : Bool
  testing : Bool
  swapped : Bool
  deriving DecidableEq, Repr

/-- A ring log: entries oldest first, and entries lost to overwrite since the last clear (R471). -/
structure Log where
  entries : List (BitVec 256)
  lost : Nat
  deriving DecidableEq, Repr

/-- An error-injection slot (R475): its three doublewords. -/
structure Inj where
  dw0 : Word
  target : Word
  loc : Word
  deriving DecidableEq, Repr

/-- A submission the doorbell has captured (R453): the four mailbox registers and the tick of the doorbell. -/
structure Submission where
  hdr : Word
  save : Word
  ovr : Word
  en : Word
  at_ : Nat
  deriving DecidableEq, Repr

/-- The host link's registers (R449 to R462), the submission captured and not answered yet (R453), and the launch command
written and not applied yet (R456). Of configuration space (R447, R448, R457, R458): the bases of BAR0, BAR2 and BAR4,
whether the HDM decoder is committed, the width and speed (in GT/s) the host port has trained to, and the DOE mailbox: the
request written so far, whether it has been handed over, and the answer. -/
structure HostLink where
  peers : Vector Word 4
  inwb : Word
  inwl : Word
  apbase : Word
  subhdr : Word
  subsave : Word
  subovr : Word
  suben : Word
  subres : Word
  captured : Option Submission
  crbase : Word
  crsize : Word
  crtail : Word
  crhead : Word
  cmdarg : Word
  cmdst : Word
  cmdPending : Option (BitVec 32 × Nat)
  bars : Vector Word 3
  hdm : Bool
  linkWidth : Nat
  linkSpeed : Nat
  doeReq : List Byte
  doeBusy : Bool
  doe : List Byte
  irq : Word
  irqRaised : Nat
  hostMem : List Host.Cell
  rdData : List Byte
  rdPoison : Bool
  rdError : Bool
  peerOut : List (Nat × Nat × List Byte × Bool)
  ideKeys : BitVec 3
  ideStopped : Bool
  portFailed : BitVec 2
  deriving DecidableEq, Repr

/-- What an interface trains to (R464, R465): the near-DRAM timing, the LPDDR-6 timing, and the equalisation presets of
the sixteen stack links, the two memory ports and the host port, in that order. -/
structure LinkSettings where
  dram : Word
  lpddr : Word
  presets : Vector Word 19
  deriving DecidableEq, Repr

/-- A copy of the training records (R465): the settings, the near-DRAM lane maps, TR, the hardware fingerprint, the format
version, the sequence number and the signature. `valid` is false of a copy that holds nothing or that RETRAIN has marked;
`torn` says that its write was interrupted, so that its signature does not verify (R466). -/
structure Training where
  valid : Bool
  torn : Bool
  version : Nat
  seqNo : Nat
  temp : Nat
  set : LinkSettings
  lanes : AMap (List Nat)
  fingerprint : List Byte
  sig : List Byte
  deriving DecidableEq, Repr

/-- Thermal-cycle counting of one sensor (R476). -/
structure WearCount where
  armed : Bool
  low : Nat
  peak : Nat
  cycles : Nat
  deriving DecidableEq, Repr

/-- The firmware slots of one image kind (R467): the signed images in slots A and B, and which one runs. -/
structure FwSlots where
  imgA : List Byte
  imgB : List Byte
  runB : Bool
  deriving DecidableEq, Repr

/-- The service core's state (R463 to R478); `restored` says whether boot restored the training, `settings` what the
interfaces are set to, `bootTemp` the hottest die temperature when they were trained (TR, R465), `fullTrained` that a training has run and is not recorded yet (R466); `step9` that the boot's last
step has not ended (R463); `busy` is the service command written and not carried out yet (R469); `sampleAt` and `saveAt`
are the ticks of the next wear sample and save. Fused: the rollback minimum, the digest of the firmware key, the device
secret (R467, R468), and the module's fingerprint (R465); `identity` is the private seed derived at boot (R468). -/
structure Service where
  keyDigest : BitVec 512
  secret : List Byte
  fingerprint : List Byte
  identity : List Byte
  settings : LinkSettings
  fullTrained : Bool
  bootTemp : Nat
  step9 : Bool
  busy : Option Nat
  powered : Bool
  booted : Bool
  recovery : Bool
  restored : Bool
  parked : Bool
  args : Vector Word 4
  buf : Word
  len : Word
  st : Word
  res0 : Word
  res1 : Word
  cell : Vector Log 4
  lane : Vector Log 4
  flash : Vector Log 16
  power : Log
  array : Vector Log 16
  arrayPL : Vector Log 16
  owl : Log
  dumps : List (List (BitVec 256))
  inj : Vector Inj 8
  trainA : Training
  trainB : Training
  fw : Vector FwSlots 5
  rollback : Nat
  clock : Option (Nat × Nat)
  powerCycles : Nat
  poweredSecs : Nat
  wearWS : Vector WearCount 16
  wearDie : WearCount
  savedWear : List Nat
  sampleAt : Nat
  saveAt : Nat
  deriving DecidableEq, Repr

/-! ## Moves: who acts next -/

/-- What the next step of the module is: a control core issues, the resident supervisor of a core acts (R153), cycles
pass, a sensor reads a new temperature, the service core parks the SRAM of a core at start-up, in test or in recovery
(R445), an expander signals poison for a sector (R459), or one of the device's own steps or host actions takes place. -/
inductive Move where
  | issue (k : Fin 16)
  | issuePosting (k : Fin 16)
  | loadPerforms (k : Fin 16) (n : Nat)
  | storePerforms (k : Fin 16) (second : Bool) (n : Nat)
  | supervise (k : Fin 16)
  | idle (cycles : Nat)
  | clTemp (cl : Fin 4) (t : Nat)
  | uncTemp (t : Nat)
  | dieTemp (j : Fin 16) (die : Fin 8) (t : Nat)
  | park (k : Fin 16)
  | expanderPoison (pa : Nat)
  | event (i : Instr)
  deriving DecidableEq, Repr

/-- The whole module. `clk` counts core cycles (STAMP is half of it, R21); `cur` is the core whose control core the
current instruction runs on; `sched` says which moves come next, and `turn` drives the default order when it is empty;
`fresh` counts the free values drawn. `links` holds, by 16 × a + b, the cycle until which the mesh link from core a to
core b is reserved by exchange sends (R262). `flips` holds, by tier-1 address, the bits that the last read of that byte
returned inverted by injection and unseen by the code, while memory keeps them (R475). -/
structure State where
  clk : Nat
  cur : Fin 16
  sched : List Move
  turn : Nat
  fresh : Nat
  mem : List Host.Cell
  poison : AMap Mark
  tags : AMap Tag
  cores : Vector Core 16
  ls : LaunchSched
  wstacks : Vector Stack 16
  nextCmd : Nat
  bf : Backfill
  pow : Power
  dram : AMap DramChan
  flips : AMap Byte
  links : AMap Nat
  host : HostLink
  svc : Service
  deriving DecidableEq, Repr

/-- Why the machine stops. -/
inductive Fault where
  /-- Raised by `step` when the module has no power (after POWER_LOSS, R474) and no further move is scheduled: nothing
  can act until a cold boot. Safe: the model stops where the hardware does nothing. -/
  | poweredOff
  deriving DecidableEq, Repr

/-- Why the model has no meaning to give. -/
inductive Refusal where
  /-- Raised by an arm of `exec` whose meaning is not written yet, with the row's mnemonic. Safe: nothing can be proved
  of a run past it. -/
  | notModelled (mnemonic : String)
  deriving DecidableEq, Repr

/-- The outcome type of a step. -/
abbrev Out := Host.Outcome State Fault Refusal


/-! ## The state after module reset -/

/-- An inactive loop level (R135, R160). -/
def LoopLevel.zero : LoopLevel := ⟨false, false, false, false, 0, 0, 0, 0⟩

/-- A handle with V = 0 (R100). -/
def Handle.invalid : Handle := ⟨false, false, false, 0, false, false, false, 0, 0, 0, 0, 0, false⟩

/-- An unset channel register (R135). -/
def Chan.unset : Chan := ⟨false, false, 0, 0, 0, 0, 0, 0, 0⟩

/-- The vector engine at a context's first work item (R135, R216). -/
def VecState.init : VecState :=
  { v := Vector.replicate 64 0, m := Vector.replicate 16 0, vctl := 0, vfi := 0, vfa := 0, vfs := 0,
    vmark := [], dq0 := [], dq1 := [], queue := [], fault := none }

/-- The state `mzero` produces (R293): every element +0, m = −∞, l = +0, both bits clear, KIND NONE (R294). -/
def Tile.mzero : Tile :=
  { elems := 0, m := (BitVec.ofNat 32 0xFF800000).replicate 128, l := 0, poison := [], nan := 0, kind := .none,
    scaleId := none, rowScales := [], latScales := [], contrib := Vector.replicate 4 0 }

/-- The matrix engine at a context's first work item, with the shadow items at their reset values (R295). -/
def MatState.init : MatState :=
  { tiles := Vector.replicate 8 Tile.mzero, mash := 0xF, mfx := 0, msc := 0x3F800000, mmsk := 0, mbmp := 0,
    shapeS := none, shapeV := none, shapeO := none, latchS := none, latchV := none, latchO := none, h := 0, refill := 0,
    pair := .idle, slot := none, inbox := none }

/-- An empty bank: every register at the reset value the spec states (R40, R295), else zero (log entry 2). -/
def Bank.init : Bank :=
  { slot := none, mode := .user, pc := 0, x := Vector.replicate 64 0, stall := none, loads := [], posted := [], heldXF := false,
    fltc := 0, flta := 0, flti := 0, pend := false, shp := 0x4010, rrb := 0, rotn := 0, fmtl := 0, ashp := 0xF,
    brs := 0, slip := 0, wid := 0, ctxid := 0, xlive := 0, fmt := Vector.replicate 64 0,
    loops := Vector.replicate 4 LoopLevel.zero, repc := 0, sp := 0, spm := 0,
    handles := Vector.replicate 16 Handle.invalid, chans := Vector.replicate 16 Chan.unset, vec := .init,
    mat := .init, jobs := [], item := 0, combo := 0, itemLive := false, shareEnded := false,
    stoppedAt := none, barArrived := false,
    baraOut := false, barReleased := none, chst := none }

/-- A core after module reset: no fenced band (R40), SEQ = 0 (R16), an empty translation cache and tracker. -/
def Core.init : Core :=
  { bank0 := .init, bank1 := .init, second := false, adef := 0, seq := 0, tlb := [], fbuf := [], tracker := [], parked := false, parkAt := 0, exitAt := none,
    testBand := 0, testing := none, runs := [], runFrom := none, bandUse := [] }

/-- The launch scheduler after reset: no launch, LSEQ starts at 1 (R131). -/
def LaunchSched.init : LaunchSched :=
  { slots := Vector.replicate 16 none, nextLseq := 1, outcomes := [], records := [],
    lastStop := Vector.replicate 16 none, pageReqs := [] }

/-- A weight stack after module reset: activation SRAM and scale buffers zero with owner 0 (R338), no command. -/
def Stack.init : Stack :=
  { act := [], actOwner := [], actPoison := [], scale := [], scaleOwner := [], scaleLpb := [], scaleBad := [],
    bfBuf := Vector.replicate 16 none, map := [], pages := [], retired := [], pec := [], dirty := [], filling := [],
    dist := [], level := [], wseq := 0, cmds := [], held := [], sau := [], bfSkipped := [],
    lastPreempt := [], mode := .ready, temp := 0, dieTemp := Vector.replicate 8 0, cycling := false, dutyK := 0,
    dutyN := 1, duty := [], allow := 7314, used := 0, corr := 0, unc := 0, rrec := 0, retCount := 0, relocs := [],
    relocDone := 0, erasing := [], eraseQ := [], budget := Vector.replicate 8 0, hold := none, scrubQ := [], scrub := none,
    extents := [], linkFails := 0 }

/-- An array that holds no band-unit. -/
def LimHeld.init : LimHeld := ⟨0, 0, none, 0, 0, none⟩

/-- The power controller after module reset: POWLIM 700 (R450), BR 0 (R427), NA and PERM 0 (R434), M 0 (R439). -/
def Power.init : Power :=
  { ps := 700, br := 0, bh := 0, fallback := false, boostOff := false, reqs := [], granted := [],
    held := Vector.replicate 16 LimHeld.init, na := 0, perm := 0, volt := Vector.ofFn (fun i => Config.vsafe i.val),
    marginM := Vector.replicate 4 0, stalled := 0, stallUntil := Vector.replicate 40 0, suspendUntil := Vector.replicate 4 0,
    eni := Vector.replicate 40 0, bandOff := 0, bandIdle := Vector.replicate 16 0, wakeAt := Vector.replicate 16 0,
    clTemp := Vector.replicate 4 0, uncTemp := 0, dieHeld := false, limNext := 0, budgetWin := 0,
    allowWin := 0, energyWin := 0, boostWin := 0, uvWin := Vector.replicate 4 0, corrErrs := Vector.replicate 4 0 }

/-- An empty log. -/
def Log.empty : Log := ⟨[], 0⟩

/-- The settings of interfaces that have not trained. -/
def LinkSettings.init : LinkSettings := ⟨0, 0, Vector.replicate 19 0⟩

/-- A copy of the training records that holds nothing. -/
def Training.none : Training := ⟨false, false, 0, 0, 0, .init, [], [], []⟩

/-- A sensor at the start of cycle counting (R476). -/
def WearCount.init : WearCount := ⟨false, 0, 0, 0⟩

/-- The firmware slots of one image kind: slot A holds the factory image and runs (log entry 25). -/
def FwSlots.init (kind : Nat) : FwSlots := ⟨Config.factoryImage kind, [], false⟩

/-- The host link after reset (R450 to R455). -/
def HostLink.init : HostLink :=
  { peers := Vector.replicate 4 0, inwb := 0, inwl := 0, apbase := 0, subhdr := 0, subsave := 0,
    subovr := 0, suben := 0, subres := 0, captured := none, crbase := 0, crsize := 0, crtail := 0, crhead := 0, cmdarg := 0,
    cmdst := 0, cmdPending := none, bars := Vector.replicate 3 0, hdm := false, linkWidth := 0, linkSpeed := 0, doeReq := [], doeBusy := false,
    doe := [],
    irq := 0, irqRaised := 0, hostMem := [], rdData := [], rdPoison := false, rdError := false,
    peerOut := [], ideKeys := 0, ideStopped := false, portFailed := 0 }

/-- The service core at the moment the always-on island leaves reset. -/
def Service.init : Service :=
  { keyDigest := Config.firmwareKeyDigest, secret := Config.deviceSecret, fingerprint := Config.fingerprint,
    identity := [], settings := .init, fullTrained := false, bootTemp := 0, step9 := false, busy := none,
    powered := true, booted := false, recovery := false, restored := false, parked := false,
    args := Vector.replicate 4 0, buf := 0, len := 0, st := 0, res0 := 0, res1 := 0,
    cell := Vector.replicate 4 .empty, lane := Vector.replicate 4 .empty, flash := Vector.replicate 16 .empty,
    power := .empty, array := Vector.replicate 16 .empty, arrayPL := Vector.replicate 16 .empty, owl := .empty,
    dumps := [], inj := Vector.replicate 8 ⟨0, 0, 0⟩, trainA := .none, trainB := .none,
    fw := Vector.ofFn (fun k => .init k.val), rollback := 0, clock := none, powerCycles := 0, poweredSecs := 0,
    wearWS := Vector.replicate 16 .init, wearDie := .init, savedWear := [],
    sampleAt := 600000000, saveAt := 360000000000 }

/-- The machine right after the always-on island leaves reset: STAMP 0 (R21), nothing booted, no launch, no byte of
memory listed. -/
def State.reset : State :=
  { clk := 0, cur := 0, sched := [], turn := 0, fresh := 0, mem := [], poison := [], tags := [],
    cores := Vector.replicate 16 Core.init, ls := .init, wstacks := Vector.replicate 16 Stack.init, nextCmd := 0,
    bf := ⟨[], 0⟩, pow := .init, dram := [], flips := [], links := [], host := .init, svc := .init }

end Sys2Proof.Machine
end

