-- ==== Sys2Proof/Machine/Mem.lean ====
section
/-!
DEFINITION. The memories of tiers 0, 1 and 2 as one sparse list of bytes, and what goes with each 32-byte sector: its
poison (R109) and its race-detection tag (R122). A location is named by its KEY: the physical address in tiers 1 and 2
(R91), or 2^48 plus the on-chip global address (R6).
-/
namespace Sys2Proof.Machine

/-! ## Sparse maps -/

/-- The value an AMap holds at a key. -/
def amapGet {β : Type} (m : AMap β) (k : Nat) : Option β :=
  match m with
  | [] => none
  | (j, v) :: r => if j = k then some v else amapGet r k

/-- An AMap with the key set to a value, or removed. -/
def amapSet {β : Type} (m : AMap β) (k : Nat) (v : Option β) : AMap β :=
  m.filter (fun c => c.1 < k) ++ (match v with
    | some x => [(k, x)]
    | none => []) ++ m.filter (fun c => k < c.1)

/-- An AMap without the keys lo ≤ k < hi. -/
def amapClear {β : Type} (m : AMap β) (lo hi : Nat) : AMap β := m.filter (fun c => c.1 < lo || hi ≤ c.1)

/-! ## Bytes and little-endian numbers (R60, R108) -/

/-- The number a little-endian byte string stands for. -/
def ofBytes : List Byte → Nat
  | [] => 0
  | b :: r => b.toNat + 256 * ofBytes r

/-- The low n bytes of a number, little-endian. -/
def toBytes : Nat → Nat → List Byte
  | 0, _ => []
  | n + 1, v => BitVec.ofNat 8 v :: toBytes n (v / 256)

/-! ## Keys -/

/-- The key of an on-chip global address (R6). -/
def onKey (a : Nat) : Nat := 0x1000000000000 + a

/-- Whether a key names on-chip memory. -/
def isOnKey (k : Nat) : Bool := 0x1000000000000 ≤ k

/-- The populated part of a slice is its first 12 MiB (R6). -/
def sliceOk (a n : Nat) : Bool :=
  n ≤ 0xC00000 && a < 0x10000000 && a % 0x1000000 + n ≤ 0xC00000

/-- Whether [pa, pa + n) lies in populated tier 1 (R91). -/
def tier1Ok (pa n : Nat) : Bool := pa + n ≤ 0x003000000000

/-- Bytes populated behind the memory ports: at most 8 TiB each and 14 TiB together (R91). -/
def cxl0 : Nat := Nat.min (Config.cxlBytes false) 0x80000000000
def cxl1 : Nat := Nat.min (Nat.min (Config.cxlBytes true) 0x80000000000) (0xE0000000000 - cxl0)

/-- Whether [pa, pa + n) lies in one populated range of tier 2 (R91). -/
def tier2Ok (pa n : Nat) : Bool :=
  if pa < 0x030000000000 then 0x010000000000 ≤ pa && pa + n ≤ 0x030000000000
  else if pa < 0x180000000000 then 0x100000000000 ≤ pa && pa + n ≤ 0x100000000000 + cxl0
  else pa + n ≤ 0x180000000000 + cxl1

/-- The memory port a physical address lies behind, if any (R91). -/
def portOf (pa : Nat) : Option (Fin 2) :=
  if 0x100000000000 ≤ pa && pa < 0x180000000000 then some 0
  else if 0x180000000000 ≤ pa && pa < 0x200000000000 then some 1 else none

/-- The tier a physical address lies in: 1, 2, or 3 for an unpopulated address (R91). -/
def tierOfPA (pa : Nat) : Nat := if tier1Ok pa 1 then 1 else if tier2Ok pa 1 then 2 else 3

/-! ## The byte memory -/

/-- What a byte of memory that nothing has written reads as (log entry 1). -/
def unlistedByte : Byte := 0

/-- Reading one byte. -/
def memRead (m : List Host.Cell) (k : Nat) : Byte := (amapGet m k).getD unlistedByte

/-- Reading n bytes from a key up. -/
def memReadN (m : List Host.Cell) : Nat → Nat → List Byte
  | _, 0 => []
  | k, n + 1 => memRead m k :: memReadN m (k + 1) n

/-- The cells a byte string needs from a key up: the bytes that differ from the unlisted value. -/
def memCells : Nat → List Byte → List Host.Cell
  | _, [] => []
  | k, b :: r => if b = unlistedByte then memCells (k + 1) r else (k, b) :: memCells (k + 1) r

/-- Writing a byte string from a key up, keeping the canonical form. -/
def memWrite (m : List Host.Cell) (k : Nat) (bs : List Byte) : List Host.Cell :=
  m.filter (fun c => c.1 < k) ++ memCells k bs ++ m.filter (fun c => k + bs.length ≤ c.1)

/-- The canonical form of a memory: keys strictly rising, and no cell that holds the unlisted value. -/
def Memory.wf : List Host.Cell → Bool
  | [] => true
  | [(_, b)] => b != unlistedByte
  | (k, b) :: (k', b') :: r => b != unlistedByte && k < k' && Memory.wf ((k', b') :: r)

/-! ## Memory of the module, with poison (R109) and the state of the memory ports (R460) -/

/-- Whether the memory port a key lies behind has failed (R460). -/
def portFailedAt (s : State) (k : Nat) : Bool :=
  !isOnKey k && (match portOf k with
    | some p => bit s.host.portFailed p.val
    | none => false)

/-- A new entry of a ring log of `cap` entries: a full log loses its oldest (R471). -/
def Log.push (cap : Nat) (l : Log) (e : BitVec 256) : Log :=
  if l.entries.length < cap then { l with entries := l.entries ++ [e] }
  else { entries := l.entries.drop 1 ++ [e], lost := l.lost + 1 }

/-- Four doublewords as a log entry. -/
def logEntry (a b c d : Word) : BitVec 256 := d ++ c ++ b ++ a

/-- An access behind a failed memory port goes to the black-box recorder (R460); what the event names beside its tick
and source is open (log entry 22). -/
def notePort (s : State) : State :=
  let e := logEntry (BitVec.ofNat 64 (s.clk / 2)) 0xFFF (Config.freeValue s.fresh) (Config.freeValue (s.fresh + 1))
  { s with fresh := s.fresh + 2, svc := { s.svc with owl := s.svc.owl.push 8192 e } }

/-- One byte of the module's memory: what a read of it gives. -/
def State.byteAt (s : State) (k : Nat) : Byte := memRead s.mem k

/-- n bytes of the module's memory. -/
def State.bytesAt (s : State) (k n : Nat) : List Byte := memReadN s.mem k n

/-- Mem(addr, size): the little-endian value of n bytes (R108). -/
def State.natAt (s : State) (k n : Nat) : Nat := ofBytes (s.bytesAt k n)

/-- A doubleword. -/
def State.wordAt (s : State) (k : Nat) : Word := BitVec.ofNat 64 (s.natAt k 8)

/-- The poison of a sector; reads behind a failed port are poisoned (R460). -/
def State.poisonAt (s : State) (k : Nat) : Option Mark :=
  if portFailedAt s k then some .due else amapGet s.poison (k / 32)

/-- The first poison mark among `n` sectors from that of key `k` up. -/
def poisonFrom (s : State) : Nat → Nat → Option Mark
  | _, 0 => none
  | k, n + 1 =>
    match s.poisonAt k with
    | some m => some m
    | none => poisonFrom s (k / 32 * 32 + 32) n

/-- The number of sectors that n bytes from key k touch. -/
def sectorsOf (k n : Nat) : Nat := if n = 0 then 0 else (k + n - 1) / 32 - k / 32 + 1

/-- Poison(x) of n bytes at a key (R109). -/
def State.poisonIn (s : State) (k n : Nat) : Option Mark := poisonFrom s k (sectorsOf k n)

/-- Set or clear the poison of the sector of a key; nothing is stored behind a failed memory port (R460). -/
def State.setPoison (s : State) (k : Nat) (m : Option Mark) : State :=
  { s with poison := if portFailedAt s k then s.poison else amapSet s.poison (k / 32) m }

/-- A write at its home (R108, R109): whole sectors lose their poison, partial ones keep it; a write behind a failed
memory port is discarded (R460). -/
def State.store (s : State) (k : Nat) (bs : List Byte) : State :=
  if portFailedAt s k then notePort s
  else
    { s with
      mem := memWrite s.mem k bs
      poison := amapClear s.poison ((k + 31) / 32) ((k + bs.length) / 32) }

/-- A write of the low n bytes of a number. -/
def State.storeNat (s : State) (k n v : Nat) : State := s.store k (toBytes n v)

/-- A write of a doubleword. -/
def State.storeWord (s : State) (k : Nat) (v : Word) : State := s.store k (toBytes 8 v.toNat)

/-- A write of doublewords in ascending order. -/
def State.storeWords (s : State) (k : Nat) (vs : List Word) : State :=
  s.store k (vs.flatMap (fun v => toBytes 8 v.toNat))

/-- A write with a poison mark per 32-byte sector of the data (a copy or a stack output carries the mark, R109):
`marks` are keyed by the sector's number from the key's own sector. -/
def State.storeMarked (s : State) (k : Nat) (bs : List Byte) (marks : AMap Mark) : State :=
  marks.foldl (fun s m => s.setPoison (k + 32 * m.1) (some m.2)) (s.store k bs)

/-- The FLTC island number and code a poison mark raises (R109, R151): DUE, or MARG with the island. -/
def markCode (m : Mark) : FaultCode :=
  match m with
  | .due => .due
  | .margin _ => .marg

def markIsl (m : Mark) : BitVec 6 :=
  match m with
  | .due => 0
  | .margin i => i

/-- The byte value of a fault code (R150). -/
def FaultCode.byte : FaultCode → Byte
  | .ill => 0x01 | .priv => 0x02 | .align => 0x03 | .segv => 0x04 | .xf => 0x05 | .hiv => 0x06 | .mmx => 0x07
  | .fpx => 0x08 | .smiss => 0x09 | .band => 0x0A | .fmte => 0x0B | .lerr => 0x0C | .due => 0x0D | .marg => 0x0E
  | .pab => 0x0F | .chst => 0x10 | .trap => 0x11 | .brk => 0x12 | .stkf => 0x13 | .seal => 0x14

end Sys2Proof.Machine
end

