-- ==== Sys2Proof/Machine/Crypto.lean ====
section
/-!
DEFINITION. The algorithms the manual names: SHAKE256 (R332, R413, R467, R470; FIPS 202) and pure Ed448 (R467, R468;
RFC 8032).
-/
namespace Sys2Proof.Machine

/-! ## SHAKE256 -/

/-- A lane of the Keccak state, at x + 5y. -/
def lane (a : List Word) (x y : Nat) : Word := a.getD (x % 5 + 5 * (y % 5)) 0

/-- The 25 lanes in order, each from its place. -/
def lanes (f : Nat → Nat → Word) : List Word :=
  (List.range 5).flatMap (fun y => (List.range 5).map (fun x => f x y))

/-- θ: every lane takes the parities of two neighbour columns. -/
def theta (a : List Word) : List Word :=
  let c := (List.range 5).map (fun x => lane a x 0 ^^^ lane a x 1 ^^^ lane a x 2 ^^^ lane a x 3 ^^^ lane a x 4)
  let d := (List.range 5).map (fun x => c.getD ((x + 4) % 5) 0 ^^^ (c.getD ((x + 1) % 5) 0).rotateLeft 1)
  lanes (fun x y => lane a x y ^^^ d.getD x 0)

/-- The rotation of each lane in ρ. -/
def rhoTable : List Nat :=
  [0, 1, 62, 28, 27, 36, 44, 6, 55, 20, 3, 10, 43, 25, 39, 41, 45, 15, 21, 8, 18, 2, 61, 56, 14]

/-- ρ and π: the lane at (x, y) comes, rotated, from (x + 3y, x). -/
def rhoPi (a : List Word) : List Word :=
  lanes (fun x y => (lane a (x + 3 * y) x).rotateLeft (rhoTable.getD ((x + 3 * y) % 5 + 5 * x) 0))

/-- χ: the one step that is not linear. -/
def chi (a : List Word) : List Word :=
  lanes (fun x y => lane a x y ^^^ (~~~(lane a (x + 1) y) &&& lane a (x + 2) y))

/-- The constants of ι, one per round. -/
def iotaTable : List Word :=
  [0x0000000000000001#64, 0x0000000000008082#64, 0x800000000000808A#64, 0x8000000080008000#64, 0x000000000000808B#64,
   0x0000000080000001#64, 0x8000000080008081#64, 0x8000000000008009#64, 0x000000000000008A#64, 0x0000000000000088#64,
   0x0000000080008009#64, 0x000000008000000A#64] ++
  [0x000000008000808B#64, 0x800000000000008B#64, 0x8000000000008089#64, 0x8000000000008003#64, 0x8000000000008002#64,
   0x8000000000000080#64, 0x000000000000800A#64, 0x800000008000000A#64, 0x8000000080008081#64, 0x8000000000008080#64,
   0x0000000080000001#64, 0x8000000080008008#64]

/-- Keccak-f[1600]. -/
def keccak (a : List Word) : List Word :=
  iotaTable.foldl (fun a rc =>
    match chi (rhoPi (theta a)) with
    | [] => []
    | l :: r => (l ^^^ rc) :: r) a

/-- One block of 136 bytes absorbed. -/
def absorbBlock (a : List Word) (bs : List Byte) : List Word :=
  keccak ((List.range 25).map (fun i =>
    if i < 17 then a.getD i 0 ^^^ BitVec.ofNat 64 (ofBytes ((bs.drop (8 * i)).take 8)) else a.getD i 0))

/-- The padded message absorbed, block by block. -/
def absorb : Nat → List Byte → List Word → List Word
  | 0, _, a => a
  | n + 1, bs, a => absorb n (bs.drop 136) (absorbBlock a (bs.take 136))

/-- The padding of a message of n bytes: the domain bits 1111, then the rule 10…01. -/
def shakePad (n : Nat) : List Byte :=
  let m := 136 - n % 136
  if m = 1 then [0x9F] else [0x1F] ++ List.replicate (m - 2) 0 ++ [0x80]

/-- The output, block by block. -/
def squeeze : Nat → List Word → List Byte
  | 0, _ => []
  | n + 1, a => (a.take 17).flatMap (fun w => toBytes 8 w.toNat) ++ squeeze n (keccak a)

/-- The first n bytes of SHAKE256 of a message. -/
def shakeBytes (msg : List Byte) (n : Nat) : List Byte :=
  (squeeze ((n + 135) / 136)
    (absorb (msg.length / 136 + 1) (msg ++ shakePad msg.length) (List.replicate 25 0))).take n

/-- SHAKE256 of a byte string, 64 bytes of it (R332, R467). -/
def shake256 (msg : List Byte) : BitVec 512 := BitVec.ofNat 512 (ofBytes (shakeBytes msg 64))

/-! ## Ed448 -/

/-- The field's prime, and the order of the base point. -/
def edP : Nat := 2 ^ 448 - 2 ^ 224 - 1
def edL : Nat := 2 ^ 446 - 13818066809895115352007386748515426880336692474882178609894547503885

/-- The curve's constant d = −39081. -/
def edD : Nat := edP - 39081

/-- b^e modulo p, over the low n bits of e. -/
def edPow : Nat → Nat → Nat → Nat
  | 0, _, _ => 1
  | n + 1, b, e =>
    let h := edPow n (b * b % edP) (e / 2)
    if e % 2 = 1 then h * b % edP else h

/-- A point in projective coordinates. -/
structure EdPoint where
  x : Nat
  y : Nat
  z : Nat
  deriving DecidableEq, Repr

def EdPoint.zero : EdPoint := ⟨0, 1, 1⟩

/-- The base point. -/
def EdPoint.base : EdPoint :=
  ⟨224580040295924300187604334099896036246789641632564134246125461686950415467406032909029192869357953282578032075146446173674602635247710,
   298819210078481492676017930443930673437544040154080242095928241372331506189835876003536878655418784733982303233503462500531545062832660, 1⟩

/-- The sum of two points. -/
def EdPoint.add (p q : EdPoint) : EdPoint :=
  let a := p.z * q.z % edP
  let b := a * a % edP
  let c := p.x * q.x % edP
  let d := p.y * q.y % edP
  let e := edD * c % edP * d % edP
  let f := (b + edP - e) % edP
  let g := (b + e) % edP
  let h := (p.x + p.y) * (q.x + q.y) % edP
  ⟨a * f % edP * ((h + 2 * edP - c - d) % edP) % edP, a * g % edP * ((d + edP - c) % edP) % edP, f * g % edP⟩

/-- [e]P over the low n bits of e. -/
def EdPoint.mul : Nat → Nat → EdPoint → EdPoint
  | 0, _, _ => .zero
  | n + 1, e, p =>
    let h := EdPoint.mul n (e / 2) (p.add p)
    if e % 2 = 1 then h.add p else h

/-- Whether two points are the same. -/
def EdPoint.same (p q : EdPoint) : Bool := p.x * q.z % edP = q.x * p.z % edP && p.y * q.z % edP = q.y * p.z % edP

/-- The 57-byte form of a point: y, and the low bit of x on top. -/
def EdPoint.encode (p : EdPoint) : List Byte :=
  let i := edPow 448 p.z (edP - 2)
  toBytes 57 (p.y * i % edP + p.x * i % edP % 2 * 2 ^ 455)

/-- The point a 57-byte form stands for. -/
def EdPoint.decode (bs : List Byte) : Option EdPoint :=
  let n := ofBytes bs
  let y := n % 2 ^ 455
  let sgn := n / 2 ^ 455
  let u := (y * y + edP - 1) % edP
  let v := (edD * (y * y % edP) + edP - 1) % edP
  let u3v := u * u % edP * u % edP * v % edP
  let x := u3v * edPow 448 (u3v * u % edP * u % edP * v % edP * v % edP) ((edP - 3) / 4) % edP
  if bs.length != 57 || 2 ≤ sgn || edP ≤ y || v * (x * x % edP) % edP != u || (x = 0 && sgn = 1) then none
  else some ⟨if x % 2 = sgn then x else edP - x, y, 1⟩

/-- The hash of Ed448: "SigEd448" and the empty context, then the bytes; as a number modulo L. -/
def edHash (bs : List Byte) : Nat :=
  ofBytes (shakeBytes ([0x53, 0x69, 0x67, 0x45, 0x64, 0x34, 0x34, 0x38, 0x00, 0x00] ++ bs) 114) % edL

/-- The secret scalar of a 57-byte private seed, and the prefix of its nonces. -/
def edSecret (seed : List Byte) : Nat × List Byte :=
  let h := shakeBytes seed 114
  let a := ofBytes (h.take 56)
  (a / 4 * 4 % 2 ^ 447 + 2 ^ 447, h.drop 57)

/-- The public key of a private seed. -/
def edPublic (seed : List Byte) : List Byte := (EdPoint.mul 448 (edSecret seed).1 .base).encode

/-- The signature of a message by a private seed. -/
def edSign (seed msg : List Byte) : List Byte :=
  let (a, pre) := edSecret seed
  let r := edHash (pre ++ msg)
  let rb := (EdPoint.mul 448 r .base).encode
  let k := edHash (rb ++ edPublic seed ++ msg)
  rb ++ toBytes 57 ((r + k * a) % edL)

/-- Whether a signature of a message verifies under a public key. -/
def edVerify (pub msg sig : List Byte) : Bool :=
  let sc := ofBytes (sig.drop 57)
  match EdPoint.decode pub, EdPoint.decode (sig.take 57) with
  | some a, some r =>
    sig.length = 114 && sc < edL &&
      EdPoint.same (EdPoint.mul 3 4 (EdPoint.mul 448 sc .base))
        (EdPoint.mul 3 4 (r.add (EdPoint.mul 448 (edHash (sig.take 57 ++ pub ++ msg)) a)))
  | _, _ => false

end Sys2Proof.Machine
end

