-- ==== Sys2Proof/Machine/Num.lean ====
section
/-!
DEFINITION. The number formats and the arithmetic of 03_formats.md (R59 to R85): exact values, the rounding
functions RoundIEEE and RoundTF, conversions, QBlock, the correctly rounded operations of the vector engine, Exp2 and
the random-number mixer. A format is named by its format code FC (R59).
-/
namespace Sys2Proof.Machine

/-! ## Exact values -/

/-- An exact value: (−1)^neg × m × 2^e with m = 0 a signed zero, a signed infinity, or a NaN with its sign and its
fraction field aligned left to 23 bits, the quiet bit its highest (R61, R70). -/
inductive Val where
  | fin (neg : Bool) (m : Nat) (e : Int)
  | inf (neg : Bool)
  | nan (neg : Bool) (frac : Nat)
  deriving DecidableEq, Repr

/-- The exception flags IV, DZ, OF, UF, NX (R72), from bit 0. -/
abbrev FFlags := BitVec 5

def fIV : FFlags := 1
def fDZ : FFlags := 2
def fOF : FFlags := 4
def fUF : FFlags := 8
def fNX : FFlags := 16

/-- The default NaN (R61). -/
def Val.defNaN : Val := .nan false 0x400000

/-- A NaN with the quiet bit set (R75). -/
def Val.quieted : Val → Val
  | .nan n f => .nan n (if f < 0x400000 then f + 0x400000 else f)
  | v => v

def Val.isNaN : Val → Bool
  | .nan _ _ => true
  | _ => false

/-- A signalling NaN: the quiet bit is clear. -/
def Val.isSNaN : Val → Bool
  | .nan _ f => f < 0x400000
  | _ => false

def Val.isInf : Val → Bool
  | .inf _ => true
  | _ => false

def Val.isZero : Val → Bool
  | .fin _ m _ => m = 0
  | _ => false

def Val.neg : Val → Bool
  | .fin n _ _ => n
  | .inf n => n
  | .nan n _ => n

def Val.negate : Val → Val
  | .fin n m e => .fin (!n) m e
  | .inf n => .inf (!n)
  | .nan n f => .nan (!n) f

def Val.abs : Val → Val
  | .fin _ m e => .fin false m e
  | .inf _ => .inf false
  | .nan _ f => .nan false f

def Val.ofInt (x : Int) : Val := .fin (x < 0) x.natAbs 0

/-- Two finite values at one exponent: the signed significands and that exponent. -/
def alignFin (n1 : Bool) (m1 : Nat) (e1 : Int) (n2 : Bool) (m2 : Nat) (e2 : Int) : Int × Int × Int :=
  let e := if e1 ≤ e2 then e1 else e2
  let a : Int := (m1 * 2 ^ (e1 - e).toNat : Nat)
  let b : Int := (m2 * 2 ^ (e2 - e).toNat : Nat)
  (if n1 then -a else a, if n2 then -b else b, e)

/-- Whether a is below b, of values that are no NaN; −0 is not below +0 here. -/
def Val.lt (a b : Val) : Bool :=
  match a, b with
  | .fin n1 m1 e1, .fin n2 m2 e2 =>
    let (x, y, _) := alignFin n1 m1 e1 n2 m2 e2
    x < y
  | .inf n1, .inf n2 => n1 && !n2
  | .inf n1, .fin _ _ _ => n1
  | .fin _ _ _, .inf n2 => !n2
  | _, _ => false

/-- Whether a equals b, of values that are no NaN (−0 = +0). -/
def Val.eqv (a b : Val) : Bool := !a.isNaN && !b.isNaN && !Val.lt a b && !Val.lt b a

/-- The exact sum of two values that are no NaN; none when ∞ − ∞. A zero sum of nonzero or unlike-signed addends
is +0 (R74). -/
def Val.add? (a b : Val) : Option Val :=
  match a, b with
  | .fin n1 m1 e1, .fin n2 m2 e2 =>
    let (x, y, e) := alignFin n1 m1 e1 n2 m2 e2
    if x + y = 0 then some (.fin (n1 && n2 && m1 = 0 && m2 = 0) 0 0)
    else some (.fin (x + y < 0) (x + y).natAbs e)
  | .inf n1, .inf n2 => if n1 = n2 then some (.inf n1) else none
  | .inf n1, _ => some (.inf n1)
  | _, b => some b

/-- The exact product of two values that are no NaN; none when 0 × ∞. -/
def Val.mul? (a b : Val) : Option Val :=
  match a, b with
  | .fin n1 m1 e1, .fin n2 m2 e2 => some (.fin (n1 != n2) (m1 * m2) (e1 + e2))
  | .inf n1, .fin n2 m2 _ => if m2 = 0 then none else some (.inf (n1 != n2))
  | .fin n1 m1 _, .inf n2 => if m1 = 0 then none else some (.inf (n1 != n2))
  | .inf n1, .inf n2 => some (.inf (n1 != n2))
  | _, _ => none

/-- A quotient of nonzero finite values carried to 128 significant bits with a sticky bit: every rounding of it to a
format of R59 is the rounding of the exact quotient. -/
def Val.quot (n1 : Bool) (m1 : Nat) (e1 : Int) (n2 : Bool) (m2 : Nat) (e2 : Int) : Val :=
  let k := 128 + Nat.log2 m2
  let q := m1 * 2 ^ k / m2
  let st := if m1 * 2 ^ k % m2 = 0 then 0 else 1
  .fin (n1 != n2) (2 * q + st) (e1 - e2 - k - 1)

/-- One step of the integer square root, bit by bit. -/
def isqrtStep (n : Nat) : Nat → Nat → Nat
  | 0, r => r
  | k + 1, r =>
    let c := r + 2 ^ k
    isqrtStep n k (if c * c ≤ n then c else r)

/-- The integer square root, by bits from the highest. -/
def isqrt (n : Nat) : Nat := isqrtStep n (Nat.log2 n / 2 + 1) 0

/-- The square root of a positive finite value, to at least 64 significant bits with a sticky bit. -/
def Val.sqrtFin (m : Nat) (e : Int) : Val :=
  let (m, e) := if e % 2 = 0 then (m, e) else (2 * m, e - 1)
  let n := m * 2 ^ 128
  let r := isqrt n
  .fin false (2 * r + (if r * r = n then 0 else 1)) (e / 2 - 64 - 1)

/-! ## Encodings (R59 to R66) -/

/-- The width in bits of the format FC (R59). -/
def fmtWidth (fc : Nat) : Nat :=
  match fc with
  | 0 | 8 | 12 => 32
  | 1 | 2 | 7 | 11 => 16
  | 3 | 4 | 6 | 10 | 13 => 8
  | 5 | 9 => 4
  | _ => 32

/-- Exponent width, fraction width and bias of an IEEE-style or scale format (R61 to R63). -/
def fmtParams (fc : Nat) : Nat × Nat × Int :=
  match fc with
  | 0 => (8, 23, 127)
  | 1 => (8, 7, 127)
  | 2 => (5, 10, 15)
  | 3 => (4, 3, 7)
  | 4 => (5, 2, 15)
  | 5 => (2, 1, 1)
  | _ => (3, 5, 3)

/-- The taper formats' width and exponent size (R66). -/
def tfParams (fc : Nat) : Nat × Nat :=
  match fc with
  | 6 => (8, 1)
  | 7 => (16, 1)
  | _ => (32, 2)

def isTaper (fc : Nat) : Bool := fc = 6 || fc = 7 || fc = 8
def isIntFmt (fc : Nat) : Bool := 9 ≤ fc && fc ≤ 12

/-- The code of the largest finite magnitude of an IEEE-style or scale format (R61 to R63). -/
def maxCode (fc : Nat) : Nat :=
  match fc with
  | 0 => 0x7F7FFFFF
  | 1 => 0x7F7F
  | 2 => 0x7BFF
  | 3 => 0x7E
  | 4 => 0x7B
  | 5 => 0x7
  | _ => 0xFE

/-- The magnitude an exponent and fraction field encode when neither infinity nor NaN. -/
def finOfFields (fb : Nat) (bias : Int) (neg : Bool) (ex fr : Nat) : Val :=
  if ex = 0 then .fin neg fr (1 - bias - fb) else .fin neg (2 ^ fb + fr) (ex - bias - fb)

/-- The length of the run of bits equal to `b` from position `i` downwards, `i` one above the first (R66). -/
def runLen (p : Nat) (b : Bool) : Nat → Nat
  | 0 => 0
  | i + 1 => if p.testBit i = b then runLen p b i + 1 else 0

/-- DecodeTF (R66); NaR decodes to the default NaN of FP32 (R69). -/
def decodeTF (p n es : Nat) : Val :=
  if p = 0 then .fin false 0 0
  else if p = 2 ^ (n - 1) then .defNaN
  else
    let neg := p.testBit (n - 1)
    let p := if neg then 2 ^ n - p else p
    let b := p.testBit (n - 2)
    let k := runLen p b (n - 1)
    let r : Int := if b then (k : Int) - 1 else -(k : Int)
    let left := n - 1 - k - 1
    let e := if es ≤ left then p / 2 ^ (left - es) % 2 ^ es else p % 2 ^ left * 2 ^ (es - left)
    let m := left - es
    .fin neg (2 ^ m + p % 2 ^ m) (r * 2 ^ es + e - m)

/-- Two's complement of width n as an integer. -/
def sInt (n x : Nat) : Int := if x % 2 ^ n < 2 ^ (n - 1) then (x % 2 ^ n : Nat) else (x % 2 ^ n : Nat) - 2 ^ n

/-- The exact value a code of the format FC stands for (R61 to R66). -/
def decodeVal (fc code : Nat) : Val :=
  if isTaper fc then decodeTF (code % 2 ^ fmtWidth fc) (tfParams fc).1 (tfParams fc).2
  else if isIntFmt fc then .ofInt (sInt (fmtWidth fc) code)
  else
    let (eb, fb, bias) := fmtParams fc
    if fc = 13 then
      if code % 256 = 0xFF then .defNaN else finOfFields fb bias false (code / 2 ^ fb % 8) (code % 2 ^ fb)
    else
      let neg := code.testBit (eb + fb)
      let ex := code / 2 ^ fb % 2 ^ eb
      let fr := code % 2 ^ fb
      if fc = 5 then finOfFields fb bias neg ex fr
      else if fc = 3 then
        if ex = 15 && fr = 7 then .nan neg 0x700000 else finOfFields fb bias neg ex fr
      else if ex = 2 ^ eb - 1 then
        if fr = 0 then .inf neg else .nan neg (fr * 2 ^ (23 - fb))
      else finOfFields fb bias neg ex fr

/-! ## Rounding (R67, R70, R71) -/

/-- Round m × 2^e (m > 0) to nearest even at lsb weight 2^q: the kept integer, and whether anything was lost. -/
def rneAt (m : Nat) (e q : Int) : Nat × Bool :=
  if q ≤ e then (m * 2 ^ (e - q).toNat, false)
  else
    let sh := (q - e).toNat
    let k := m / 2 ^ sh
    let rest := m % 2 ^ sh
    let half := 2 ^ (sh - 1)
    (if rest > half || (rest = half && k % 2 = 1) then k + 1 else k, rest != 0)

/-- Round a positive finite value to exponent and fraction fields with unbounded exponent: the fields read as one
number, and whether the result differs from the value (R70). -/
def roundFields (fb : Nat) (bias : Int) (m : Nat) (e : Int) : Nat × Bool :=
  let lsbMin : Int := 1 - bias - fb
  let top : Int := e + Nat.log2 m - fb
  let q := if lsbMin ≤ top then top else lsbMin
  let (k, nx) := rneAt m e q
  if k < 2 ^ fb then (k, nx) else (((q - lsbMin).toNat + 1) * 2 ^ fb + (k - 2 ^ fb), nx)

/-- RoundIEEE (R70) to FC 0 to 5 or 13: the code and the flags. A negative finite value to UE3M5 gives IV alone (DESIGN
CHOICE: the table names IV, while NX is said of every result that differs from a finite value; log entry 85). -/
def roundIEEE (v : Val) (fc : Nat) : Nat × FFlags :=
  let (eb, fb, bias) := fmtParams fc
  let sgn (n : Bool) : Nat := if n && fc != 13 then 2 ^ (eb + fb) else 0
  match v with
  | .fin n m e =>
    if m = 0 then (sgn n, 0)
    else if fc = 13 && n then (0xFF, fIV)
    else
      let (c, nx) := roundFields fb bias m e
      if c > maxCode fc then
        (sgn n + (if fc = 3 || fc = 5 || fc = 13 then maxCode fc else (2 ^ eb - 1) * 2 ^ fb), fOF ||| fNX)
      else (sgn n + c, if nx then (if c < 2 ^ fb then fUF ||| fNX else fNX) else 0)
  | .inf n =>
    if fc = 3 then (sgn n + 0x7F, fIV)
    else if fc = 5 then (sgn n + 7, fOF)
    else if fc = 13 then (0xFF, fIV)
    else (sgn n + (2 ^ eb - 1) * 2 ^ fb, 0)
  | .nan n f =>
    if fc = 3 then (sgn n + 0x7F, 0)
    else if fc = 5 then (0, fIV)
    else if fc = 13 then (0xFF, 0)
    else
      let q := if f < 0x400000 then f + 0x400000 else f
      (sgn n + (2 ^ eb - 1) * 2 ^ fb + q / 2 ^ (23 - fb), if f < 0x400000 then fIV else 0)

/-- RoundTF (R67) to the taper format FC: the pattern and the flags. -/
def roundTF (v : Val) (fc : Nat) : Nat × FFlags :=
  let (n, es) := tfParams fc
  match v with
  | .nan _ _ | .inf _ => (2 ^ (n - 1), 0)
  | .fin neg m e =>
    if m = 0 then (0, 0)
    else
      let top : Nat := (n - 2) * 2 ^ es
      let lg : Int := e + Nat.log2 m
      let big := lg > top || (lg = top && m != 2 ^ Nat.log2 m)
      let small := lg < -(top : Int)
      let (m, e) : Nat × Int := if big then (1, (top : Int)) else if small then (1, -(top : Int)) else (m, e)
      let fl := Nat.log2 m
      let s : Int := e + fl
      let r : Int := s / 2 ^ es
      let ex : Nat := (s - r * 2 ^ es).toNat
      let (reg, rl) : Nat × Nat := if r ≥ 0 then (2 ^ (r.toNat + 2) - 2, r.toNat + 2) else (1, (-r).toNat + 1)
      let bitsN := (reg * 2 ^ es + ex) * 2 ^ fl + (m - 2 ^ fl)
      let len := rl + es + fl
      let (keep, nx) : Nat × Bool :=
        if len ≤ n - 1 then (bitsN * 2 ^ (n - 1 - len), false) else rneAt bitsN 0 (len - (n - 1) : Nat)
      let p := if neg then (2 ^ n - keep) % 2 ^ n else keep
      (p, (if big then fOF ||| fNX else 0) ||| (if small then fUF ||| fNX else 0) ||| (if nx then fNX else 0))

/-- ConvInt (R71) to INTn, toward zero when `rz`; the result as a two's-complement pattern. -/
def convInt (v : Val) (n : Nat) (rz : Bool) : Nat × FFlags :=
  let lo : Int := -(2 ^ (n - 1))
  let hi : Int := 2 ^ (n - 1) - 1
  let pat (x : Int) : Nat := (x % 2 ^ n).toNat
  match v with
  | .nan _ _ => (0, fIV)
  | .inf neg => (pat (if neg then lo else hi), fIV)
  | .fin neg m e =>
    let (k, nx) : Nat × Bool :=
      if m = 0 then (0, false)
      else if e ≥ 0 then (m * 2 ^ e.toNat, false)
      else if rz then (m / 2 ^ (-e).toNat, m % 2 ^ (-e).toNat != 0)
      else rneAt m e 0
    let x : Int := if neg then -(k : Int) else k
    if x < lo then (pat lo, fIV) else if hi < x then (pat hi, fIV) else (pat x, if nx then fNX else 0)

/-- Rounding of an exact value to any element format that is no integer (R69). -/
def roundVal (v : Val) (fc : Nat) : Nat × FFlags := if isTaper fc then roundTF v fc else roundIEEE v fc

/-- RoundIEEE to FP32, as a code. -/
def r32 (v : Val) : Nat := (roundIEEE v 0).1

/-- The default NaN of FP32 (R61). -/
def nan32 : Nat := 0x7FC00000

/-! ## Vector arithmetic (R74 to R76) -/

/-- The first NaN of an operand list, quieted, with IV when any operand is signalling (R75); none without a NaN. -/
def nanOf (l : List Val) : Option (Val × FFlags) :=
  match l.find? Val.isNaN with
  | some v => some (v.quieted, if l.any Val.isSNaN then fIV else 0)
  | none => none

/-- Round an exact result to FC, or the default NaN with IV for an invalid operation (R75). -/
def roundOr (v : Option Val) (fc : Nat) : Nat × FFlags :=
  match v with
  | some v => roundIEEE v fc
  | none => ((roundIEEE .defNaN fc).1, fIV)

/-- A NaN result in FC, or the given result where no operand is a NaN (R75). -/
def withNaN (l : List Val) (fc : Nat) (r : Nat × FFlags) : Nat × FFlags :=
  match nanOf l with
  | some (v, f) => ((roundIEEE v fc).1, f)
  | none => r

def fAdd (fc : Nat) (a b : Val) : Nat × FFlags := withNaN [a, b] fc (roundOr (Val.add? a b) fc)
def fSub (fc : Nat) (a b : Val) : Nat × FFlags := withNaN [a, b] fc (roundOr (Val.add? a b.negate) fc)
def fMul (fc : Nat) (a b : Val) : Nat × FFlags := withNaN [a, b] fc (roundOr (Val.mul? a b) fc)

/-- The fused family: exact ±(a × b) ± c, rounded once; operand order a, b, c (R75, R76). -/
def fFma (fc : Nat) (negP negC : Bool) (a b c : Val) : Nat × FFlags :=
  let p := Val.mul? a b
  let p := if negP then p.map Val.negate else p
  let c' := if negC then c.negate else c
  withNaN [a, b, c] fc (roundOr (p.bind (fun x => Val.add? x c')) fc)

/-- Division (R76). -/
def fDiv (fc : Nat) (a b : Val) : Nat × FFlags :=
  withNaN [a, b] fc <|
    match a, b with
    | .fin n1 m1 e1, .fin n2 m2 e2 =>
      if m2 = 0 then
        if m1 = 0 then roundOr none fc
        else ((roundIEEE (.inf (n1 != n2)) fc).1, fDZ)
      else if m1 = 0 then roundIEEE (.fin (n1 != n2) 0 0) fc
      else roundIEEE (Val.quot n1 m1 e1 n2 m2 e2) fc
    | .inf n1, .fin n2 _ _ => roundIEEE (.inf (n1 != n2)) fc
    | .fin n1 _ _, .inf n2 => roundIEEE (.fin (n1 != n2) 0 0) fc
    | _, _ => roundOr none fc

/-- Square root (R76). -/
def fSqrt (fc : Nat) (a : Val) : Nat × FFlags :=
  withNaN [a] fc <|
    match a with
    | .fin n m e => if m = 0 then roundIEEE (.fin n 0 0) fc else if n then roundOr none fc
                    else roundIEEE (Val.sqrtFin m e) fc
    | .inf n => if n then roundOr none fc else roundIEEE (.inf false) fc
    | .nan _ _ => roundOr none fc

/-- Whether a orders below b with −0 below +0 (R76). -/
def zLt (a b : Val) : Bool := Val.lt a b || (a.isZero && b.isZero && a.neg && !b.neg)

/-- Minimum and maximum (R76). -/
def fMin (fc : Nat) (a b : Val) : Nat × FFlags := withNaN [a, b] fc (roundIEEE (if zLt b a then b else a) fc)
def fMax (fc : Nat) (a b : Val) : Nat × FFlags := withNaN [a, b] fc (roundIEEE (if zLt a b then b else a) fc)

/-- Bits of log2 of a mantissa y in [1, 2), y held with 256 fraction bits: squaring doubles the logarithm. -/
def log2Bits : Nat → Nat → Nat → Nat
  | 0, _, acc => acc
  | k + 1, y, acc =>
    let z := y * y / 2 ^ 256
    if z < 2 ^ 257 then log2Bits k z (2 * acc) else log2Bits k (z / 2) (2 * acc + 1)

/-- log2, correctly rounded (R76). -/
def fLog2 (fc : Nat) (a : Val) : Nat × FFlags :=
  withNaN [a] fc <|
    match a with
    | .inf n => if n then roundOr none fc else roundIEEE (.inf false) fc
    | .nan _ _ => roundOr none fc
    | .fin n m e =>
      if m = 0 then ((roundIEEE (.inf true) fc).1, fDZ)
      else if n then roundOr none fc
      else
        let l := Nat.log2 m
        if m = 2 ^ l then roundIEEE (.ofInt (e + l)) fc
        else
          let t := log2Bits 120 (m * 2 ^ (256 - l)) 0
          let x : Int := 2 * ((e + l) * 2 ^ 120 + t) + 1
          roundIEEE (.fin (x < 0) x.natAbs (-121)) fc

/-! ## Exp2 (R77, R78) -/

/-- T[i] = RoundIEEE(2^(i/64), FP32) (R78). -/
def expT : List Nat :=
   [0x3F800000, 0x3F8164D2, 0x3F82CD87, 0x3F843A29, 0x3F85AAC3, 0x3F871F62, 0x3F88980F, 0x3F8A14D5] ++
   [0x3F8B95C2, 0x3F8D1ADF, 0x3F8EA43A, 0x3F9031DC, 0x3F91C3D3, 0x3F935A2B, 0x3F94F4F0, 0x3F96942D] ++
   [0x3F9837F0, 0x3F99E046, 0x3F9B8D3A, 0x3F9D3EDA, 0x3F9EF532, 0x3FA0B051, 0x3FA27043, 0x3FA43516] ++
   [0x3FA5FED7, 0x3FA7CD94, 0x3FA9A15B, 0x3FAB7A3A, 0x3FAD583F, 0x3FAF3B79, 0x3FB123F6, 0x3FB311C4] ++
   [0x3FB504F3, 0x3FB6FD92, 0x3FB8FBAF, 0x3FBAFF5B, 0x3FBD08A4, 0x3FBF179A, 0x3FC12C4D, 0x3FC346CD] ++
   [0x3FC5672A, 0x3FC78D75, 0x3FC9B9BE, 0x3FCBEC15, 0x3FCE248C, 0x3FD06334, 0x3FD2A81E, 0x3FD4F35B] ++
   [0x3FD744FD, 0x3FD99D16, 0x3FDBFBB8, 0x3FDE60F5, 0x3FE0CCDF, 0x3FE33F89, 0x3FE5B907, 0x3FE8396A] ++
   [0x3FEAC0C7, 0x3FED4F30, 0x3FEFE4BA, 0x3FF28177, 0x3FF5257D, 0x3FF7D0DF, 0x3FFA83B3, 0x3FFD3E0C]

/-- RoundIEEE to FP32 as a value. -/
def rv32 (v : Option Val) : Val :=
  match v with
  | some v => decodeVal 0 (r32 v)
  | none => .defNaN

/-- Exp2 (R77) of a value of FP32: the FP32 code and the flags. -/
def exp2 (x : Val) : Nat × FFlags :=
  match x with
  | .nan _ _ => (r32 x.quieted, if x.isSNaN then fIV else 0)
  | .inf n => if n then (0, 0) else (0x7F800000, 0)
  | .fin neg m e =>
    if !(Val.lt x (.ofInt 128)) then (0x7F800000, fOF ||| fNX)
    else if Val.lt x (.ofInt (-150)) then (0, fUF ||| fNX)
    else
      let z : Int := if neg then -(m : Int) else m
      -- x = z × 2^e; with d fraction bits, floor and fraction are exact
      let d : Nat := if e < -6 then (-e).toNat else 6
      let fx : Int := z * 2 ^ (e + d).toNat
      let n : Int := fx / 2 ^ d
      let f : Nat := (fx - n * 2 ^ d).toNat
      let i := f * 64 / 2 ^ d
      let g : Val := .fin false (f * 64 - i * 2 ^ d) (-(d : Int) - 6)
      let c1 := decodeVal 0 0x3F317218
      let c2 := decodeVal 0 0x3E75FDF0
      let c3 := decodeVal 0 0x3D635847
      let t := rv32 (Val.mul? g c3)
      let t := rv32 (Val.add? c2 t)
      let t := rv32 (Val.mul? g t)
      let t := rv32 (Val.add? c1 t)
      let t := rv32 (Val.mul? g t)
      let p := rv32 (Val.add? (.ofInt 1) t)
      let q := rv32 (Val.mul? (decodeVal 0 (expT.getD i 0)) p)
      match q with
      | .fin qn qm qe => roundIEEE (.fin qn qm (qe + n)) 0
      | v => roundIEEE v 0

/-- exp2 of a 16-bit operand: Exp2 of its exact widening, then RoundIEEE to the format (R76). -/
def fExp2 (fc : Nat) (a : Val) : Nat × FFlags :=
  if fc = 0 then exp2 a
  else
    let (c, f) := exp2 a
    let (c', f') := roundIEEE (decodeVal 0 c) fc
    (c', f ||| f')

/-- e^y as its callers form it (R77): RoundIEEE(y × log2e), then Exp2. -/
def expE (y : Val) : Nat × FFlags :=
  let (c, f) := fMul 0 y (decodeVal 0 0x3FB8AA3B)
  let (c', f') := exp2 (decodeVal 0 c)
  (c', f ||| f')

/-! ## Conversions and block quantisation (R69, R73) -/

/-- Saturating or wrapping narrowing between integer formats (R69): no flag. -/
def intToInt (x : Int) (n : Nat) (sat : Bool) : Nat :=
  let lo : Int := -(2 ^ (n - 1))
  let hi : Int := 2 ^ (n - 1) - 1
  let y := if sat then (if x < lo then lo else if hi < x then hi else x) else x
  (y % 2 ^ n).toNat

/-- Any conversion of R69 from FC `from` to FC `to`, with the integer rounding and saturation choices. -/
def convert (ffc tfc code : Nat) (rz sat : Bool) : Nat × FFlags :=
  let v := decodeVal ffc code
  if isIntFmt tfc then
    if isIntFmt ffc then (intToInt (sInt (fmtWidth ffc) code) (fmtWidth tfc) sat, 0)
    else convInt v (fmtWidth tfc) rz
  else roundVal v tfc

/-- The smallest code in `1 .. n` whose value s has s × 6 ≥ amax (R73). -/
def scaleSearch (sf : Nat) (amax : Val) : Nat → Nat → Nat
  | 0, c => c
  | k + 1, c =>
    match Val.mul? (decodeVal sf c) (.ofInt 6) with
    | some s => if Val.lt s amax then scaleSearch sf amax k (c + 1) else c
    | none => c

/-- QBlock (R73) in scale format `sf` (13 UE3M5, 4 E5M2): eight E2M1 codes, the scale code, and the flags. -/
def qBlock (x : List Val) (sf : Nat) : List Nat × Nat × FFlags :=
  if x.any Val.isNaN then (x.map (fun _ => 0), if sf = 13 then 0xFF else 0x7E, fIV)
  else
    let amax := x.foldl (fun a v => if v.isInf then a else if Val.lt a v.abs then v.abs else a) (.fin false 0 0)
    let sc := if amax.isZero then 0 else scaleSearch sf amax (maxCode sf - 1) 1
    let qs := x.map (fun v =>
      match v with
      | .fin n m e =>
        if sc = 0 then ((if n then 8 else 0 : Nat), (0 : FFlags))
        else if m = 0 then (if n then 8 else 0, 0)
        else
          match decodeVal sf sc with
          | .fin sn sm se => roundIEEE (Val.quot n m e sn sm se) 5
          | _ => (0, 0)
      | .inf n => (if n then 0xF else 7, fOF)
      | .nan _ _ => (0, 0))
    (qs.map Prod.fst, sc, qs.foldl (fun a q => a ||| q.2) 0)

/-- The exact product q × sb × st of an element and its scales, with the special scales of R64: a NaN, infinite or
negative scale gives the default NaN, a zero scale a zero with q's sign. -/
def applyScales (q : Val) (scales : List Val) : Val :=
  if scales.any (fun s => s.isNaN || s.isInf || (s.neg && !s.isZero)) then .defNaN
  else if scales.any Val.isZero then
    .fin q.neg 0 0
  else scales.foldl (fun a s => (Val.mul? a s).getD .defNaN) q

/-! ## The random-number mixer (R84, R85) -/

/-- Mix (R84). -/
def mix (z : Word) : Word :=
  let z := (z ^^^ (z >>> 30)) * 0xBF58476D1CE4E5B9#64
  let z := (z ^^^ (z >>> 27)) * 0x94D049BB133111EB#64
  z ^^^ (z >>> 31)

/-- Rand (R84). -/
def rand (key ctr lane : Word) : Word := mix (key ^^^ (ctr + lane * 0x9E3779B97F4A7C15#64))

/-- The uniform value U of R85, as an FP32 code. -/
def randU (r : Word) : Nat := r32 (.fin false (bits r 40 24).toNat (-24))

/-! ## The format table (R86) -/

def fmtFC (e : Word) : Nat := (bits e 0 4).toNat
def fmtBSF (e : Word) : Bool := bit e 4
def fmtRSC (e : Word) : Bool := bit e 5
def fmtBND (e : Word) : Bool := bit e 6
def fmtROW (e : Word) : Nat := (bits e 8 12).toNat
/-- A reserved bit of an entry is set (R86). -/
def fmtReserved (e : Word) : Bool := bit e 7 || bits e 20 44 != 0
/-- The scale format of an entry: UE3M5 or E5M2 (R86). -/
def fmtSF (e : Word) : Nat := if fmtBSF e then 4 else 13
/-- Element bytes of a stored row of n elements (R60). -/
def elemBytes (fc n : Nat) : Nat := (n * fmtWidth fc + 7) / 8
/-- The row footprint of an entry for rows of n elements (R86). -/
def rowBytes (e : Word) (n : Nat) : Nat :=
  let b := elemBytes (fmtFC e) n + (if fmtFC e = 5 then (if fmtRSC e then 1 else n / 8) else 0)
  (b + 31) / 32 * 32
/-- Round up to a multiple of 32. -/
def up32 (n : Nat) : Nat := (n + 31) / 32 * 32
/-- The entry faults of R87 that need no ROW. -/
def fmtBad (e : Word) : Bool :=
  fmtReserved e || fmtFC e ≥ 13 || ((fmtBSF e || fmtRSC e) && fmtFC e != 5)
/-- The entry faults of R87 on ROW, where the instruction needs it. -/
def fmtRowBad (e : Word) : Bool :=
  fmtROW e = 0 || (fmtWidth (fmtFC e) = 4 && fmtROW e % 2 = 1)
    || (fmtFC e = 5 && !fmtRSC e && fmtROW e % 8 != 0)

end Sys2Proof.Machine
end

