-- ==== Sys2Proof/Machine/Image.lean ====
section
/-!
DEFINITION. The image of a bank in the save area (R157), word by word. Each item stands at the offset R157 gives it; the
order of the words inside an item, where R157 gives none, is the model's (log entry 19).
-/
namespace Sys2Proof.Machine

/-! ## Words of the image -/

/-- Flags packed in a word, the first at bit 0. -/
def packFlags : List Bool → Nat
  | [] => 0
  | f :: r => (if f then 1 else 0) + 2 * packFlags r

def flagWord (l : List Bool) : Word := BitVec.ofNat 64 (packFlags l)

/-- Two halves of a word. -/
def twoHalves (lo hi : Nat) : Word := BitVec.ofNat 64 (lo % 2 ^ 32 + hi % 2 ^ 32 * 2 ^ 32)

def lowHalf (w : Word) : Nat := w.toNat % 2 ^ 32

def highHalf (w : Word) : Nat := w.toNat / 2 ^ 32

/-- PC, the pending-fault flag with the mode, the CSRs of R40 (`ro` its read-only ones), VCTL and the other vector
items. -/
def controlWords (ro : List Word) (b : Bank) : List Word :=
  [b.pc, flagWord [b.pend, b.mode = .supervisor], b.shp, b.rrb, b.rotn, b.fmtl, b.ashp, b.brs, b.slip, b.wid, b.ctxid,
   b.xlive, b.fltc, b.flta, b.flti] ++ ro ++ [b.vec.vctl, b.vec.vfi, b.vec.vfa, b.vec.vfs]

/-- One loop level: flags, counter, start, end, iteration index. -/
def loopWords (v : LoopLevel) : List Word := [flagWord [v.act, v.pipe, v.ut, v.nt], v.lc, v.start, v.stop, v.idx]

/-- Loop levels, `rep` count, RRB, ROTN, FMTL, SPM and the stage predicates. -/
def loopItem (b : Bank) : List Word :=
  b.loops.toList.flatMap loopWords
    ++ [b.repc, b.rrb, b.rotn, b.fmtl, b.spm.setWidth 64, b.sp.setWidth 64]

/-- One handle register, 64 bytes. -/
def handleWords (h : Handle) : List Word :=
  [BitVec.ofNat 64 (packFlags [h.v, h.pd, h.ck, h.r, h.w, h.x, h.missing] + 256 * h.tier.toNat), h.va.setWidth 64,
   BitVec.ofNat 64 h.seg, BitVec.ofNat 64 h.lo, BitVec.ofNat 64 h.hi, BitVec.ofNat 64 h.phys, 0, 0]

/-- One channel register, home or view, 32 bytes. -/
def chanWords (c : Chan) : List Word :=
  [BitVec.ofNat 64 (packFlags [c.set, c.view] + 16 * c.home.val + 2 ^ 32 * (c.slot % 2 ^ 32)), BitVec.ofNat 64 c.base,
   twoHalves c.count c.head, twoHalves c.tail c.filled]

/-- A queue entry: its instruction words and the index of its tag. -/
def entryWords (e : Entry) : List Word :=
  [twoHalves e.w0.toNat e.w1.toNat, match e.tag with
    | none => 0
    | some (_, v) => v]

/-- Whether an entry is tagged, and the level of its tag, in four bits. -/
def tagLevel (e : Entry) : Nat :=
  match e.tag with
  | none => 0
  | some (l, _) => 1 + 2 * l.val

/-- The entries of an engine's queue, oldest first. -/
def queueEntries (b : Bank) (e : Eng) : List Entry :=
  if e = .vector then b.vec.queue
  else (b.jobs.filter (fun j => j.eng = e && j.phase = .queued)).map (fun j => j.e)

/-- The engines in the order of the image, each with the places of its queue (R8). -/
def queuePlaces : List (Eng × Nat) :=
  [(.vector, 32), (.matrix, 16), (.copy, 16), (.kv, 8), (.stack, 32), (.backfill, 8)]

/-- The first place of an engine's queue in the image. -/
def firstPlace (e : Eng) : Nat := ((queuePlaces.takeWhile (fun p => p.1 != e)).map Prod.snd).sum

/-- The engine queues, each in its own places, their heads and tails, then the levels of the tags, sixteen in a word. -/
def queueItem (b : Bank) : List Word :=
  let inPlaces (n : Nat) (l : List Nat) : List Nat := (l ++ List.replicate n 0).take n
  let levels := queuePlaces.flatMap (fun p => inPlaces p.2 ((queueEntries b p.1).map tagLevel))
  queuePlaces.flatMap (fun p => ((queueEntries b p.1).flatMap entryWords ++ List.replicate (2 * p.2) 0).take (2 * p.2))
    ++ queuePlaces.map (fun p => twoHalves 0 (queueEntries b p.1).length)
    ++ (List.range 7).map (fun i => BitVec.ofNat 64 (((levels.drop (16 * i)).take 16).foldr (fun x n => x + 16 * n) 0))

/-- A deferral queue padded to 256 elements. -/
def deferralBytes (q : List (BitVec 32)) : List Byte :=
  ((q ++ List.replicate 256 0).take 256).flatMap (fun (e : BitVec 32) => toBytes 4 e.toNat)

/-- The row metadata of a tile: m then l, row by row (R293). -/
def rowMeta (t : Tile) : List Byte :=
  (List.range 128).flatMap (fun r =>
    toBytes 4 (t.m.extractLsb' (32 * r) 32).toNat ++ toBytes 4 (t.l.extractLsb' (32 * r) 32).toNat)

/-- KIND of a chain record. -/
def kindCode : ChainKind → Nat
  | .none => 0
  | .plain => 1
  | .attn => 2

/-- A chain record (R294): KIND and the scale identity: its two band-scale arrays by on-chip address, the band index of the
latched operand and the first row of the streamed one. -/
def chainWords (t : Tile) : List Word :=
  let sid := t.scaleId.getD ⟨none, false, none⟩
  let (a, i) := sid.latched.getD (0, 0)
  let (b, j) := sid.streamed.getD (0, 0)
  [BitVec.ofNat 64 (kindCode t.kind + 4 * packFlags [t.scaleId.isSome, sid.latched.isSome, sid.rowScaled, sid.streamed.isSome]
      + 2 ^ 8 * (a % 2 ^ 28) + 2 ^ 36 * (i % 2 ^ 28)), twoHalves b j]

/-- A latch record (R301): the source, with its channel, slot and held advance; the address of the descriptor or of the
index list with its count; the format entry captured. -/
def latchWords : Option Latch → List Word
  | none => [0, 0, 0]
  | some x =>
    let e := x.entry
    let src : Nat := match x.src with
      | .ring ch slot adv => 1 + 4 * (ch % 16) + 64 * (adv % 2 ^ 8) + 2 ^ 16 * (slot % 2 ^ 32)
      | .desc => 2
      | .gather => 3
    [BitVec.ofNat 64 (src + 2 ^ 48 * (x.rows.length % 2 ^ 16)), match x.src with
      | .gather => e.xb
      | _ => e.xa, e.fxs]

/-- The matrix shadow configuration, with H, the fill in progress, the chain records of R294 and the latch records of
R301. -/
def shadowWords (m : MatState) : List Word :=
  [m.mash, m.mfx, m.msc, m.mmsk, m.mbmp, BitVec.ofNat 64 m.h, BitVec.ofNat 64 m.refill]
    ++ m.tiles.toList.flatMap chainWords ++ latchWords m.latchS ++ latchWords m.latchV ++ latchWords m.latchO

/-- The header of the pair slot. -/
def pairHeader : Option PairSlot → List Word
  | none => [0, 0, 0]
  | some p => [1, BitVec.ofNat 64 p.f, twoHalves p.follower p.n]

/-- The token of a job as its saved entry holds it: DONE = 0 until it has completed (R157). -/
def savedToken (j : Job) : Word := if j.phase = .done then j.token else j.seq.setWidth 64

/-- An entry of the job and footprint table, 128 bytes: token, destination and item, instruction, result, the bounds
of its first four regions and its first sixteen edges. -/
def jobWords (j : Job) : List Word :=
  let rs := (j.reads ++ j.writes).flatMap (fun r => [BitVec.ofNat 64 r.lo, BitVec.ofNat 64 r.hi])
  [savedToken j, twoHalves j.dst.toNat j.item, twoHalves j.e.w0.toNat j.e.w1.toNat, j.result]
    ++ (rs ++ List.replicate 8 0).take 8
    ++ (List.range 4).map (fun i => BitVec.ofNat 64
      (((j.edges.drop (4 * i)).take 4).foldr (fun (x : BitVec 16) n => x.toNat + 2 ^ 16 * n) 0))

/-- A running stream (R290), 256 bytes: SEQ, its next position, the slots and rows behind it, and its pinned header
addresses. -/
def streamWords (j : Job) : List Word :=
  match j.stream with
  | none => []
  | some st =>
    ([j.seq.setWidth 64, BitVec.ofNat 64 (st.p0 + st.g * st.m + st.row), twoHalves st.m st.row, BitVec.ofNat 64 st.pins.length]
      ++ st.pins.map (fun (p : Pin) => BitVec.ofNat 64 p.hdr) ++ List.replicate 32 0).take 32

/-- The items of the image that are words, with their offsets (R157). -/
def imageItems (ro : List Word) (b : Bank) : List (Nat × List Word) :=
  [(0, b.x.toList), (0x200, controlWords ro b), (0x300, b.fmt.toList), (0x500, loopItem b),
   (0x600, b.handles.toList.flatMap handleWords), (0xA00, b.chans.toList.flatMap chanWords), (0xC00, queueItem b),
   (0xD2000, shadowWords b.mat), (0xF0000, pairHeader b.mat.slot), (0xF0100, (b.jobs.flatMap jobWords).take 768),
   (0xF1900, (b.jobs.flatMap streamWords).take 128)]

/-- Store the words of an item that differ from what it held. -/
def storeChanged (s : State) (a : Nat) (old new : List Word) : State :=
  new.zipIdx.foldl (fun s p => if old[p.2]? = some p.1 then s else s.storeWords (a + 8 * p.2) [p.1]) s

/-- What changes in the state of an evicted context changes in its save area at key a (R157, R381). -/
def mirror (s : State) (a : Nat) (old new : Bank) : State :=
  let ro := List.replicate 5 0
  ((imageItems ro old).zip (imageItems ro new)).foldl (fun s p => storeChanged s (a + p.1.1) p.1.2 p.2.2) s

end Sys2Proof.Machine
end

