-- ==== Sys2Proof/Machine/Access.lean ====
section
/-!
DEFINITION. Access to the parts of State, and what stands between an address and its home: segments (R95 to R97), page
walks (R98, R99), handles (R100 to R103), on-chip addresses (R104), footprints (R116, R121), and race-detection tags
(R122 to R125).
-/
namespace Sys2Proof.Machine

/-! ## Cores and banks -/

def State.core (s : State) (k : Fin 16) : Core := s.cores.get k

def State.setCore (s : State) (k : Fin 16) (c : Core) : State := { s with cores := s.cores.set k.val c k.isLt }

/-- The bank a core's control core runs: the first or the second (R136). -/
def coreBank (c : Core) (second : Bool) : Bank := if second then c.bank1 else c.bank0

def setCoreBank (c : Core) (second : Bool) (b : Bank) : Core :=
  if second then { c with bank1 := b } else { c with bank0 := b }

/-- A bank of a core. -/
def State.bankAt (s : State) (k : Fin 16) (second : Bool) : Bank := coreBank (s.core k) second

def State.setBankAt (s : State) (k : Fin 16) (second : Bool) (b : Bank) : State :=
  s.setCore k (setCoreBank (s.core k) second b)

/-- The active bank of a core. -/
def State.active (s : State) (k : Fin 16) : Bank := s.bankAt k (s.core k).second

def State.setActive (s : State) (k : Fin 16) (b : Bank) : State := s.setBankAt k (s.core k).second b

/-- The active bank of the core whose control core the current instruction runs on. -/
def State.bk (s : State) : Bank := s.active s.cur

def State.setBk (s : State) (b : Bank) : State := s.setActive s.cur b

/-- STAMP (R21): one tick is two cycles. -/
def State.stamp (s : State) : Nat := s.clk / 2

/-- STAMP as a register value. -/
def State.stampW (s : State) : Word := BitVec.ofNat 64 s.stamp

def State.launch (s : State) (slot : Fin 16) : Option Launch := s.ls.slots.get slot

def State.setLaunch (s : State) (slot : Fin 16) (l : Option Launch) : State :=
  { s with ls := { s.ls with slots := s.ls.slots.set slot.val l slot.isLt } }

/-- A fresh free value: one the spec leaves open (log entry 3). -/
def State.draw (s : State) : Word × State := (Config.freeValue s.fresh, { s with fresh := s.fresh + 1 })

/-- The launch a bank's context belongs to. -/
def State.launchOf (s : State) (b : Bank) : Option Launch := b.slot.bind s.launch

def State.stack (s : State) (j : Fin 16) : Stack := s.wstacks.get j

def State.setStack (s : State) (j : Fin 16) (w : Stack) : State :=
  { s with wstacks := s.wstacks.set j.val w j.isLt }

/-- The bank of core k that holds the context of a launch slot, if it is resident there (R136). -/
def State.residentAt (s : State) (k : Fin 16) (slot : Fin 16) : Option Bool :=
  if (s.bankAt k false).slot = some slot then some false
  else if (s.bankAt k true).slot = some slot then some true else none

/-- Where a job lives: in a bank of its core, or in the saved banks of an evicted context (R157). -/
inductive Loc where
  | bank (second : Bool)
  | saved (slot : Fin 16)
  deriving DecidableEq, Repr

/-- The bank saved for core k of an evicted context. -/
def savedBank (l : Launch) (k : Fin 16) : Option Bank := (l.savedBanks.find? (fun p => p.1 = k)).map Prod.snd

def State.locBank (s : State) (k : Fin 16) (loc : Loc) : Option Bank :=
  match loc with
  | .bank b => some (s.bankAt k b)
  | .saved slot => (s.launch slot).bind (fun l => savedBank l k)

/-- Core k's part of a launch's save area (R157). -/
def saveKey (l : Launch) (k : Fin 16) : Nat := l.savePA + k.val * 0x100000

/-- Replace a bank; what changes in a saved one changes in the save area as well (R157). -/
def State.setLocBank (s : State) (k : Fin 16) (loc : Loc) (b : Bank) : State :=
  match loc with
  | .bank x => s.setBankAt k x b
  | .saved slot =>
    match s.launch slot with
    | some l =>
      let s := match savedBank l k with
        | some old => mirror s (saveKey l k) old b
        | none => s
      s.setLaunch slot (some { l with savedBanks := l.savedBanks.map (fun p => if p.1 = k then (k, b) else p) })
    | none => s

/-- The places a core's jobs may be: its two banks and the saved bank of every launch slot. -/
def allLocs : List Loc := [.bank false, .bank true] ++ (List.finRange 16).map Loc.saved

/-- A job of a core by its SEQ, among those whose token is not written yet, and where it is. -/
def State.findJob (s : State) (k : Fin 16) (seq : BitVec 16) : Option (Loc × Job) :=
  allLocs.findSome? (fun loc =>
    (s.locBank k loc).bind (fun b =>
      (b.jobs.find? (fun j => j.seq = seq && j.phase != .done)).map (fun j => (loc, j))))

/-- Replace a job, by SEQ, in a bank. -/
def setJobIn (b : Bank) (j : Job) : Bank :=
  { b with jobs := b.jobs.map (fun x => if x.seq = j.seq && x.phase != .done then j else x) }

def State.setJob (s : State) (k : Fin 16) (loc : Loc) (j : Job) : State :=
  match s.locBank k loc with
  | some b => s.setLocBank k loc (setJobIn b j)
  | none => s

/-! ## Scalar registers (R159) -/

def regIx (r : Reg) : Fin 64 := ⟨r.toNat, r.isLt⟩

/-- s0 reads as zero. -/
def getReg (b : Bank) (r : Reg) : Word := if r = 0#6 then 0 else b.x.get (regIx r)

/-- Writes to s0 are discarded. -/
def putReg (b : Bank) (r : Reg) (v : Word) : Bank :=
  if r = 0#6 then b else { b with x := b.x.set (regIx r).val v (regIx r).isLt }

/-- A field of the handle, channel or mask kind as an index (R37); legality has checked its range. -/
def ix16 (r : Reg) : Fin 16 := ⟨r.toNat % 16, Nat.mod_lt _ (by decide)⟩

def getHandle (b : Bank) (r : Reg) : Handle := b.handles.get (ix16 r)
def putHandle (b : Bank) (r : Reg) (h : Handle) : Bank :=
  { b with handles := b.handles.set (ix16 r).val h (ix16 r).isLt }
def getChan (b : Bank) (r : Reg) : Chan := b.chans.get (ix16 r)
def putChan (b : Bank) (r : Reg) (c : Chan) : Bank :=
  { b with chans := b.chans.set (ix16 r).val c (ix16 r).isLt }

/-! ## Stops on the way: faults and waits -/

/-- Why an instruction does not complete now: it takes a fault (R150), with what its reads have met before (R475), or
it waits (R162), perhaps having started the exit of a park (R446). -/
inductive Stop where
  | flt (e : Exc)
  | fltAt (s : State) (e : Exc)
  | wait (w : Stall)
  | waitAt (s : State) (w : Stall)
  deriving DecidableEq, Repr

/-- A fault of the control core, SRC 000 (R151). -/
def ctlFault {α : Type} (c : FaultCode) (flta : Word) : Except Stop α := .error (.flt ⟨c, flta, 0, 0⟩)

/-- A fault of an enqueue check, SRC 010 (R151). -/
def enqFault {α : Type} (c : FaultCode) (flta : Word) : Except Stop α := .error (.flt ⟨c, flta, 2, 0⟩)

/-- Poison consumed by the control core: DUE, or MARG with the island (R109). -/
def poisonFault {α : Type} (s : State) (m : Mark) (flta : Word) : Except Stop α :=
  .error (.fltAt s ⟨markCode m, flta, 0, markIsl m⟩)

/-- Require a condition, else raise. -/
def need (c : Bool) (e : Except Stop Unit) : Except Stop Unit := if c then .ok () else e

/-! ## Segments (R90, R95 to R97) -/

/-- The segment that holds an address, with its index. -/
def findSegFrom (va : Nat) : Nat → List Seg → Option (Nat × Seg)
  | _, [] => none
  | i, g :: r => if g.vbase ≤ va && va < g.vbase + g.len then some (i, g) else findSegFrom va (i + 1) r

def findSeg (l : List Seg) (va : Nat) : Option (Nat × Seg) := findSegFrom va 0 l

/-- Whether a segment's memory is checked (R97). -/
def segChecked (g : Seg) : Bool := g.tier = 0 || g.chk

/-- The segments of a bank's context. -/
def State.segsOf (s : State) (b : Bank) : List Seg :=
  match s.launchOf b with
  | some l => l.segs
  | none => []

def State.rootOf (s : State) (b : Bank) : Nat :=
  match s.launchOf b with
  | some l => l.root
  | none => 0

/-! ## The page walk (R98, R99) -/

/-- Bits of an entry that R99 wants zero: the reserved fields. -/
def pteReserved (e : Word) : Bool := bits e 4 12 != 0 || bits e 48 16 != 0

def ptePPN (e : Word) : Nat := (bits e 16 32).toNat * 0x10000

/-- A table in tier 1 (R99). -/
def tableOk (pa n : Nat) : Bool := tier1Ok pa n

/-- A present non-leaf entry: the next table's address (R99); its W, A and D are zero (R98; log entry 29). The poison of an
entry's sector is ignored, and a ROOT that is not aligned to the size of its table is used as it is (DESIGN CHOICE: R98 and
R99 say nothing of either; log entry 81). -/
def walkStep (s : State) (table idx size : Nat) : Option Nat :=
  let e := s.wordAt (table + 8 * idx)
  if tableOk table size && bits e 0 4 = 1#4 && !pteReserved e && tableOk (ptePPN e) 0x10000 then some (ptePPN e) else none

/-- The walk of R98 and R99: the leaf entry's location and value, or none when the page is not present. Poison of the leaf
entry is ignored (log entry 81). -/
def walk (s : State) (root : Nat) (checked : Bool) (va : Nat) : Option (Nat × Word) :=
  match walkStep s root (va / 2 ^ 42 % 16384) 0x20000 with
  | none => none
  | some t2 =>
    match walkStep s t2 (va / 2 ^ 29 % 8192) 0x10000 with
    | none => none
    | some t3 =>
      let at3 := t3 + 8 * (va / 2 ^ 16 % 8192)
      let e := s.wordAt at3
      let p := ptePPN e
      if bit e 0 && !pteReserved e && (tier1Ok p 0x10000 || (!checked && tier2Ok p 0x10000)) then some (at3, e)
      else none

def pteW (e : Word) : Bool := bit e 1

/-- The walker's atomic update of A or D at the entry's home (R99). -/
def State.pteMark (s : State) (loc : Nat) (m : Word) : State := s.storeWord loc (s.wordAt loc ||| m)

/-! ## Translating an access -/

/-- Where an access goes: the segment it lies in, its virtual address and the key of its home. -/
structure Target where
  key : Nat
  va : Nat
  checked : Bool
  deriving DecidableEq, Repr

/-- Translate n bytes at va (inside one page) for a context's engine access: SEGV outside its segments or rights, XF
where the page is not present or not writable (R99, R150). A write sets D, a fresh translation sets A. -/
def translate (s : State) (segs : List Seg) (root va n : Nat) (r w : Bool) :
    Except FaultCode (State × Target) :=
  match findSeg segs va with
  | none => .error .segv
  | some (_, g) =>
    if g.vbase + g.len < va + n || (r && !g.r) || (w && !g.w) then .error .segv
    else if g.tier = 0 then .ok (s, ⟨onKey va, va, true⟩)
    else if !g.pg then .ok (s, ⟨g.pbase + (va - g.vbase), va, segChecked g⟩)
    else
      match walk s root g.chk va with
      | none => .error .xf
      | some (loc, e) =>
        if w && !pteW e then .error .xf
        else
          let s := s.pteMark loc (if w then 0xC else 0x4)
          .ok (s, ⟨ptePPN e + va % 0x10000, va, segChecked g⟩)

/-! ## Race detection (R122 to R125) -/

/-- Whether an on-chip address lies in the ring of a channel whose home register is set, in a resident bank of the home
core or in the saved bank of an evicted context, whose jobs run on (R125, R157). -/
def inRing (s : State) (va : Nat) : Bool :=
  let k : Fin 16 := ⟨va / 0x1000000 % 16, Nat.mod_lt _ (by decide)⟩
  let inC (c : Chan) : Bool := c.set && !c.view && c.base ≤ va && va < c.base + c.slot * c.count
  let inB (b : Bank) : Bool := b.chans.toList.any inC
  inB (s.bankAt k false) || inB (s.bankAt k true)
    || s.ls.slots.toList.any (fun o => o.any (fun l => (savedBank l k).any inB))

/-- TagAccess (R124) on one sector by agent B in phase P; none is MMX. -/
def tagAccess (t : Tag) (p : BitVec 8) (ag : BitVec 4) (w : Bool) : Option Tag :=
  let fresh : Tag := ⟨p, ag, if w then .written else .readOne⟩
  if t.mode = .absent || p != t.ph then some fresh
  else if t.mode = .readSeveral then (if w then none else some t)
  else if t.ag = ag then some (if w then { t with mode := .written } else t)
  else if t.mode = .written || w then none
  else some { t with mode := .readSeveral }

/-- An absent tag. -/
def Tag.none : Tag := ⟨0, 0, .absent⟩

def State.tagAt (s : State) (key : Nat) : Tag := (amapGet s.tags (key / 32)).getD .none

def State.setTag (s : State) (key : Nat) (t : Tag) : State :=
  { s with tags := amapSet s.tags (key / 32) (if t.mode = .absent then Option.none else some t) }

/-- The tag check of one access inside one sector: the new state, or none for MMX (R124, R125). -/
def State.checkTag (s : State) (t : Target) (p : BitVec 8) (ag : Fin 16) (w : Bool) : Option State :=
  if !t.checked || (isOnKey t.key && inRing s t.va) then some s
  else (tagAccess (s.tagAt t.key) p (BitVec.ofNat 4 ag.val) w).map (s.setTag t.key)

/-- The phase of a bank's launch (R123). -/
def State.phaseOf (s : State) (b : Bank) : BitVec 8 :=
  match s.launchOf b with
  | some l => l.phase
  | none => 0

/-! ## Footprints (R116, R121) -/

/-- Two regions overlap (R116). -/
def regionMeets (a b : Region) : Bool := a.space = b.space && a.lo < b.hi && b.lo < a.hi

def regionsMeet (l m : List Region) : Bool := l.any (fun a => m.any (regionMeets a))

def memRegion (va n : Nat) : Region := ⟨.mem, va, va + n⟩

/-- The footprint check of R121: an access by the core against the jobs of its context in the footprint table. -/
def mmxClash (b : Bank) (va n : Nat) (w : Bool) : Bool :=
  b.jobs.any (fun j => j.inTable &&
    (j.writes.any (regionMeets (memRegion va n)) || (w && j.reads.any (regionMeets (memRegion va n)))))

/-! ## Control-core accesses (R103, R104) -/

/-- R104: an on-chip address inside a tier-0 segment with the right, naturally aligned. -/
def onChipTarget (s : State) (b : Bank) (a : Word) (z : Nat) (r w : Bool) : Except Stop Target :=
  match findSeg (s.segsOf b) a.toNat with
  | none => ctlFault .segv a
  | some (_, g) =>
    if g.tier != 0 || g.vbase + g.len < a.toNat + z || (r && !g.r) || (w && !g.w) then ctlFault .segv a
    else if a.toNat % z != 0 then ctlFault .align a
    else .ok ⟨onKey a.toNat, a.toNat, true⟩

/-- An XF leaves the handle with PD = 1, and its walk runs again when the context resumes (R103). -/
def State.missPage (s : State) (n : Fin 16) : State :=
  let b := s.bk
  s.setBk { b with handles := b.handles.set n.val { b.handles.get n with pd := true, missing := true } n.isLt }

/-- R103 through a handle with a byte offset: HIV, SEGV, ALIGN, the wait for the walk, XF, in that order. -/
def handleTarget (s : State) (b : Bank) (hr : Reg) (off : Int) (z : Nat) (r w : Bool) : Except Stop Target :=
  let h := getHandle b hr
  let a : Int := h.va.toNat + off
  let aw : Word := BitVec.ofInt 64 a
  if !h.v then ctlFault .hiv 0
  else if a < h.lo || (h.hi : Int) < a + z || (r && !h.r) || (w && !h.w) then ctlFault .segv aw
  else if a % z != 0 then ctlFault .align aw
  else if h.pd && !h.missing then .error (.wait (.handle (ix16 hr).val))
  else if h.missing then ctlFault .xf aw
  else
    let g := (s.segsOf b)[h.seg]?
    let key := h.phys + (a.toNat - h.lo)
    match g with
    | some g =>
      if g.pg && w then
        match walk s (s.rootOf b) g.chk a.toNat with
        | some (_, e) =>
          if pteW e then .ok ⟨key, a.toNat, h.ck⟩ else .error (.fltAt (s.missPage (ix16 hr)) ⟨.xf, aw, 0, 0⟩)
        | none => .error (.fltAt (s.missPage (ix16 hr)) ⟨.xf, aw, 0, 0⟩)
      else .ok ⟨key, a.toNat, h.ck⟩
    | none => .ok ⟨key, a.toNat, h.ck⟩

/-- Set D on the leaf of a page before its first write performs (R98, R184). -/
def State.setDirty (s : State) (b : Bank) (va : Nat) : State :=
  match findSeg (s.segsOf b) va with
  | some (_, g) =>
    if g.pg then
      match walk s (s.rootOf b) g.chk va with
      | some (loc, _) => s.pteMark loc 0x8
      | none => s
    else s
  | none => s

/-- The footprint check of a control-core access (R121): MMX when it clashes with a job in flight.
FLTA is the access's address (DESIGN CHOICE: R121 names none; log entry 39). -/
def footprintCheck (b : Bank) (t : Target) (z : Nat) (w : Bool) : Except Stop Unit :=
  if mmxClash b t.va z w then ctlFault .mmx (BitVec.ofNat 64 t.va) else .ok ()

/-- Whether a target lies in the core's own slice (R162). -/
def ownSlice (k : Fin 16) (t : Target) : Bool := isOnKey t.key && t.va / 0x1000000 = k.val

/-- The address of the sector a tag fault names (R124). -/
def sectorVA (va : Nat) : Word := BitVec.ofNat 64 (va / 32 * 32)

end Sys2Proof.Machine
end

