-- ==== Sys2Proof/Machine/Logs.lean ====
section
/-!
DEFINITION. The ring logs of the module (R471), the power log (R432), the array error logs (R472) and the black-box
recorder Owl (R473).
-/
namespace Sys2Proof.Machine

/-- CTXID of a launch slot (R136), or 0 without a launch there. -/
def ctxidOf (s : State) (slot : Option (Fin 16)) : Word :=
  match slot with
  | some i =>
    match s.launch i with
    | some l => BitVec.ofNat 64 (l.lseq.toNat * 16 + i.val)
    | none => 0
  | none => 0

/-- n bytes the spec gives no value (log entry 3). -/
def freeBytes (s : State) (n : Nat) : List Byte × State :=
  let m := (n + 7) / 8
  (((List.range m).flatMap (fun i => toBytes 8 (Config.freeValue (s.fresh + i)).toNat)).take n,
   { s with fresh := s.fresh + m })

/-- Owl's ring of 8,192 events: STAMP, source, CTXID, first doubleword (R473). -/
def owl (s : State) (src : Nat) (ctx dw0 : Word) : State :=
  { s with svc := { s.svc with
    owl := s.svc.owl.push 8192 (logEntry s.stampW (BitVec.ofNat 64 src) ctx dw0) } }

/-- A fatal event (R474): the last 1,024 events go to the boot region of WS1, as one of four rotating dumps, the newest
last. -/
def dumpOwl (s : State) : State :=
  let d := s.svc.owl.entries.drop (s.svc.owl.entries.length - 1024)
  let old := if s.svc.dumps.length < 4 then s.svc.dumps else s.svc.dumps.drop 1
  { s with svc := { s.svc with dumps := old ++ [d] } }

/-- A power log entry (R432, R471), which Owl receives too (R473). VAL is a 32-bit value. -/
def logPower (s : State) (evt isl val : Nat) (ctx : Word) : State :=
  let dw0 : Word := BitVec.ofNat 64 (evt % 256 + isl % 64 * 256) ||| ((BitVec.ofNat 32 val).setWidth 64 <<< 16)
  let s := { s with svc := { s.svc with power := s.svc.power.push 256 (logEntry dw0 ctx s.stampW 0) } }
  owl s 0x300 ctx dw0

/-- The same for an event whose VAL the spec does not give: a free value (log entry 3). -/
def logPowerOpen (s : State) (evt isl : Nat) (ctx : Word) : State :=
  logPower { s with fresh := s.fresh + 1 } evt isl (Config.freeValue s.fresh).toNat ctx

/-- An event that another file sends to Owl from the service core; what it names beside its tick and source is a free
value (log entry 22). -/
def owlOpen (s : State) : State := owl { s with fresh := s.fresh + 1 } 0xFFF 0 (Config.freeValue s.fresh)

/-- The first doubleword of a completion record (R132). -/
def Record.dw0 (r : Record) : Word :=
  BitVec.ofNat 64 (r.lseq.toNat + r.status.toNat * 2 ^ 32 + r.code.toNat * 2 ^ 40 + (if r.final then 2 ^ 48 else 0))

/-- A completion record joins those that wait for the ring, in event order (R455); Owl receives FAULT, HELD and ABORTED
records (R473). -/
def pushRecord (s : State) (r : Record) (ctx : Word) : State :=
  let i := ctx.toNat % 16
  let last := if ctx != 0 && (r.status = 6 || r.status = 7) then s.ls.lastStop.setIfInBounds i (some r) else s.ls.lastStop
  let s := { s with ls := { s.ls with records := s.ls.records ++ [r], lastStop := last } }
  if r.status = 6 || r.status = 7 || r.status = 8 then owl s 0xFFF ctx r.dw0 else s

/-- Charge a context with energy in nJ (R431). -/
def chargeEnergy (s : State) (ctx : Word) (n : Nat) : State :=
  if ctx = 0 then s
  else
    let i : Fin 16 := ⟨ctx.toNat % 16, Nat.mod_lt _ (by decide)⟩
    match s.launch i with
    | some l => if ctxidOf s (some i) = ctx then s.setLaunch i (some { l with energyNJ := l.energyNJ + n }) else s
    | none => s

/-- The first doubleword of an array error log entry (R472). -/
def arrayDw0 (addr arr kind syn : Nat) : Word :=
  BitVec.ofNat 64 (addr % 2 ^ 32 + arr % 16 * 2 ^ 32 + kind % 16 * 2 ^ 36 + syn % 256 * 2 ^ 40)

/-- An array error log entry of core k (R472); Owl receives it unless it is a corrected error (R473). -/
def logArray (s : State) (k : Fin 16) (addr arr kind syn : Nat) (ctx : Word) : State :=
  let dw0 := arrayDw0 addr arr kind syn
  let s := { s with svc := { s.svc with
    array := s.svc.array.set k.val ((s.svc.array.get k).push 256 (logEntry dw0 0 ctx s.stampW)) k.isLt } }
  if kind = 1 then s else owl s (0x400 + k.val) ctx dw0

/-- An array error log entry of the page-logic die of WSj (R472). -/
def logArrayPL (s : State) (j : Fin 16) (addr arr kind syn : Nat) (ctx : Word) : State :=
  let dw0 := arrayDw0 addr arr kind syn
  let s := { s with svc := { s.svc with
    arrayPL := s.svc.arrayPL.set j.val ((s.svc.arrayPL.get j).push 256 (logEntry dw0 0 ctx s.stampW)) j.isLt } }
  if kind = 1 then s else owl s (0x500 + j.val) ctx dw0

end Sys2Proof.Machine
end

