-- ==== Sys2Proof/Machine/Dram.lean ====
section
/-!
DEFINITION. Near DRAM (R265 to R269): the SEC-DED code, read parity with its retries and spare lanes, the cell and lane
logs, and the injection of their errors (R475).
-/
namespace Sys2Proof.Machine

/-! ## Error injection (R475) -/

/-- An injection slot takes effect: COUNT falls by one, and ARM clears when it reaches 0; Owl records it (R473). -/
def useInjection (s : State) (i : Fin 8) : State :=
  let x := s.svc.inj.get i
  let n := (bits x.dw0 4 8).toNat
  let dw0 := if n = 0 then x.dw0
    else (x.dw0 &&& ~~~0xFF0#64 &&& (if n = 1 then ~~~0x1000#64 else ~~~0#64)) ||| BitVec.ofNat 64 (16 * (n - 1))
  owl { s with svc := { s.svc with inj := s.svc.inj.set i.val { x with dw0 := dw0 } i.isLt } } 0xFFF 0 x.dw0

/-- The armed slots of a kind whose target matches, in ascending order. -/
def armedSlots (s : State) (kind : Nat) (hit : Inj → Bool) : List (Fin 8 × Inj) :=
  ((List.finRange 8).map (fun i => (i, s.svc.inj.get i))).filter (fun p =>
    bit p.2.dw0 12 && (bits p.2.dw0 0 4).toNat = kind && hit p.2)

/-! ## Places (R265) -/

/-- The channel and the near-DRAM stack of a tier-1 address, and its die. -/
def dramChannel (pa : Nat) : Nat := pa / 256 % 256
def dramStack (pa : Nat) : Fin 4 := ⟨pa / 0x4000 % 4, Nat.mod_lt _ (by decide)⟩
def dramDie (pa : Nat) : Nat := pa / 2 ^ 34 % 16

/-! ## The (137,128) code (R266) -/

/-- The set bits of an eight-bit value. -/
def weight8 (v : Nat) : Nat := ((List.range 8).filter (fun i => v.testBit i)).length

/-- h(j): the eight-bit values with at least two bits set, ascending. -/
def eccH : List Nat := (List.range 256).filter (fun v => 2 ≤ weight8 v)

/-- The syndrome column of codeword bit j. -/
def eccColumn (j : Nat) : Nat :=
  if j < 128 then 0x100 ||| eccH.getD j 0 else if j < 136 then 0x100 ||| 2 ^ (j - 128) else 0x100

/-- The syndrome of the codeword bits in error. -/
def eccSyndrome (l : List Nat) : Nat := l.foldl (fun x j => x ^^^ eccColumn j) 0

/-- What the die makes of a syndrome: no error, the bit it corrects, or uncorrectable. -/
inductive EccResult where
  | clean
  | corrected (bit : Nat)
  | uncorrectable
  deriving DecidableEq, Repr

def eccDecode (syn : Nat) : EccResult :=
  if syn = 0 then .clean
  else
    match (List.range 137).find? (fun j => eccColumn j = syn) with
    | some j => .corrected j
    | none => .uncorrectable

/-! ## Logs (R269) -/

/-- A cell log entry. -/
def logCell (s : State) (pa kind syn b : Nat) (ctx : Word) : State :=
  let i := dramStack pa
  let dw0 : Word := BitVec.ofNat 64 (pa % 2 ^ 48 + dramChannel pa * 2 ^ 48 + dramDie pa * 2 ^ 56 + kind * 2 ^ 60)
  let e := logEntry dw0 (BitVec.ofNat 64 (syn + b * 2 ^ 9)) ctx s.stampW
  let s := { s with svc := { s.svc with cell := s.svc.cell.set i.val ((s.svc.cell.get i).push 256 e) i.isLt } }
  if kind = 1 then s else owl s i.val ctx dw0

/-- A lane log entry; LANE, LV and SP as given. -/
def logLane (s : State) (pa evt retry : Nat) (beats : BitVec 8) (grps : BitVec 4) (lane : Option Nat) (sp : Nat)
    (ctx : Word) : State :=
  let i := dramStack pa
  let dw0 : Word := BitVec.ofNat 64 (pa % 2 ^ 48 + dramChannel pa * 2 ^ 48 + evt * 2 ^ 56 + retry * 2 ^ 60)
  let dw1 := beats.toNat + grps.toNat * 2 ^ 8 + lane.getD 0 * 2 ^ 12 + (if lane.isSome then 2 ^ 18 else 0) + sp * 2 ^ 19
  let e := logEntry dw0 (BitVec.ofNat 64 dw1) ctx s.stampW
  let s := { s with svc := { s.svc with lane := s.svc.lane.set i.val ((s.svc.lane.get i).push 256 e) i.isLt } }
  owl s (0x100 + i.val) ctx dw0

/-! ## Codewords (R266) -/

/-- A codeword at `pa` is read with some of its bits in error: a single error is corrected at its home, an
uncorrectable one poisons the sector. -/
def readCodeword (s : State) (pa : Nat) (errs : List Nat) (ctx : Word) : State :=
  let flip (s : State) (j : Nat) : State :=
    if j < 128 then { s with mem := memWrite s.mem (pa + j / 8) [s.byteAt (pa + j / 8) ^^^ BitVec.ofNat 8 (2 ^ (j % 8))] }
    else s
  let syn := eccSyndrome errs
  let s := errs.foldl flip s
  match eccDecode syn with
  | .clean => s
  | .corrected j => logCell (flip s j) pa 1 syn j ctx
  | .uncorrectable => (logCell s pa 2 syn 0xFF ctx).setPoison pa (some .due)

/-- Bits of a codeword at `pa` that a read returns inverted, unseen by the code. -/
def flipRead (pa : Nat) (l : List Nat) (s : State) : State :=
  { s with flips := (l.filter (fun j => j < 128)).foldl (fun m j =>
      let a := pa + j / 8
      let v := (amapGet m a).getD 0 ^^^ BitVec.ofNat 8 (2 ^ (j % 8))
      amapSet m a (if v = 0 then none else some v)) s.flips }

/-- A read of a codeword meets injected errors (R475): corrected, logged and poisoned as real ones are, but applied to what
the read returns, so that memory keeps its bits; what the code does not see, or corrects wrongly, the read returns. -/
def injectCodeword (s : State) (pa : Nat) (errs : List Nat) (ctx : Word) : State :=
  let syn := eccSyndrome errs
  match eccDecode syn with
  | .clean => flipRead pa errs s
  | .corrected j => flipRead pa (errs ++ [j]) (logCell s pa 1 syn j ctx)
  | .uncorrectable => (logCell s pa 2 syn 0xFF ctx).setPoison pa (some .due)

/-! ## Channels (R267) -/

/-- A channel with both spares free and nothing in progress. -/
def DramChan.init : DramChan :=
  { spares := [], degraded := false, retries := 0, burst := 0, beats := 0, grps := 0, isWrite := false, ctx := 0,
    active := false, testing := false, swapped := false }

def State.dramAt (s : State) (ch : Nat) : DramChan := (amapGet s.dram ch).getD .init

def State.setDram (s : State) (ch : Nat) (c : DramChan) : State :=
  { s with dram := amapSet s.dram ch (if c = .init then none else some c) }

/-- Beats and groups that failed parity, as bit sets. -/
def beatSet (l : List (Nat × Nat)) : BitVec 8 := l.foldl (fun v p => v ||| (1#8 <<< p.1)) 0
def groupSet (l : List (Nat × Nat)) : BitVec 4 := l.foldl (fun v p => v ||| (1#4 <<< p.2)) 0

/-- Both sectors of a burst are poisoned, and the channel is degraded (R267). -/
def poisonBurst (s : State) (pa : Nat) : State :=
  let s := (s.setPoison pa (some .due)).setPoison (pa + 32) (some .due)
  s.setDram (dramChannel pa) { s.dramAt (dramChannel pa) with degraded := true }

/-- What the lane test of a burst leads to: a swap, whose log entry names the lane and the spare, or poison (R267). -/
def afterTest (s : State) (pa : Nat) (beats : BitVec 8) (grps : BitVec 4) (lane : Option Nat) (ctx : Word) :
    State × Bool :=
  let c := s.dramAt (dramChannel pa)
  match lane with
  | some l =>
    if c.spares.length < 2 then
      let s := s.setDram (dramChannel pa) { c with spares := c.spares ++ [l] }
      (logLane s pa 2 3 beats grps (some l) c.spares.length ctx, true)
    else (logLane (poisonBurst s pa) pa 3 3 beats grps (some l) 0 ctx, false)
  | none => (logLane (poisonBurst s pa) pa 3 3 beats grps none 0 ctx, false)

/-! ## Injected errors (R475, KIND 1 to 3) -/

/-- Bit b of a lane slot's first doubleword: VAL, and the lane in BIT. -/
def Inj.lane (x : Inj) : Nat := (bits x.dw0 16 14).toNat % 64
def Inj.val (x : Inj) : Bool := bit x.dw0 13

/-- The armed stuck lanes of a burst's channel that no spare replaces. -/
def stuckSlots (s : State) (pa : Nat) : List (Fin 8 × Inj) :=
  (armedSlots s 3 (fun x => x.target.toNat % 256 = dramChannel pa)).filter (fun p =>
    !(s.dramAt (dramChannel pa)).spares.contains p.2.lane)

/-- The stuck lanes that differ from the data in beat b of a burst. -/
def wrongLanes (s : State) (pa b : Nat) : List Nat :=
  (((stuckSlots s pa).filter (fun p => (s.natAt (pa + 8 * b) 8).testBit p.2.lane != p.2.val)).map
    (fun p => p.2.lane)).eraseDups

/-- Even parity (R265): a group fails in a beat when an odd number of its lanes carry a wrong bit. -/
def parityFails (l : List Nat) (g : Nat) : Bool := (l.filter (fun x => x / 16 = g)).length % 2 = 1

/-- The beats and groups of a burst whose parity stuck lanes make fail. -/
def stuckBeats (s : State) (pa : Nat) : List (Nat × Nat) :=
  (List.range 8).flatMap (fun b =>
    ((List.range 4).filter (parityFails (wrongLanes s pa b))).map (fun g => (b, g)))

/-- One read of a burst meets the armed slots on its parity: the state with their occurrences used, and the beats and
groups that fail. A KIND 2 slot fails its beat and group whatever the lanes do (log entry 21). -/
def readAttempt (s : State) (pa : Nat) : State × List (Nat × Nat) :=
  let two := armedSlots s 2 (fun x => x.target.toNat / 64 * 64 = pa)
  let fails := two.map (fun p => ((bits p.2.loc 0 3).toNat, (bits p.2.loc 3 2).toNat)) ++ stuckBeats s pa
  ((two ++ stuckSlots s pa).foldl (fun s p => useInjection s p.1) s, fails)

/-- A byte of tier 1 as a read returns it: wrong bits of an even number of stuck lanes of a group pass parity unseen
(R265, R475). -/
def lineByte (s : State) (pa : Nat) (v : Byte) : Byte :=
  let l := wrongLanes s (pa / 64 * 64) (pa % 64 / 8)
  (List.range 8).foldl (fun v i =>
    let lane := pa % 8 * 8 + i
    if l.contains lane && !parityFails l (lane / 16) then v ^^^ (1#8 <<< i) else v) v

/-- The bytes a read returns once its error sequences are over: those of memory, but for stuck lanes that parity does not
see and injected errors that the code does not. -/
def State.readBytes (s : State) (k n : Nat) : List Byte :=
  if (armedSlots s 3 (fun _ => true)).isEmpty && s.flips.isEmpty || !tier1Ok k n then s.bytesAt k n
  else (s.bytesAt k n).zipIdx.map (fun p => lineByte s (k + p.2) (p.1 ^^^ (amapGet s.flips (k + p.2)).getD 0))

/-- Their little-endian value. -/
def State.readNat (s : State) (k n : Nat) : Nat := ofBytes (s.readBytes k n)

/-- The lane the walking patterns find: the one stuck lane of the failing groups, if there is just one. -/
def stuckLane (s : State) (pa : Nat) (grps : BitVec 4) : Option Nat :=
  let l := (armedSlots s 3 (fun x => x.target.toNat % 256 = dramChannel pa)).map (fun p => p.2.lane)
  match (l.filter (fun x => bit grps (x / 16) && !(s.dramAt (dramChannel pa)).spares.contains x)).eraseDups with
  | [x] => some x
  | _ => none

/-- Up to n retries of a burst: the retries made, and whether one was clean. -/
def retryBurst (pa : Nat) : Nat → Nat → State → State × Nat × Bool
  | 0, k, s => (s, k, false)
  | n + 1, k, s =>
    let (s, f) := readAttempt s pa
    if f.isEmpty then (s, k + 1, true) else retryBurst pa n (k + 1) s

/-- A read of a burst with whatever its parity meets (R267): at most two swaps, so three such sequences. -/
def parityRead (pa : Nat) (ctx : Word) : Nat → State → State
  | 0, s => s
  | n + 1, s =>
    let (s, f) := readAttempt s pa
    if f.isEmpty then s
    else
      let bs := beatSet f
      let gs := groupSet f
      let (s, k, ok) := retryBurst pa 3 0 s
      if ok then logLane s pa 1 k bs gs none 0 ctx
      else if (s.dramAt (dramChannel pa)).degraded then logLane (poisonBurst s pa) pa 3 3 bs gs none 0 ctx
      else
        let (s, swapped) := afterTest s pa bs gs (stuckLane s pa gs) ctx
        if swapped then parityRead pa ctx n s else s

/-- The bursts that n bytes at an address touch. -/
def burstsOf (pa n : Nat) : List Nat :=
  if n = 0 then [] else (List.range ((pa + n - 1) / 64 - pa / 64 + 1)).map (fun i => pa / 64 * 64 + 64 * i)

/-- A read of one burst meets the armed slots on it: parity first, then its four codewords. -/
def probeBurst (ctx : Word) (s : State) (pa : Nat) : State :=
  let s := parityRead pa ctx 3 s
  (List.range 4).foldl (fun s i =>
    let cw := pa + 16 * i
    let l := armedSlots s 1 (fun x => x.target.toNat / 16 * 16 = cw)
    if l.isEmpty then s
    else injectCodeword (l.foldl (fun s p => useInjection s p.1) s) cw
      (l.map (fun p => (bits p.2.dw0 16 14).toNat % 137)) ctx) s

/-- A read of n bytes of tier 1 meets the armed slots; what an earlier read of them returned inverted is past. -/
def probeDram (s : State) (pa n : Nat) (ctx : Word) : State :=
  if !tier1Ok pa n || ((armedSlots s 1 (fun _ => true) ++ armedSlots s 2 (fun _ => true)
      ++ armedSlots s 3 (fun _ => true)).isEmpty && s.flips.isEmpty) then s
  else (burstsOf pa n).foldl (probeBurst ctx) { s with flips := amapClear s.flips (pa / 64 * 64) ((pa + n + 63) / 64 * 64) }

/-! ## The steps of the interface (R265 to R268) -/

/-- Pairs of a beat and a parity group. -/
def beatPairs (l : List (Fin 8 × Fin 4)) : List (Nat × Nat) := l.map (fun p => (p.1.val, p.2.val))

/-- R265 to R267: channel PA[15:8] reads a burst; `errs` lists the cells in error, bit j of codeword c as 137 c + j, and
`par` the beats and groups whose parity fails. A failing burst starts a sequence of retries, during which other accesses
to the channel wait. -/
def execTier1BurstRead (pa : Nat) (errs : List Nat) (par : List (Fin 8 × Fin 4)) (ctx : Word) (s : State) : Out :=
  .next (
    let a := pa / 64 * 64
    let ch := dramChannel a
    let c := s.dramAt ch
    if c.active || !tier1Ok a 64 then s
    else
      let s := (List.range 4).foldl (fun s i =>
        let l := (errs.filter (fun e => e / 137 = i)).map (fun e => e % 137)
        if l.isEmpty then s else readCodeword s (a + 16 * i) l ctx) s
      let p := beatPairs par
      if p.isEmpty then s
      else s.setDram ch { c with
        retries := 0, burst := a, beats := beatSet p, grps := groupSet p, isWrite := false, ctx := ctx, active := true
        testing := false, swapped := false })

/-- R267: the burst is read, or written, again. -/
def execParityRetry (ch : Fin 256) (par : List (Fin 8 × Fin 4)) (s : State) : Out :=
  .next (
    let c := s.dramAt ch.val
    let p := beatPairs par
    let idle : DramChan := { c with active := false, testing := false, swapped := false, retries := 0 }
    if !c.active || c.testing then s
    else if c.swapped then
      if p.isEmpty then s.setDram ch.val idle
      else s.setDram ch.val { c with swapped := false, retries := 0, beats := beatSet p, grps := groupSet p }
    else if p.isEmpty then
      logLane (s.setDram ch.val idle) c.burst (if c.isWrite then 4 else 1) (c.retries + 1) c.beats c.grps none 0 c.ctx
    else if c.retries + 1 < 3 then s.setDram ch.val { c with retries := c.retries + 1 }
    else if c.degraded then
      logLane (poisonBurst (s.setDram ch.val idle) c.burst) c.burst 3 3 c.beats c.grps none 0 c.ctx
    else s.setDram ch.val { c with retries := 3, testing := true })

/-- R267: the walking patterns have run; `lane` is the single failed lane they find. -/
def execLaneTest (ch : Fin 256) (lane : Option (Fin 64)) (s : State) : Out :=
  .next (
    let c := s.dramAt ch.val
    if !c.active || !c.testing then s
    else
      let s := s.setDram ch.val { c with testing := false, active := false, retries := 0 }
      let (s, swapped) := afterTest s c.burst c.beats c.grps (lane.map Fin.val) c.ctx
      if swapped then s.setDram ch.val { s.dramAt ch.val with active := true, swapped := true } else s)

/-- R268: a die has found a write parity error and discarded the burst; the interface retries. -/
def execWriteParityError (pa : Nat) (par : List (Fin 8 × Fin 4)) (ctx : Word) (s : State) : Out :=
  .next (
    let a := pa / 64 * 64
    let ch := dramChannel a
    let c := s.dramAt ch
    let p := beatPairs par
    if c.active || p.isEmpty || !tier1Ok a 64 then s
    else s.setDram ch { c with
      retries := 0, burst := a, beats := beatSet p, grps := groupSet p, isWrite := true, ctx := ctx, active := true
      testing := false, swapped := false })

end Sys2Proof.Machine
end

