-- ==== Sys2Proof/Machine/Sram.lean ====
section
/-!
DEFINITION. SRAM errors and their injection (R440, R472, R475), and the accesses of engines to memory, sector by
sector.
-/
namespace Sys2Proof.Machine

/-! ## Uncorrectable SRAM errors (R109, R440) -/

/-- The number of the island of core k's cluster, and of stack j's page-logic die (R29). -/
def clIsland (k : Fin 16) : Fin 40 := ⟨16 + k.val / 4, by omega⟩
def plIsland (j : Fin 16) : Fin 40 := ⟨20 + j.val, by omega⟩

/-- Whether the clocks of core k's cluster island stand still (R440). -/
def clStalled (s : State) (k : Fin 16) : Bool := bit s.pow.stalled (clIsland k).val

/-! ## Slices that do not answer (R440, R446) -/

/-- Whether the SRAM of core k does not answer: it is parked, or its clocks stand still. -/
def shutCore (s : State) (k : Fin 16) : Bool := (s.core k).parked || clStalled s k

/-- The core whose slice a key lies in. -/
def sliceCore (key : Nat) : Fin 16 := ⟨(key - 0x1000000000000) / 0x1000000 % 16, Nat.mod_lt _ (by decide)⟩

/-- Begin the exit of a parked core, which takes 36,000 ticks, once its entry is over (R445). -/
def beginExit (s : State) (k : Fin 16) : State :=
  let c := s.core k
  if c.parked && c.exitAt.isNone then s.setCore k { c with exitAt := some (Nat.max s.stamp c.parkAt + 36000) } else s

/-- The cores that do not answer among those whose slices some keys lie in. -/
def shutAt (s : State) (keys : List Nat) : List (Fin 16) :=
  (List.finRange 16).filter (fun k => shutCore s k && keys.any (fun a => isOnKey a && sliceCore a = k))

/-- An access of the control core waits for a slice that does not answer, and starts the exit of a parked one; it never
faults (R446). -/
def sliceReady (s : State) (key : Nat) : Except Stop Unit :=
  match shutAt s [key] with
  | [] => .ok ()
  | k :: _ => .error (.waitAt (beginExit s k) (.slice k.val))

/-- The cores that do not answer among those whose slices some regions touch. -/
def shutIn (s : State) (rs : List Region) : List (Fin 16) :=
  (List.finRange 16).filter (fun k => shutCore s k && rs.any (regionMeets (memRegion (k.val * 0x1000000) 0x1000000)))

/-- A step of an engine on some regions: it waits while a slice they touch does not answer, and starts the exit of a
parked one (R446). -/
def whenOpen (s : State) (rs : List Region) (f : State → State) : State :=
  match shutIn s rs with
  | [] => f s
  | ks => ks.foldl beginExit s

/-- The voltage of an island: its retention voltage while every core of a cluster is parked and none is leaving (R445). -/
def islandVolt (s : State) (isl : Nat) : Nat :=
  if 16 ≤ isl && isl < 20 && (List.finRange 16).all (fun k => k.val / 4 != isl - 16 ||
      ((s.core k).parked && (s.core k).exitAt.isNone && (s.core k).parkAt ≤ s.stamp)) then Config.vretain isl
  else s.pow.volt.getD isl 0

/-- The margin guard's steps 1, 3 and 4 (R440): Vsafe, the stall (its length is a free value of at most 1,200 ticks,
log entry 18), the power log; and on a cluster island the suspension and the margin step. -/
def marginGuard (s : State) (isl : Fin 40) (ctx : Word) : State :=
  let (v, s) := s.draw
  let d := v.toNat % 1201
  let p := s.pow
  let p := { p with
    volt := p.volt.set isl.val (Config.vsafe isl.val) isl.isLt
    stalled := p.stalled ||| (1#40 <<< isl.val)
    stallUntil := p.stallUntil.set isl.val (s.stamp + d) isl.isLt }
  let p :=
    if isl.val < 20 then
      { p with
        suspendUntil := p.suspendUntil.setIfInBounds (isl.val - 16) (s.stamp + 36000000000)
        marginM := p.marginM.setIfInBounds (isl.val - 16) (Nat.min 7 (p.marginM.getD (isl.val - 16) 0 + 1)) }
    else p
  logPower { s with pow := p } 3 isl.val d ctx

/-- An uncorrectable error in an SRAM of an island: a margin event below Vsafe, else a plain error. The answer is the
poison's mark and the KIND of the log entry (R440, R472). -/
def sramError (s : State) (isl : Fin 40) (ctx : Word) : State × Mark × Nat :=
  if islandVolt s isl.val < Config.vsafe isl.val then
    (marginGuard s isl ctx, .margin (BitVec.ofNat 6 isl.val), 3)
  else (s, .due, 2)

/-- The byte offset an SRAM slot targets. -/
def Inj.addr (x : Inj) : Nat := (bits x.target 8 32).toNat

/-- Whether an SRAM slot targets a (72,64) word of array `arr` of unit `u` that is read (R475): `rd` tells of a word, by its
number in the array, whether it is. -/
def sramHit (u arr : Nat) (rd : Nat → Bool) (x : Inj) : Bool :=
  (bits x.target 0 4).toNat = u && (bits x.target 4 4).toNat = arr && rd (x.addr / 8)

/-- The (72,64) words that n bytes at an offset of an array touch. -/
def wordsIn (off n w : Nat) : Bool := off / 8 ≤ w && w < (off + n + 7) / 8

/-- A corrected SRAM error of core k's cluster counts in the window of R439. -/
def countCorrected (s : State) (k : Fin 16) : State :=
  let n := k.val / 4
  { s with pow := { s.pow with corrErrs := s.pow.corrErrs.setIfInBounds n (s.pow.corrErrs.getD n 0 + 1) } }

/-- The bits of a (72,64) word that slots read inverted: one each for KIND 5, two adjacent ones for KIND 6, and a bit
inverted twice reads right. -/
def flippedBits (l : List (Fin 8 × Inj)) : List Nat :=
  let all := l.flatMap (fun p =>
    let b := (bits p.2.dw0 16 14).toNat
    if (bits p.2.dw0 0 4).toNat = 5 then [b] else [b, b + 1])
  all.eraseDups.filter (fun b => all.count b % 2 = 1)

/-- A read of some words of array `arr` of unit `u` meets the armed slots on them, word by word: `one` is what a
corrected error leads to and `two` an uncorrectable one, at the byte offset of the word's first slot (R475). -/
def probeWords (s : State) (u arr : Nat) (rd : Nat → Bool) (one two : State → Nat → State) : State :=
  let slots := armedSlots s 5 (sramHit u arr rd) ++ armedSlots s 6 (sramHit u arr rd)
  (slots.map (fun p => p.2.addr / 8)).eraseDups.foldl (fun s w =>
    let l := slots.filter (fun p => p.2.addr / 8 = w)
    let a := (l.map (fun p => p.2.addr)).headD 0
    let s := l.foldl (fun s p => useInjection s p.1) s
    match (flippedBits l).length with
    | 0 => s
    | 1 => one s a
    | _ => two s a) s

/-- A read of some words of an array of core k: one-bit errors are corrected and logged; others are uncorrectable, and
`mark` poisons what they hit (R475, R472). The syndrome is a free value (log entry 18). -/
def probeArray (s : State) (k : Fin 16) (arr : Nat) (rd : Nat → Bool) (ctx : Word) (mark : State → Nat → Mark → State) :
    State :=
  probeWords s k.val arr rd
    (fun s a =>
      let (v, s) := s.draw
      logArray (countCorrected s k) k a arr 1 (v.toNat % 256) ctx)
    (fun s a =>
      let (v, s) := s.draw
      let (s, m, kind) := sramError s (clIsland k) ctx
      mark (logArray s k a arr kind (v.toNat % 256) ctx) a m)

/-- The same for an array of stack j's page-logic die. -/
def probePL (s : State) (j : Fin 16) (arr off n : Nat) (ctx : Word) (mark : State → Nat → Mark → State) : State :=
  probeWords s j.val arr (wordsIn off n)
    (fun s a =>
      let (v, s) := s.draw
      logArrayPL s j a arr 1 (v.toNat % 256) ctx)
    (fun s a =>
      let (v, s) := s.draw
      let (s, m, kind) := sramError s (plIsland j) ctx
      mark (logArrayPL s j a arr kind (v.toNat % 256) ctx) a m)

/-- Poison the 32-byte sector at byte offset o of the vector register file (R109). -/
def markVreg (b : Bank) (o : Nat) (m : Mark) : Bank :=
  let r := o / 4096 % 64
  let l := (amapGet b.vec.vmark r).getD []
  { b with vec := { b.vec with vmark := amapSet b.vec.vmark r (some (amapSet l (o % 4096 / 32) (some m))) } }

/-- A read of n bytes at a key: in a scratchpad slice or in tier 1 it meets the armed slots on it. -/
def State.probe (s : State) (key n : Nat) (ctx : Word) : State :=
  if !isOnKey key then (if portFailedAt s key then notePort s else probeDram s key n ctx)
  else
    let a := key - 0x1000000000000
    let k : Fin 16 := ⟨a / 0x1000000 % 16, Nat.mod_lt _ (by decide)⟩
    probeArray s k 0 (wordsIn (a % 0x1000000) n) ctx (fun s o m => s.setPoison (onKey (k.val * 0x1000000 + o)) (some m))

/-! ## Engine accesses, sector by sector -/

/-- The parts of [va, va + n) inside single 32-byte sectors, in ascending order, with fuel n. -/
def sectorParts : Nat → Nat → Nat → List (Nat × Nat)
  | 0, _, _ => []
  | f + 1, va, n =>
    if n = 0 then []
    else
      let m := Nat.min n (32 - va % 32)
      (va, m) :: sectorParts f (va + m) (n - m)

/-- The parts of a byte range. -/
def parts (va n : Nat) : List (Nat × Nat) := sectorParts (n / 32 + 2) va n

/-- Whose access it is: the context's segments, page-table root, phase and agent (the core), whether it takes
tags (R125), and its CTXID. -/
structure Who where
  segs : List Seg
  root : Nat
  phase : BitVec 8
  agent : Fin 16
  tags : Bool
  ctx : Word
  deriving DecidableEq, Repr

/-- The engine accesses of a context on core k. -/
def State.whoOf (s : State) (slot : Option (Fin 16)) (k : Fin 16) (tags : Bool) : Who :=
  match slot.bind s.launch with
  | some l => ⟨l.segs, l.root, l.phase, k, tags, ctxidOf s slot⟩
  | none => ⟨[], 0, 0, k, tags, 0⟩

/-- An engine access to one part of a sector: translation, then the tag check at its home. -/
def engineTarget (s : State) (w : Who) (va n : Nat) (rd wr : Bool) :
    Except (FaultCode × Nat) (State × Target) :=
  match translate s w.segs w.root va n rd wr with
  | .error c => .error (c, va)
  | .ok (s, t) =>
    let s := if rd then s.probe t.key n w.ctx else s
    if w.tags then
      match s.checkTag t w.phase w.agent wr with
      | some s => .ok (s, t)
      | none => .error (.mmx, va / 32 * 32)
    else .ok (s, t)

/-- What an engine read returns: the bytes and, per part, its poison. -/
structure ReadRes where
  bytes : List Byte
  marks : List (Option Mark)
  deriving DecidableEq, Repr

/-- Read the parts of a range in ascending order, stopping at the first fault. -/
def readParts (w : Who) : List (Nat × Nat) → State → Except (FaultCode × Nat) (State × ReadRes)
  | [], s => .ok (s, ⟨[], []⟩)
  | (va, n) :: r, s =>
    match engineTarget s w va n true false with
    | .error e => .error e
    | .ok (s, t) =>
      match readParts w r s with
      | .error e => .error e
      | .ok (s', q) => .ok (s', ⟨s.readBytes t.key n ++ q.bytes, s.poisonAt t.key :: q.marks⟩)

/-- An engine read of n bytes at va. -/
def engineRead (s : State) (w : Who) (va n : Nat) : Except (FaultCode × Nat) (State × ReadRes) :=
  readParts w (parts va n) s

/-- The first poison among the parts read. -/
def ReadRes.poison (r : ReadRes) : Option Mark := r.marks.findSome? id

/-- Write the parts of a range in ascending order; on a fault, the parts before it are written (R119): the state
so far, and the fault. -/
def writeParts (w : Who) : List (Nat × Nat) → List Byte → List (Option Mark) → State →
    State × Option (FaultCode × Nat)
  | [], _, _, s => (s, none)
  | (va, n) :: r, bs, ms, s =>
    match engineTarget s w va n false true with
    | .error e => (s, some e)
    | .ok (s, t) =>
      let s := s.store t.key (bs.take n)
      let s := match ms.headD none with
        | some m => s.setPoison t.key (some m)
        | none => s
      writeParts w r (bs.drop n) (ms.drop 1) s

/-- An engine write of a byte string at va, with a poison mark per part. -/
def engineWrite (s : State) (w : Who) (va : Nat) (bs : List Byte) (ms : List (Option Mark)) :
    State × Option (FaultCode × Nat) :=
  writeParts w (parts va bs.length) bs ms s

end Sys2Proof.Machine
end

