-- ==== Sys2Proof/Machine/Ops.lean ====
section
/-!
DEFINITION. The shared operations of the control core: taking a fault and returning from one (R151, R161, R208),
retirement with the loop end tests and `rep` (R171 to R174), stalling (R162), and the enqueue of engine instructions
and jobs (R9 to R17, R44, R178, R182).
-/
namespace Sys2Proof.Machine

/-! ## Ending a context -/

/-- A launch's record of an event (R132), with the energy and stamp of now. -/
def mkRecord (s : State) (l : Launch) (status code : Byte) (final : Bool) (core : Nat) (flti flta : Word) : Record :=
  ⟨l.lseq, status, code, final, flti.setWidth 56, BitVec.ofNat 4 core, flta, BitVec.ofNat 64 (l.energyNJ / 1000),
    s.stampW⟩

/-- Ask for a launch to end with a record: it stops as for eviction and ends once its work has drained (R153). The
first request stands. -/
def State.endLaunch (s : State) (slot : Option (Fin 16)) (r : Launch → Record) : State :=
  match slot with
  | none => s
  | some i =>
    match s.launch i with
    | none => s
    | some l => if l.finishing.isSome then s else s.setLaunch i (some { l with finishing := some (r l) })

/-! ## Taking a fault -/

/-- FLTC (R151). -/
def packFLTC (code : FaultCode) (src : BitVec 3) (isl : BitVec 6) (pend : Bool) : Word :=
  (code.byte.setWidth 64) ||| ((src.setWidth 64) <<< 8) ||| ((isl.setWidth 64) <<< 16)
    ||| (if pend then 0x400000#64 else 0)

/-- A handle on whose absent page an XF is taken, FLTA in its window, has PD = 1 (R103). -/
def awaitPage (e : Exc) (h : Handle) : Handle :=
  if h.v && h.missing && h.lo ≤ e.flta.toNat && e.flta.toNat < h.hi then { h with pd := true } else h

/-- The walk of a handle that an XF has left with PD = 1 runs again (R103). -/
def rewalk (h : Handle) : Handle := if h.pd && h.missing then { h with missing := false } else h

/-- The bank after a fault of class P, V or C in user mode (R151, R161): FLTC, FLTA and FLTI are set, and the core
enters supervisor mode at the resident supervisor's entry point; nothing else changes, save that the stall in which
the fault arose is over, and that an XF leaves its handle with PD = 1 (R103). -/
def enterSupervisor (b : Bank) (e : Exc) : Bank :=
  { b with
    fltc := packFLTC e.code e.src e.isl b.pend
    flta := e.flta
    flti := b.pc
    pend := false
    mode := .supervisor
    pc := Config.supervisorEntry
    handles := if e.code = .xf then b.handles.map (awaitPage e) else b.handles
    stall := none }

/-- A fault on core `s.cur` (R151). A fault raised in supervisor mode does not nest: the service core ends the
context with a FAULT record (R161). -/
def takeFault (s : State) (e : Exc) : State :=
  let b := s.bk
  match b.mode with
  | .user => s.setBk (enterSupervisor b e)
  | .supervisor =>
    let s' := s.endLaunch b.slot (fun l => mkRecord s l 0x06 e.code.byte true s.cur.val b.pc e.flta)
    s'.setBk { b with stall := some .pageAnswer }

/-- Return from the supervisor (R208): user mode, PC := FLTI; the walks that an XF has left pending run again (R103). -/
def returnFromFault (b : Bank) : Bank := { b with mode := .user, pc := b.flti, handles := b.handles.map rewalk }

/-! ## Retirement (R171 to R174) -/

/-- The low 56 bits of an address (START and END, R160). -/
def lo56 (a : Word) : Word := a &&& 0x00FFFFFFFFFFFFFF#64

def getLoop (b : Bank) (l : Fin 4) : LoopLevel := b.loops.get l
def putLoop (b : Bank) (l : Fin 4) (v : LoopLevel) : Bank := { b with loops := b.loops.set l.val v l.isLt }

/-- LoopEnd(L) (R171): the bank after the test, and whether the level loops back. -/
def loopEnd (b : Bank) (l : Fin 4) : Bank × Bool :=
  let v := getLoop b l
  let lc := if v.lc = 0 then 0 else v.lc - 1
  let v := { v with lc := lc, idx := v.idx + 1 }
  let n := b.rotn.toNat
  let rrb := if v.pipe && n != 0 then BitVec.ofNat 64 ((b.rrb.toNat + n - 1) % n) else b.rrb
  let sp := if v.pipe then ((b.sp <<< 1) ||| (if lc != 0 then 1 else 0)) &&& b.spm else b.sp
  let b := { b with rrb := rrb, sp := sp }
  if lc != 0 || (v.pipe && sp != 0) then ({ putLoop b l v with pc := v.start }, true)
  else (putLoop b l { v with act := false }, false)

/-- The end tests of the levels that end at `next`, in the given (descending) order; the first that loops back sets
the PC and ends the tests (R172). -/
def endTests (next : Word) : List (Fin 4) → Bank → Bank
  | [], b => b
  | l :: r, b =>
    let v := getLoop b l
    if v.act && v.stop = lo56 next then
      let (b', back) := loopEnd b l
      if back then b' else endTests next r b'
    else endTests next r b

/-- Control falls through past an instruction to `next` (R171): in user mode the end tests run. -/
def fallThrough (b : Bank) (next : Word) : Bank :=
  match b.mode with
  | .supervisor => { b with pc := next }
  | .user => endTests next [3, 2, 1, 0] { b with pc := next }

/-- The bank after an instruction of `words` words retires, under `rep` or not (R174). -/
def retireBank (b : Bank) (words : Nat) : Bank :=
  let next := b.pc + BitVec.ofNat 64 (4 * words)
  match b.mode with
  | .supervisor => { b with pc := next }
  | .user =>
    if b.repc = 0 then fallThrough b next
    else if b.repc = 1 then fallThrough { b with repc := 0 } next
    else { b with repc := b.repc - 1 }

/-- Retire the instruction of core `s.cur`. -/
def retire (s : State) (words : Nat) : State := s.setBk (retireBank s.bk words)

/-- Write a scalar register and retire a control instruction. -/
def writeReg (s : State) (rd : Reg) (v : Word) : State := s.setBk (retireBank (putReg s.bk rd v) 1)

/-- Take a jump: the PC is set and no end test runs (R171). -/
def jumpTo (s : State) (target : Word) : State := s.setBk { s.bk with pc := target }

/-! ## Stalls -/

/-- The control core stalls at the instruction: the PC stays (R162). -/
def stallOn (s : State) (w : Stall) : State := s.setBk { s.bk with stall := some w }

/-- The outcome of a control instruction that computes a new state, faults, or waits. A fault is taken once every
earlier load has returned (R163). -/
def finish (s : State) (r : Except Stop State) : Out :=
  match r with
  | .ok s' => .next s'
  | .error (.wait w) => .next (stallOn s w)
  | .error (.waitAt s' w) => .next (stallOn s' w)
  | .error (.flt e) => if s.bk.loads.isEmpty then .next (takeFault s e) else .next (stallOn s .loads)
  | .error (.fltAt s' e) => if s.bk.loads.isEmpty then .next (takeFault s' e) else .next (stallOn s .loads)

/-- The repeated instruction may not be one of those of R175. -/
def notRepeated (s : State) : Except Stop Unit :=
  if s.bk.mode = .user && s.bk.repc != 0 then ctlFault .ill 0 else .ok ()

/-- A privileged instruction in user mode raises PRIV (R48). -/
def privileged (s : State) : Except Stop Unit :=
  if s.bk.mode = .user then ctlFault .priv 0 else .ok ()

/-! ## Tokens (R16) -/

/-- A job token. -/
def mkToken (done : Bool) (code : Byte) (psn : Bool) (prog : BitVec 32) (seq : BitVec 16) : Word :=
  (if done then 0x8000000000000000#64 else 0) ||| (if code != 0 then 0x4000000000000000#64 else 0)
    ||| (if psn then 0x2000000000000000#64 else 0) ||| ((code.setWidth 64) <<< 48)
    ||| ((prog.setWidth 64) <<< 16) ||| (seq.setWidth 64)

def tokenDone (t : Word) : Bool := bit t 63
def tokenSeq (t : Word) : BitVec 16 := bits t 0 16

/-! ## Enqueue (R9 to R15, R44, R49, R182) -/

/-- The first word's head fields of an engine instruction. -/
def headOf : Instr → Option Head
  | .vadd h _ | .vsub h _ | .vmul h _ | .vfma h _ | .vfms h _ | .vfnma h _ | .vdiv h _ | .vsqrt h _ | .vmin h _
  | .vmax h _ | .vabs h _ | .vneg h _ | .vcmp h _ | .vclass h _ | .vexp2 h _ | .vlog2 h _ | .viadd h _
  | .visub h _ | .vimul h _ | .vimad h _ | .viand h _ | .vior h _ | .vixor h _ | .vishl h _ | .vishr h _
  | .visar h _ | .vimin h _ | .vimax h _ | .vicmp h _ | .vcvt h _ | .vtfenc h _ | .vtfdec h _ | .vtfcmp h _
  | .vqblk h _ | .vdqblk h _ | .vred h _ | .vdot4 h _ | .vld h _ | .vst h _ | .vldc h _ | .vstc h _ | .vmov h _
  | .vsel h _ | .vbcast h _ | .vperm h _ | .vtrans h _ | .vgat h _ | .vsca h _ | .mlog h _ | .vkeep h _
  | .vrng h _ | .vshape h _ | .vdfr h _ | .vdrn h _ | .vdcnt h _ => some h
  | .mlatch h _ | .mgath h _ | .mmul h _ | .mattn h _ | .mpair h _ | .mdrain h _ | .mld h _ | .mzero h _
  | .mmask h _ | .mstat h _ | .mtest h _ | .mwait h _ => some h
  | .cpy h _ | .cpyw h _ | .cfill h _ | .cgat h _ | .csca h _ | .cxs h _ | .cpeer h _ => some h
  | .kvopen h _ | .kvseek h _ | .kvstrm h _ | .kvapp h _ | .kvref h _ | .kvfree h _ | .kvstat h _ => some h
  | .fact h _ | .fsa h _ | .fsav h _ | .fsense h _ | .fscal h _ | .frebuild h _ | .fmap h _ | .fstat h _
  | .fsync h _ | .fprog h _ | .ferase h _ | .fduty h _ => some h
  | .xconf h _ | .bfpost h _ | .bfwait h _ | .bfmode h _ | .bfq h _ | .bfflush h _ | .bdgq h _ | .bdghold h _ =>
    some h
  | _ => none

/-- The layout A fields of an engine instruction. -/
def layOf : Instr → Option LayA
  | .vadd _ f | .vsub _ f | .vmul _ f | .vfma _ f | .vfms _ f | .vfnma _ f | .vdiv _ f | .vsqrt _ f | .vmin _ f
  | .vmax _ f | .vabs _ f | .vneg _ f | .vcmp _ f | .vclass _ f | .vexp2 _ f | .vlog2 _ f | .viadd _ f
  | .visub _ f | .vimul _ f | .vimad _ f | .viand _ f | .vior _ f | .vixor _ f | .vishl _ f | .vishr _ f
  | .visar _ f | .vimin _ f | .vimax _ f | .vicmp _ f | .vtfcmp _ f
  | .vred _ f | .vdot4 _ f | .vldc _ f | .vstc _ f | .vmov _ f
  | .vsel _ f | .vperm _ f | .vtrans _ f | .mlog _ f | .vkeep _ f
  | .vrng _ f | .vdfr _ f | .vdrn _ f | .vdcnt _ f => some f
  | .mlatch _ f | .mgath _ f | .mmul _ f | .mattn _ f | .mpair _ f | .mdrain _ f | .mld _ f | .mzero _ f
  | .mmask _ f | .mstat _ f | .mtest _ f | .mwait _ f => some f
  | .cpy _ f | .cpyw _ f | .cfill _ f | .cgat _ f | .csca _ f | .cxs _ f | .cpeer _ f => some f
  | .kvopen _ f | .kvseek _ f | .kvstrm _ f | .kvapp _ f | .kvref _ f | .kvfree _ f | .kvstat _ f => some f
  | .fact _ f | .fsa _ f | .fsav _ f | .fsense _ f | .fscal _ f | .frebuild _ f | .fmap _ f | .fstat _ f
  | .fsync _ f | .fprog _ f | .ferase _ f | .fduty _ f => some f
  | .xconf _ f | .bfpost _ f | .bfwait _ f | .bfmode _ f | .bfq _ f | .bfflush _ f | .bdgq _ f | .bdghold _ f =>
    some f
  | _ => none

/-- The channels an entry names: channel A and channel B (R43). -/
def chanAOf (i : Instr) : Option (Fin 16) := (layOf i).bind (fun f => if f.ka then some (ix16 f.a) else none)
def chanBOf (i : Instr) : Option (Fin 16) := (layOf i).bind (fun f => if f.kb then some (ix16 f.b) else none)

/-- Whether an entry names a channel. -/
def namesChan (i : Instr) (c : Fin 16) : Bool := chanAOf i = some c || chanBOf i = some c

def tlOf (h : Head) : Fin 4 := ⟨(schTL h).toNat, (schTL h).isLt⟩

/-- The tag an entry takes at enqueue (R44). -/
def tagFor (b : Bank) (h : Head) : Option (Fin 4 × Word) :=
  if isV1 h && (getLoop b (tlOf h)).act then some (tlOf h, (getLoop b (tlOf h)).idx) else none

/-- The body of one level holds, or is held by, the body of another (R182). -/
def bodiesRelated (x y : LoopLevel) : Bool :=
  (x.start.ule y.start && y.stop.ule x.stop) || (y.start.ule x.start && x.stop.ule y.stop)

/-- Mark one level at an enqueue (R182). -/
def markLevel (b : Bank) (tag : Option (Fin 4 × Word)) (l : Fin 4) : LoopLevel :=
  let v := getLoop b l
  if !v.act then v
  else
    match tag with
    | none => { v with ut := true }
    | some (t, _) =>
      if t = l then v
      else if bodiesRelated (getLoop b t) v then { v with nt := true } else { v with ut := true }

/-- The marks UT and NT an enqueue sets on the active levels (R182). -/
def markLevels (b : Bank) (tag : Option (Fin 4 × Word)) : Bank :=
  { b with loops := #v[markLevel b tag 0, markLevel b tag 1, markLevel b tag 2, markLevel b tag 3] }

/-- A loop end inside an engine instruction is ILL (R58). -/
def loopSpan (b : Bank) : Bool :=
  b.mode = .user && [0, 1, 2, 3].any (fun l => (getLoop b l).act && (getLoop b l).stop = lo56 (b.pc + 4))

/-- Queue entries of each engine (R8). -/
def queueSize : Eng → Nat
  | .vector => 32 | .matrix => 16 | .copy => 16 | .kv => 8 | .stack => 32 | .backfill => 8

/-- Executing places of each engine (R8). -/
def places : Eng → Nat
  | .vector => 1 | .matrix => 1 | .copy => 8 | .kv => 4 | .stack => 16 | .backfill => 8

/-- The entries waiting in an engine's queue of a bank, in enqueue order. -/
def queued (b : Bank) (e : Eng) : List Job := b.jobs.filter (fun j => j.eng = e && j.phase = .queued)

/-- Entries of the core's footprint table in use (R14, R136). -/
def tableUse (c : Core) : Nat :=
  (c.bank0.jobs.filter (fun j => j.inTable)).length + (c.bank1.jobs.filter (fun j => j.inTable)).length

/-- What every engine instruction checks before its own enqueue checks: R58, then, for a privileged one, the mode,
then room in its queue and, for a job, in the footprint table (R10, R14, R49). -/
def engineReady (s : State) (e : Eng) (priv : Bool) : Except Stop Unit :=
  let b := s.bk
  if loopSpan b then ctlFault .ill 0
  else if priv && b.mode = .user then ctlFault .priv 0
  else if e = .vector then
    if 32 ≤ b.vec.queue.length then .error (.wait (.queue .vector)) else .ok ()
  else if queueSize e ≤ (queued b e).length then .error (.wait (.queue e))
  else if 48 ≤ tableUse (s.core s.cur) then .error (.wait .table)
  else .ok ()

/-- An engine instruction that names an unset channel raises SEGV at enqueue (R199). -/
def chanSet (b : Bank) (i : Instr) : Except Stop Unit :=
  let bad (c : Option (Fin 16)) : Bool := match c with
    | some c => !(b.chans.get c).set
    | none => false
  if bad (chanAOf i) || bad (chanBOf i) then enqFault .segv 0 else .ok ()

/-- The instruction's words, as the fault record holds them (R152). -/
def word0 (i : Instr) : IWord := (encode i).headD 0
def word1 (i : Instr) : IWord := (encode i).getD 1 0

/-- The entry of an instruction, with what every entry captures. -/
def baseEntry (b : Bank) (i : Instr) (h : Head) : Entry :=
  { i := i, w0 := word0 i, w1 := word1 i, iaddr := b.pc, wid := b.wid, tag := tagFor b h, shp := b.shp, kp := 0,
    xa := 0, xb := 0, xc := 0, xr := 0, vd := 0, va := 0, vb := 0, vc := 0, fxs := 0, fxk := 0, fxv := 0, fxo := 0,
    mash := b.mat.mash, msc := b.mat.msc, mmsk := b.mat.mmsk, mbmp := b.mat.mbmp, stamp := none, late := false,
    maps := [], since := 0 }

/-- The entry of a job of layout A, with the scalar operands its fields name. -/
def jobEntry (b : Bank) (i : Instr) (h : Head) (f : LayA) : Entry :=
  { baseEntry b i h with
    xa := if f.ka then 0 else getReg b f.a
    xb := if f.kb then 0 else getReg b f.b
    xc := getReg b f.c
    xr := getReg b (mHi f) }

/-- The derived edges of a new job: every earlier job of the context in the table that its footprint overlaps by a
read after write, a write after read or a write after write (R15). -/
def edgesOf (b : Bank) (reads writes : List Region) : List (BitVec 16) :=
  (b.jobs.filter (fun j => j.inTable &&
    (regionsMeet reads j.writes || regionsMeet writes j.reads || regionsMeet writes j.writes))).map Job.seq

/-- Make room for a new job in the 48-entry job table: the entry whose job completed earliest goes (R200). -/
def makeRoom (l : List Job) : List Job :=
  if l.length < 48 then l
  else
    match (l.filter (fun j => j.phase = .done)).foldl
      (fun m j => match m with
        | none => some j.doneAt
        | some x => some (Nat.min x j.doneAt)) (none : Option Nat) with
    | none => l
    | some t => l.eraseP (fun j => j.phase = .done && j.doneAt = t)

/-- A job just enqueued. -/
def newJob (seq : BitVec 16) (eng : Eng) (e : Entry) (dst : Reg) (reads writes : List Region)
    (edges : List (BitVec 16)) (item : Nat) : Job :=
  { seq := seq, eng := eng, e := e, dst := dst, reads := reads, writes := writes, edges := edges, phase := .queued,
    inTable := true, item := item, code := 0, psn := false, prog := 0, faddr := 0, detail := 0, pmap := 0, due := 0,
    doneAt := 0, token := mkToken false 0 false 0 seq, result := 0, wait := none, stream := none }

/-- Enqueue a job (R13 to R16): its SEQ, its edges, its token with DONE = 0 in the destination register, and the
marks of R182; then retire the two words. -/
def enqueueJob (s : State) (eng : Eng) (e : Entry) (dst : Reg) (reads writes : List Region) : State :=
  let c := s.core s.cur
  let seq := c.seq + 1
  let s := s.setCore s.cur { c with seq := seq }
  let b := s.bk
  let j := newJob seq eng { e with since := s.clk } dst reads writes (edgesOf b reads writes) b.item
  let b := markLevels b e.tag
  let b := { b with jobs := makeRoom b.jobs ++ [j] }
  s.setBk (retireBank (putReg b dst j.token) 2)

/-- Enqueue a vector entry (R8, R13): no job, no token; the marks of R182; then retire the two words. -/
def enqueueVector (s : State) (e : Entry) : State :=
  let b := markLevels s.bk e.tag
  let b := { b with vec := { b.vec with queue := b.vec.queue ++ [{ e with since := s.clk }] } }
  s.setBk (retireBank b 2)

/-- An engine instruction whose stage predicate is 0 is not enqueued: it retires with no effect (R178). -/
def predicated (b : Bank) (pe : Bool) (spk : Nat) : Bool := !pe || bit b.sp spk

/-- The launch's FREC area, if it has one (R152). -/
def frecOf (s : State) (slot : Option (Fin 16)) : Nat :=
  match slot.bind s.launch with
  | some l => l.hdr.frec
  | none => 0

/-- The index a format operand names, with its L bit (R87, R88): FMTE when FMTL selects no active level. -/
def fmtIndex (b : Bank) (fx : Reg) (l : Bool) : Except Stop (Fin 64) :=
  if !l then .ok (regIx fx)
  else
    let lv : Fin 4 := ⟨(bits b.fmtl 0 2).toNat, (bits b.fmtl 0 2).isLt⟩
    if bit b.fmtl 2 && (getLoop b lv).act then
      .ok ⟨(fx.toNat + (getLoop b lv).idx.toNat) % 64, Nat.mod_lt _ (by decide)⟩
    else enqFault .fmte 0

/-- The format-table entry an operand names, with the faults of R87 that need no ROW. -/
def fmtEntry (b : Bank) (fx : Reg) (l : Bool) : Except Stop Word :=
  match fmtIndex b fx l with
  | .error e => .error e
  | .ok i => if fmtBad (b.fmt.get i) then enqFault .fmte 0 else .ok (b.fmt.get i)

/-- The same, for an operand that needs ROW. -/
def fmtRowEntry (b : Bank) (fx : Reg) (l : Bool) : Except Stop Word :=
  match fmtEntry b fx l with
  | .error e => .error e
  | .ok w => if fmtRowBad w then enqFault .fmte 0 else .ok w

end Sys2Proof.Machine
end

