-- ==== Sys2Proof/Machine/Operands.lean ====
section
/-!
DEFINITION. The operand forms of the control subset (R36, R38) and the hazards of R162 and R163: which scalar
registers an instruction reads and writes, and whether it may issue past an outstanding load.
-/
namespace Sys2Proof.Machine

/-! ## Immediate operands (R36) -/

/-- A sign-extended immediate. -/
def simm {n : Nat} (x : BitVec n) : Word := x.signExtend 64

/-- A branch target: the instruction's address plus 4 × the signed word offset (R168). -/
def branchTarget {n : Nat} (b : Bank) (off : BitVec n) : Word := b.pc + (simm off) * 4

/-- The bytes of an M size field (R36). -/
def sizeBytes (z : BitVec 2) : Nat := 2 ^ z.toNat

/-- The bytes of the z bit of `amo` and `cas` (R38). -/
def amoBytes (z : Bool) : Nat := if z then 8 else 4

/-- The on-chip address of an M-format access (R183). -/
def mAddr (b : Bank) (base : Reg) (off : BitVec 11) : Word := getReg b base + simm off

/-- The low 8n bits of a value, sign-extended to 64. -/
def sextBytes (n v : Nat) : Word := BitVec.ofInt 64 (sInt (8 * n) v)

/-- The low 8n bits of a value, zero-extended to 64. -/
def zextBytes (n v : Nat) : Word := BitVec.ofNat 64 (v % 2 ^ (8 * n))

/-! ## Registers an instruction reads and writes -/

/-- The scalar registers a control instruction of the confined kind reads (R163). -/
def srcRegs : Instr → List Reg
  | .add _ ra rb | .sub _ ra rb | .mul _ ra rb | .mulh _ ra rb | .mulhu _ ra rb | .div _ ra rb | .divu _ ra rb
  | .rem _ ra rb | .remu _ ra rb | .and _ ra rb | .or _ ra rb | .xor _ ra rb | .andn _ ra rb | .shl _ ra rb
  | .shr _ ra rb | .sar _ ra rb | .min _ ra rb | .max _ ra rb | .minu _ ra rb | .maxu _ ra rb | .slt _ ra rb
  | .sltu _ ra rb | .lea _ ra rb _ => [ra, rb]
  | .clz _ ra | .ctz _ ra | .popc _ ra | .addi _ ra _ | .andi _ ra _ | .ori _ ra _ | .xori _ ra _ | .slti _ ra _
  | .shli _ ra _ | .shri _ ra _ | .sari _ ra _ | .bfx _ ra _ _ | .wrapa _ ra _ => [ra]
  | .imad _ ra rb rc | .sel _ ra rb rc => [ra, rb, rc]
  | .bfi rd ra _ _ => [rd, ra]
  | .beq ra rb _ | .bne ra rb _ | .blt ra rb _ | .bge ra rb _ | .bltu ra rb _ | .bgeu ra rb _ => [ra, rb]
  | .jr ra | .loop _ _ ra _ | .rep ra | .xlat _ ra | .jq _ ra | .jwait ra | .stwait ra | .stwaitR ra => [ra]
  | .lds _ base _ _ | .ldsu _ base _ _ => [base]
  | _ => []

/-- The scalar register a control instruction of the confined kind writes. -/
def dstReg : Instr → Option Reg
  | .add rd _ _ | .sub rd _ _ | .mul rd _ _ | .mulh rd _ _ | .mulhu rd _ _ | .div rd _ _ | .divu rd _ _
  | .rem rd _ _ | .remu rd _ _ | .and rd _ _ | .or rd _ _ | .xor rd _ _ | .andn rd _ _ | .shl rd _ _ | .shr rd _ _
  | .sar rd _ _ | .min rd _ _ | .max rd _ _ | .minu rd _ _ | .maxu rd _ _ | .slt rd _ _ | .sltu rd _ _
  | .lea rd _ _ _ | .clz rd _ | .ctz rd _ | .popc rd _ | .addi rd _ _ | .andi rd _ _ | .ori rd _ _ | .xori rd _ _
  | .slti rd _ _ | .shli rd _ _ | .shri rd _ _ | .sari rd _ _ | .bfx rd _ _ _ | .bfi rd _ _ _ | .wrapa rd _ _
  | .imad rd _ _ _ | .sel rd _ _ _ | .lui rd _ | .hq rd _ | .jq rd _ | .erd rd _ | .stmp rd | .wid rd _
  | .csrr rd _ | .lds rd _ _ _ | .ldsu rd _ _ _ | .ldh rd _ _ _ | .ldhu rd _ _ _ => some rd
  | .jal _ => some 1#6
  | _ => none

/-- An instruction whose effects are confined to the scalar registers, the handles, the PC and the loop state, and
which may issue past an outstanding load (R163). -/
def confined : Instr → Bool
  | .sts _ _ _ _ | .sth _ _ _ _ | .amo _ _ _ _ _ _ _ | .cas _ _ _ _ _ _ | .lda _ _ _ _ | .stl _ _ _ _ | .fence _
  | .bar | .bara | .barw | .cbset _ _ | .cbadv _ _ _ | .cbq _ _ | .cbwait _ _ _ | .ecfg _ _ | .csrw _ _ | .trap _
  | .brk _ | .sret | .wfe | .tail | .exit | .lbrk _ _ | .lbrkUnconditional _ => false
  | i => (headOf i).isNone

/-- A load that may become outstanding. -/
def isLoad : Instr → Bool
  | .lds _ _ _ _ | .ldsu _ _ _ _ | .ldh _ _ _ _ | .ldhu _ _ _ _ => true
  | _ => false

/-- Whether an instruction must wait for outstanding loads before it issues (R162, R163): it is not confined, reads
or writes a register a load has not written yet, or is a ninth load. -/
def loadHazard (i : Instr) (b : Bank) : Bool :=
  if b.loads.isEmpty then false
  else
    !confined i
      || b.loads.any (fun p => p.rd != 0#6 && ((srcRegs i).any (fun r => r = p.rd) || dstReg i = some p.rd))
      || (isLoad i && 8 ≤ b.loads.length)

end Sys2Proof.Machine
end

