-- ==== Sys2Proof/Machine/Fetch.lean ====
section
/-!
DEFINITION. Fetching an instruction (R31 to R34, R49): the words at the program counter, read from a segment with the
execute right, and decoded by position alone.
-/
namespace Sys2Proof.Machine

/-- The key an instruction word is fetched from (R34), or none outside an execute segment. In supervisor mode the
firmware's addresses are physical addresses of tier 1 (log entry 5). -/
def fetchKey (s : State) (b : Bank) (pc : Word) : Option Nat :=
  match b.mode with
  | .supervisor => if tier1Ok pc.toNat 4 then some pc.toNat else none
  | .user =>
    match findSeg (s.segsOf b) pc.toNat with
    | some (_, g) =>
      if g.x && pc.toNat + 4 ≤ g.vbase + g.len then
        some (if g.tier = 0 then onKey pc.toNat else g.pbase + (pc.toNat - g.vbase))
      else none
    | none => none

/-- An instruction word in memory, little-endian (R31). -/
def State.iwordAt (s : State) (k : Nat) : IWord :=
  wordOfBytes (s.byteAt k) (s.byteAt (k + 1)) (s.byteAt (k + 2)) (s.byteAt (k + 3))

/-- Fetch and decode the instruction at an address: both words of an engine instruction first (R32), then every ILL
condition of R48. -/
def fetchAt (s : State) (b : Bank) (pc : Word) : Except Reject Instr :=
  match fetchKey s b pc with
  | none => .error .fetch
  | some k0 =>
    let w0 := s.iwordAt k0
    if twoWords w0 then
      match fetchKey s b (pc + 4) with
      | none => .error .fetch
      | some k1 => decode w0 (s.iwordAt k1)
    else decode w0 0

/-! ## The fetch buffer (R92) -/

/-- Sectors the fetch buffer of a core holds (DESIGN CHOICE: the spec gives it no size; log entry 42). -/
def fetchSectors : Nat := 8

/-- Core `s.cur` holds the sector of an instruction word in its fetch buffer: one it has to fetch is read at its home, where
it meets the armed slots (R475). What the buffer holds is what memory holds (R93). -/
def State.holdSector (s : State) (key : Nat) : State :=
  let n := key / 32
  if (s.core s.cur).fbuf.contains n then s
  else
    let s := s.probe (32 * n) 32 (ctxidOf s s.bk.slot)
    let c := s.core s.cur
    let l := c.fbuf ++ [n]
    s.setCore s.cur { c with fbuf := l.drop (l.length - fetchSectors) }

/-- The state once the words of the instruction at the program counter are in the fetch buffer. -/
def State.fetched (s : State) : State :=
  match fetchKey s s.bk s.bk.pc with
  | none => s
  | some k0 =>
    let s := s.holdSector k0
    if twoWords (s.iwordAt k0) then
      match fetchKey s s.bk (s.bk.pc + 4) with
      | some k1 => s.holdSector k1
      | none => s
    else s

/-- Words of an instruction (R31). -/
def wordsOf (i : Instr) : Nat := if (headOf i).isSome then 2 else 1

/-- Whether a mode may run an instruction (R40, R48): `sret`, `fprog`, `ferase`, `fduty`, and CSR accesses above the
class rights, need supervisor mode. -/
def needsSupervisor : Instr → Bool
  | .sret | .fprog _ _ | .ferase _ _ | .fduty _ _ => true
  | .csrr _ c => csrClass c = 2
  | .csrw c _ => csrClass c = 1 || csrClass c = 2
  | _ => false

/-- The fault of a word that is no instruction (R34, R48). -/
def rejectExc : Reject → Exc
  | .ill a => ⟨.ill, a, 0, 0⟩
  | .fetch => ⟨.segv, 0, 0, 0⟩

end Sys2Proof.Machine
end

