-- ==== Sys2Proof/Machine/Integer.lean ====
section
/-!
DEFINITION. Integer and address arithmetic of the control core (R164 to R167, R198) and `lui` (R36).
-/
namespace Sys2Proof.Machine

/-! ## Values -/

/-- 1 or 0. -/
def flagW (c : Bool) : Word := if c then 1 else 0

/-- A shift amount: the low six bits (R164). -/
def shAmt (b : Word) : Nat := (bits b 0 6).toNat

/-- The high 64 bits of the 128-bit product (R164). -/
def mulHigh (signed : Bool) (a b : Word) : Word :=
  let x : BitVec 128 := if signed then a.signExtend 128 else a.setWidth 128
  let y : BitVec 128 := if signed then b.signExtend 128 else b.setWidth 128
  bits (x * y) 64 64

/-- `div` (R165). -/
def sdivW (a b : Word) : Word := if b = 0 then -1 else a.sdiv b
/-- `divu` (R165). -/
def udivW (a b : Word) : Word := if b = 0 then -1 else a / b
/-- `rem` (R165). -/
def sremW (a b : Word) : Word := if b = 0 then a else a.srem b
/-- `remu` (R165). -/
def uremW (a b : Word) : Word := if b = 0 then a else a % b

/-- Leading zero bits; 64 for zero (R164). -/
def clzW (a : Word) : Word := if a = 0 then 64 else BitVec.ofNat 64 (63 - Nat.log2 a.toNat)

/-- The lowest set bit at or above position i, looking at `f` positions. -/
def ctzFrom (a : Word) : Nat → Nat → Nat
  | 0, i => i
  | f + 1, i => if bit a i then i else ctzFrom a f (i + 1)

/-- Trailing zero bits; 64 for zero (R164). -/
def ctzW (a : Word) : Word := BitVec.ofNat 64 (ctzFrom a 64 0)

/-- The number of set bits below position i. -/
def popcBelow (a : Word) : Nat → Nat
  | 0 => 0
  | i + 1 => popcBelow a i + (if bit a i then 1 else 0)

/-- One bits (R164). -/
def popcW (a : Word) : Word := BitVec.ofNat 64 (popcBelow a 64)

/-- `bfx` (R167): the field of `n` bits at `pos`, zero-extended. -/
def bfxW (a : Word) (pos n : Nat) : Word := (a >>> pos) &&& ((1#64 <<< n) - 1)

/-- `bfi` (R167): the field of `n` bits at `pos` of `d` replaced by the low bits of `a`. -/
def bfiW (d a : Word) (pos n : Nat) : Word :=
  let m : Word := (1#64 <<< n) - 1
  (d &&& ~~~(m <<< pos)) ||| ((a &&& m) <<< pos)

/-! ## Forms -/

/-- A register form: two sources (R164). -/
def aluRR (f : Word → Word → Word) (rd ra rb : Reg) (s : State) : Out :=
  .next (writeReg s rd (f (getReg s.bk ra) (getReg s.bk rb)))

/-- A register form with one source, or an immediate form already applied (R164, R166). -/
def aluR (f : Word → Word) (rd ra : Reg) (s : State) : Out :=
  .next (writeReg s rd (f (getReg s.bk ra)))

/-! ## Meanings -/

/-- R164: sD := sA + sB. -/
def execAdd (rd ra rb : Reg) (s : State) : Out := aluRR (fun a b => a + b) rd ra rb s
/-- R164: sD := sA − sB. -/
def execSub (rd ra rb : Reg) (s : State) : Out := aluRR (fun a b => a - b) rd ra rb s
/-- R164: the low 64 bits of the product. -/
def execMul (rd ra rb : Reg) (s : State) : Out := aluRR (fun a b => a * b) rd ra rb s
/-- R164: the high 64 bits of the signed product. -/
def execMulh (rd ra rb : Reg) (s : State) : Out := aluRR (fun a b => mulHigh true a b) rd ra rb s
/-- R164: the high 64 bits of the unsigned product. -/
def execMulhu (rd ra rb : Reg) (s : State) : Out := aluRR (fun a b => mulHigh false a b) rd ra rb s
/-- R165: signed division. -/
def execDiv (rd ra rb : Reg) (s : State) : Out := aluRR (fun a b => sdivW a b) rd ra rb s
/-- R165: unsigned division. -/
def execDivu (rd ra rb : Reg) (s : State) : Out := aluRR (fun a b => udivW a b) rd ra rb s
/-- R165: signed remainder. -/
def execRem (rd ra rb : Reg) (s : State) : Out := aluRR (fun a b => sremW a b) rd ra rb s
/-- R165: unsigned remainder. -/
def execRemu (rd ra rb : Reg) (s : State) : Out := aluRR (fun a b => uremW a b) rd ra rb s
/-- R164: bitwise AND. -/
def execAnd (rd ra rb : Reg) (s : State) : Out := aluRR (fun a b => a &&& b) rd ra rb s
/-- R164: bitwise OR. -/
def execOr (rd ra rb : Reg) (s : State) : Out := aluRR (fun a b => a ||| b) rd ra rb s
/-- R164: bitwise XOR. -/
def execXor (rd ra rb : Reg) (s : State) : Out := aluRR (fun a b => a ^^^ b) rd ra rb s
/-- R164: sA AND NOT sB. -/
def execAndn (rd ra rb : Reg) (s : State) : Out := aluRR (fun a b => a &&& ~~~b) rd ra rb s
/-- R164: shift left by sB[5:0]. -/
def execShl (rd ra rb : Reg) (s : State) : Out := aluRR (fun a b => a <<< (shAmt b)) rd ra rb s
/-- R164: logical shift right by sB[5:0]. -/
def execShr (rd ra rb : Reg) (s : State) : Out := aluRR (fun a b => a >>> (shAmt b)) rd ra rb s
/-- R164: arithmetic shift right by sB[5:0]. -/
def execSar (rd ra rb : Reg) (s : State) : Out := aluRR (fun a b => a.sshiftRight (shAmt b)) rd ra rb s
/-- R164: signed minimum. -/
def execMin (rd ra rb : Reg) (s : State) : Out := aluRR (fun a b => if a.slt b then a else b) rd ra rb s
/-- R164: signed maximum. -/
def execMax (rd ra rb : Reg) (s : State) : Out := aluRR (fun a b => if a.slt b then b else a) rd ra rb s
/-- R164: unsigned minimum. -/
def execMinu (rd ra rb : Reg) (s : State) : Out := aluRR (fun a b => if a.ult b then a else b) rd ra rb s
/-- R164: unsigned maximum. -/
def execMaxu (rd ra rb : Reg) (s : State) : Out := aluRR (fun a b => if a.ult b then b else a) rd ra rb s
/-- R164: 1 if sA < sB, signed. -/
def execSlt (rd ra rb : Reg) (s : State) : Out := aluRR (fun a b => flagW (a.slt b)) rd ra rb s
/-- R164: 1 if sA < sB, unsigned. -/
def execSltu (rd ra rb : Reg) (s : State) : Out := aluRR (fun a b => flagW (a.ult b)) rd ra rb s
/-- R164: leading zeros. -/
def execClz (rd ra : Reg) (s : State) : Out := aluR clzW rd ra s
/-- R164: trailing zeros. -/
def execCtz (rd ra : Reg) (s : State) : Out := aluR ctzW rd ra s
/-- R164: one bits. -/
def execPopc (rd ra : Reg) (s : State) : Out := aluR popcW rd ra s
/-- R166: with the sign-extended imm13. -/
def execAddi (rd ra : Reg) (imm : BitVec 13) (s : State) : Out := aluR (fun a => a + simm imm) rd ra s
/-- R166: with the sign-extended imm13. -/
def execAndi (rd ra : Reg) (imm : BitVec 13) (s : State) : Out := aluR (fun a => a &&& simm imm) rd ra s
/-- R166: with the sign-extended imm13. -/
def execOri (rd ra : Reg) (imm : BitVec 13) (s : State) : Out := aluR (fun a => a ||| simm imm) rd ra s
/-- R166: with the sign-extended imm13. -/
def execXori (rd ra : Reg) (imm : BitVec 13) (s : State) : Out := aluR (fun a => a ^^^ simm imm) rd ra s
/-- R166: with the sign-extended imm13. -/
def execSlti (rd ra : Reg) (imm : BitVec 13) (s : State) : Out := aluR (fun a => flagW (a.slt (simm imm))) rd ra s
/-- R166: shift by the immediate. -/
def execShli (rd ra : Reg) (n : BitVec 6) (s : State) : Out := aluR (fun a => a <<< n.toNat) rd ra s
/-- R166: shift by the immediate. -/
def execShri (rd ra : Reg) (n : BitVec 6) (s : State) : Out := aluR (fun a => a >>> n.toNat) rd ra s
/-- R166: shift by the immediate. -/
def execSari (rd ra : Reg) (n : BitVec 6) (s : State) : Out := aluR (fun a => a.sshiftRight n.toNat) rd ra s
/-- R36: the sign-extended imm19 times 2^13. -/
def execLui (rd : Reg) (imm : BitVec 19) (s : State) : Out := .next (writeReg s rd (simm imm <<< 13))
/-- R167: sA × sB + sC. -/
def execImad (rd ra rb rc : Reg) (s : State) : Out :=
  .next (writeReg s rd (getReg s.bk ra * getReg s.bk rb + getReg s.bk rc))
/-- R167: sC selects sA or sB. -/
def execSel (rd ra rb rc : Reg) (s : State) : Out :=
  .next (writeReg s rd (if getReg s.bk rc != 0 then getReg s.bk ra else getReg s.bk rb))
/-- R167: extract a bit field. -/
def execBfx (rd ra : Reg) (pos lenM1 : BitVec 6) (s : State) : Out :=
  aluR (fun a => bfxW a pos.toNat (lenM1.toNat + 1)) rd ra s
/-- R167: insert a bit field. -/
def execBfi (rd ra : Reg) (pos lenM1 : BitVec 6) (s : State) : Out :=
  .next (writeReg s rd (bfiW (getReg s.bk rd) (getReg s.bk ra) pos.toNat (lenM1.toNat + 1)))
/-- R167: sA plus sB shifted left. -/
def execLea (rd ra rb : Reg) (sh : BitVec 3) (s : State) : Out :=
  aluRR (fun a b => a + (b <<< sh.toNat)) rd ra rb s

/-- R198: an address wrapped into the ring of a channel; SEGV on an unset channel. -/
def execWrapa (rd ra ch : Reg) (s : State) : Out :=
  let c := getChan s.bk ch
  finish s <|
    if !c.set then ctlFault .segv 0
    else
      let m : Int := (c.slot * c.count : Nat)
      let d : Int := ((getReg s.bk ra).toNat : Int) - c.base
      .ok (writeReg s rd (BitVec.ofInt 64 (c.base + d % m)))

end Sys2Proof.Machine
end

