-- ==== Sys2Proof/Machine/Branch.lean ====
section
/-!
DEFINITION. Branches and jumps (R168, R169), hardware loops (R170), repeat (R174, R175) and the stage predicates
(R176).
-/
namespace Sys2Proof.Machine

/-- A conditional branch (R168): taken, PC := the target and no end test; else control falls through. None of them can
be repeated (R175). -/
def condBranch (c : Word → Word → Bool) (ra rb : Reg) (off : BitVec 13) (s : State) : Out :=
  finish s (do
    notRepeated s
    if c (getReg s.bk ra) (getReg s.bk rb) then .ok (jumpTo s (branchTarget s.bk off)) else .ok (retire s 1))

/-- R168: branch if equal. -/
def execBeq (ra rb : Reg) (off : BitVec 13) (s : State) : Out := condBranch (fun a b => a = b) ra rb off s
/-- R168: branch if not equal. -/
def execBne (ra rb : Reg) (off : BitVec 13) (s : State) : Out := condBranch (fun a b => a != b) ra rb off s
/-- R168: branch if signed less than. -/
def execBlt (ra rb : Reg) (off : BitVec 13) (s : State) : Out := condBranch (fun a b => a.slt b) ra rb off s
/-- R168: branch if signed greater or equal. -/
def execBge (ra rb : Reg) (off : BitVec 13) (s : State) : Out := condBranch (fun a b => !(a.slt b)) ra rb off s
/-- R168: branch if unsigned less than. -/
def execBltu (ra rb : Reg) (off : BitVec 13) (s : State) : Out := condBranch (fun a b => a.ult b) ra rb off s
/-- R168: branch if unsigned greater or equal. -/
def execBgeu (ra rb : Reg) (off : BitVec 13) (s : State) : Out := condBranch (fun a b => !(a.ult b)) ra rb off s

/-- R168: jump. -/
def execJmp (off : BitVec 25) (s : State) : Out :=
  finish s (do
    notRepeated s
    .ok (jumpTo s (branchTarget s.bk off)))

/-- R169: s1 := the address of the `jal` + 4, then jump. -/
def execJal (off : BitVec 25) (s : State) : Out :=
  finish s (do
    notRepeated s
    .ok (s.setBk { putReg s.bk 1#6 (s.bk.pc + 4) with pc := branchTarget s.bk off }))

/-- R34, R169: jump to a register; ALIGN on a target that is not word aligned, SEGV on one above 56 bits; of a
target that is both, ALIGN (DESIGN CHOICE, log entry 78). -/
def execJr (ra : Reg) (s : State) : Out :=
  let t := getReg s.bk ra
  finish s (do
    notRepeated s
    need (bits t 0 2 = 0#2) (ctlFault .align t)
    need (bits t 56 8 = 0#8) (ctlFault .segv t)
    .ok (jumpTo s t))

/-- Start a level (R170), or skip its body when the count is 0. -/
def startLoop (lvl : BitVec 2) (p : Bool) (n : Word) (len : Nat) (s : State) : Out :=
  finish s (do
    notRepeated s
    let b := s.bk
    let start := lo56 (b.pc + 4)
    let stop := lo56 (start + BitVec.ofNat 64 (4 * len))
    if n = 0 then .ok (jumpTo s stop)
    else
      let v : LoopLevel := ⟨true, p, false, false, n, 0, start, stop⟩
      .ok (s.setBk (fallThrough (putLoop b lvl.toFin v) (b.pc + 4))))

/-- R170: a loop whose count is sA. -/
def execLoop (lvl : BitVec 2) (p : Bool) (ra : Reg) (len : BitVec 16) (s : State) : Out :=
  startLoop lvl p (getReg s.bk ra) len.toNat s

/-- R170: a loop of cnt12 iterations. -/
def execLoopi (lvl : BitVec 2) (p : Bool) (cnt : BitVec 12) (len : BitVec 10) (s : State) : Out :=
  startLoop lvl p (cnt.setWidth 64) len.toNat s

/-- R174: REPC := n; with n = 0 the next instruction is fetched and checked under steps 1 to 3 of R49 and skipped,
which counts as falling through past it. A skipped instruction of two words with a loop end between them is ILL (R58). -/
def repeatNext (n : Word) (s : State) : Out :=
  match notRepeated s with
  | .error e => finish s (.error e)
  | .ok _ =>
    let s1 := retire s 1
    if n != 0 then .next (s1.setBk { s1.bk with repc := n })
    else
      let skip : Except Stop State :=
        match fetchAt s1 s1.bk s1.bk.pc with
        | .error r => .error (.flt (rejectExc r))
        | .ok i =>
          if wordsOf i = 2 && loopSpan s1.bk then ctlFault .ill 0
          else if needsSupervisor i && s1.bk.mode = .user then ctlFault .priv 0
          else .ok (s1.setBk (fallThrough s1.bk (s1.bk.pc + BitVec.ofNat 64 (4 * wordsOf i))))
      match skip with
      | .ok s2 => .next s2
      | .error _ => if s.bk.loads.isEmpty then finish s1 skip else .next (stallOn s .loads)

/-- R174: repeat the next instruction sA times. -/
def execRep (ra : Reg) (s : State) : Out := repeatNext (getReg s.bk ra) s

/-- R174: repeat the next instruction cnt12 times. -/
def execRepImmediate (cnt : BitVec 12) (s : State) : Out := repeatNext (cnt.setWidth 64) s

/-- R176: SPM := imm8 and SP := imm8 AND 1. -/
def execSpset (imm : BitVec 8) (s : State) : Out :=
  finish s (do
    notRepeated s
    .ok (retire (s.setBk { s.bk with spm := imm, sp := imm &&& 1 }) 1))

end Sys2Proof.Machine
end

