-- ==== Sys2Proof/Machine/Load.lean ====
section
/-!
DEFINITION. Memory access of the control core: loads and stores (R183 to R185), the return of an outstanding load
(R163), atomics and ordered accesses (R186 to R189), fences (R112, R190), handles and the translation walk (R98 to
R103).
-/
namespace Sys2Proof.Machine

/-- Run a step of the device on core k, with `cur` as it was afterwards. -/
def onCore (s : State) (k : Fin 16) (f : State → State) : State := { f { s with cur := k } with cur := s.cur }

/-! ## Loads -/

/-- A load performs at its home (R106, R109, R124, R446): the slice answers, the tag check, then poison, then the value. -/
def loadPerform (s : State) (t : Target) (z : Nat) (signed tagged : Bool) : Except Stop (State × Word) :=
  match sliceReady s t.key with
  | .error e => .error e
  | .ok _ =>
    match if tagged then s.checkTag t (s.phaseOf s.bk) s.cur false else some s with
    | none => ctlFault .mmx (sectorVA t.va)
    | some s =>
      let s := s.probe t.key z (ctxidOf s s.bk.slot)
      match s.poisonIn t.key z with
      | some m => poisonFault s m (BitVec.ofNat 64 t.va)
      | none =>
        let v := s.readNat t.key z
        .ok (s, if signed then sextBytes z v else zextBytes z v)

/-- Issue a load whose address checks have passed (R162, R163, R185): one from the core's own slice performs now;
any other becomes outstanding, with its value yet to come. -/
def issueLoad (s : State) (rd : Reg) (t : Target) (win : Option (Nat × Nat)) (z : Nat) (signed : Bool) :
    Except Stop State :=
  match footprintCheck s.bk t z false with
  | .error e => .error e
  | .ok _ =>
    if ownSlice s.cur t then
      match loadPerform s t z signed true with
      | .error e => .error e
      | .ok (s, v) => .ok (writeReg s rd v)
    else
      let b := s.bk
      let p : PendingLoad :=
        { rd := rd, key := t.key, got := none, win := win, va := BitVec.ofNat 64 t.va, checked := t.checked, size := z, signed := signed,
          pc := b.pc, x := b.x, loops := b.loops, handles := b.handles, repc := b.repc, rrb := b.rrb, sp := b.sp,
          spm := b.spm }
      .ok (retire (s.setBk { b with loads := b.loads ++ [p] }) 1)

/-- The window of a handle register (R100). -/
def handleWindow (b : Bank) (hr : Reg) : Option (Nat × Nat) := some ((getHandle b hr).lo, (getHandle b hr).hi)

/-- R183: load from an on-chip address, sign-extended. -/
def execLds (rd base : Reg) (size : BitVec 2) (off : BitVec 11) (s : State) : Out :=
  finish s (do
    let t ← onChipTarget s s.bk (mAddr s.bk base off) (sizeBytes size) true false
    issueLoad s rd t none (sizeBytes size) true)

/-- R183: load from an on-chip address, zero-extended. -/
def execLdsu (rd base : Reg) (size : BitVec 2) (off : BitVec 11) (s : State) : Out :=
  finish s (do
    let t ← onChipTarget s s.bk (mAddr s.bk base off) (sizeBytes size) true false
    issueLoad s rd t none (sizeBytes size) false)

/-- R184: load through a handle, sign-extended. -/
def execLdh (rd base : Reg) (size : BitVec 2) (off : BitVec 11) (s : State) : Out :=
  finish s (do
    let t ← handleTarget s s.bk base off.toInt (sizeBytes size) true false
    issueLoad s rd t (handleWindow s.bk base) (sizeBytes size) true)

/-- R184: load through a handle, zero-extended. -/
def execLdhu (rd base : Reg) (size : BitVec 2) (off : BitVec 11) (s : State) : Out :=
  finish s (do
    let t ← handleTarget s s.bk base off.toInt (sizeBytes size) true false
    issueLoad s rd t (handleWindow s.bk base) (sizeBytes size) false)

/-- The bank with everything after a load squashed (R163): the registers, the loop state and the handles return to
their values at the load, and the PC is the load's. -/
def squashTo (b : Bank) (p : PendingLoad) : Bank :=
  { b with
    x := p.x, loops := p.loops, handles := p.handles, repc := p.repc, rrb := p.rrb, sp := p.sp, spm := p.spm,
    pc := p.pc, loads := [], stall := none }

/-- A returned value reaches the register, and the values later loads would be squashed to. -/
def landLoad (b : Bank) (p : PendingLoad) (rest : List PendingLoad) (v : Word) : Bank :=
  let upd (x : Vector Word 64) : Vector Word 64 :=
    if p.rd = 0#6 then x else x.set (regIx p.rd).val v (regIx p.rd).isLt
  { b with x := upd b.x, loads := rest.map (fun q => { q with x := upd q.x }) }

/-- R163: the oldest outstanding load of core k returns, performing now if it has not; poison or a tag conflict squashes what follows it and is
precise at the load. -/
def execLoadReturn (k : Fin 16) (s : State) : Out :=
  .next (onCore s k (fun s =>
    match s.bk.loads with
    | [] => s
    | p :: rest =>
      if s.bk.stoppedAt.isSome || clStalled s s.cur then s else
      let t : Target := ⟨p.key, p.va.toNat, p.checked⟩
      match p.got.elim (loadPerform s t p.size p.signed true) (fun v => .ok (s, v)) with
      | .ok (s, v) => s.setBk (landLoad s.bk p rest v)
      | .error (.flt e) => takeFault (s.setBk (squashTo s.bk p)) e
      | .error (.fltAt s e) => takeFault (s.setBk (squashTo s.bk p)) e
      | .error (.wait _) => s
      | .error (.waitAt s _) => s))

/-! ## Stores -/

/-- What a store whose address checks have passed goes through before its write (R124, R185): the footprint check, the tag
check at its home unless it is a `stl`, and D of its page. -/
def storeChecked (s : State) (t : Target) (z : Nat) (tagged : Bool) : Except Stop State :=
  match footprintCheck s.bk t z true with
  | .error e => .error e
  | .ok _ =>
    match sliceReady s t.key with
    | .error e => .error e
    | .ok _ =>
      match if tagged then s.checkTag t (s.phaseOf s.bk) s.cur true else some s with
      | none => ctlFault .mmx (sectorVA t.va)
      | some s' => .ok (s'.setDirty s.bk t.va)

/-- A store whose address checks have passed, which performs in this step (R185). -/
def issueStore (s : State) (t : Target) (z : Nat) (v : Word) (tagged : Bool) : Except Stop State :=
  match storeChecked s t z tagged with
  | .error e => .error e
  | .ok s' => .ok (retire (s'.store t.key (toBytes z v.toNat)) 1)

/-- R183: store to an on-chip address. -/
def execSts (rd base : Reg) (size : BitVec 2) (off : BitVec 11) (s : State) : Out :=
  finish s (do
    let t ← onChipTarget s s.bk (mAddr s.bk base off) (sizeBytes size) false true
    issueStore s t (sizeBytes size) (getReg s.bk rd) true)

/-- R184: store through a handle. -/
def execSth (rd base : Reg) (size : BitVec 2) (off : BitVec 11) (s : State) : Out :=
  finish s (do
    let t ← handleTarget s s.bk base off.toInt (sizeBytes size) false true
    issueStore s t (sizeBytes size) (getReg s.bk rd) true)

/-! ## Atomics and ordered accesses -/

/-- The target of `amo`, `cas`, `lda` and `stl`: a handle with offset 0, or an on-chip address (R189). -/
def syncTarget (s : State) (ra : Reg) (hnd : Bool) (z : Nat) (r w : Bool) : Except Stop Target :=
  if hnd then handleTarget s s.bk ra 0 z r w else onChipTarget s s.bk (getReg s.bk ra) z r w

/-- OP of `amo` on z bytes (R186). -/
def amoOp (op : BitVec 3) (z old b : Nat) : Nat :=
  let m := 2 ^ (8 * z)
  match op with
  | 0#3 => (old + b) % m
  | 1#3 => b
  | 2#3 => old &&& b
  | 3#3 => old ||| b
  | 4#3 => old ^^^ b
  | 5#3 => if sInt (8 * z) old < sInt (8 * z) b then old else b
  | 6#3 => if sInt (8 * z) old < sInt (8 * z) b then b else old
  | _ => if old < b then b else old

/-- A read-modify-write at its home (R108, R186, R187, R189): the footprint check as a write, poison, then the new
value (or none) and the old value to sD. -/
def atomic (s : State) (rd : Reg) (t : Target) (z : Nat) (f : Nat → Option Nat) : Except Stop State :=
  match footprintCheck s.bk t z true with
  | .error e => .error e
  | .ok _ =>
    match sliceReady s t.key with
    | .error e => .error e
    | .ok _ =>
      let s := s.probe t.key z (ctxidOf s s.bk.slot)
      match s.poisonIn t.key z with
      | some m => poisonFault s m (BitVec.ofNat 64 t.va)
      | none =>
        let old := s.readNat t.key z
        let s' := match f old with
          | some v => (s.setDirty s.bk t.va).store t.key (toBytes z v)
          | none => s
        .ok (writeReg s' rd (sextBytes z old))

/-- R186. What the order field asks for is met before the instruction issues (`storeWaits`, `loadHazard`). -/
def execAmo (rd ra rb : Reg) (_ord : BitVec 2) (z hnd : Bool) (op : BitVec 3) (s : State) : Out :=
  let n := amoBytes z
  finish s (do
    let t ← syncTarget s ra hnd n true true
    atomic s rd t n (fun old => some (amoOp op n old ((getReg s.bk rb).toNat % 2 ^ (8 * n)))))

/-- R187: compare and swap. -/
def execCas (rd ra rb : Reg) (_ord : BitVec 2) (z hnd : Bool) (s : State) : Out :=
  let n := amoBytes z
  finish s (do
    let t ← syncTarget s ra hnd n true true
    atomic s rd t n (fun old =>
      if old = (getReg s.bk rd).toNat % 2 ^ (8 * n) then some ((getReg s.bk rb).toNat % 2 ^ (8 * n)) else none))

/-- R188: acquire load, zero-extended. It carries no tags (R189). -/
def execLda (rd ra : Reg) (size : BitVec 2) (hnd : Bool) (s : State) : Out :=
  let z := sizeBytes size
  finish s (do
    let t ← syncTarget s ra hnd z true false
    footprintCheck s.bk t z false
    let r ← loadPerform s t z false false
    .ok (writeReg r.1 rd r.2))

/-- R188: release store. It reads no data, so poison does not stop it (log entry 9). -/
def execStl (ra rb : Reg) (size : BitVec 2) (hnd : Bool) (s : State) : Out :=
  let z := sizeBytes size
  finish s (do
    let t ← syncTarget s ra hnd z false true
    issueStore s t z (getReg s.bk rb) false)

/-- R112, R190: every access of the core in the fence's scope has performed when it issues (`storeWaits`, `loadHazard`), so
the fence waits here for the vector instructions enqueued earlier. -/
def execFence (_scope : BitVec 2) (s : State) : Out :=
  finish s (if s.bk.vec.queue.isEmpty then .ok (retire s 1) else .error (.wait .vector))

/-! ## Accesses that perform later (R107, R163, R185) -/

/-- The home of a location (R106): a slice, a near-DRAM channel, a memory port, or the LPDDR-6 controller. -/
def homeOf (key : Nat) : Nat :=
  if isOnKey key then (sliceCore key).val
  else if tier1Ok key 1 then 16 + dramChannel key
  else match portOf key with
    | some p => 272 + p.val
    | none => 274

/-- What a control instruction accesses in memory, if its address passes its checks. -/
def accessTarget (i : Instr) (s : State) : Option Target :=
  (match i with
    | .lds _ base size off | .ldsu _ base size off =>
      onChipTarget s s.bk (mAddr s.bk base off) (sizeBytes size) true false
    | .ldh _ base size off | .ldhu _ base size off => handleTarget s s.bk base off.toInt (sizeBytes size) true false
    | .sts _ base size off => onChipTarget s s.bk (mAddr s.bk base off) (sizeBytes size) false true
    | .sth _ base size off => handleTarget s s.bk base off.toInt (sizeBytes size) false true
    | .amo _ ra _ _ z hnd _ | .cas _ ra _ _ z hnd => syncTarget s ra hnd (amoBytes z) true true
    | .lda _ ra size hnd => syncTarget s ra hnd (sizeBytes size) true false
    | .stl ra _ size hnd => syncTarget s ra hnd (sizeBytes size) false true
    | _ => ctlFault .ill 0).toOption

/-- Whether a home lies in a scope of core k (R112). -/
def inScope (k : Fin 16) (scope : BitVec 2) (home : Nat) : Bool :=
  match scope with
  | 0#2 => home = k.val
  | 1#2 => home / 4 = k.val / 4
  | _ => true

/-- Whether an instruction creates a job: one of an engine other than the vector engine. -/
def makesJob (i : Instr) : Bool :=
  let w := (encode i).headD 0
  bit w 31 && bits w 28 3 != 0

/-- Whether an instruction waits for posted stores to perform (R107, R110, R112, R117, R191): a fence for those in its
scope; a release, a barrier, an enqueue of a job and the end of a work item for all; an access for those to its home. -/
def storeWaits (i : Instr) (s : State) : Bool :=
  let l := s.bk.posted
  if l.isEmpty then false
  else match i with
    | .fence scope => l.any (fun p => inScope s.cur scope (homeOf p.key))
    | .bar | .bara | .stl _ _ _ _ | .cbadv _ _ true | .tail | .exit => true
    | i => makesJob i || (match i with
        | .amo _ _ _ ord _ _ _ | .cas _ _ _ ord _ _ => bit ord 1
        | _ => false) ||
      (accessTarget i s).any (fun t => l.any (fun p => homeOf p.key = homeOf t.key))

/-- The parts of a store: its target, the window of its handle, its size, its value, and whether it takes tags. -/
def storeParts (i : Instr) (s : State) : Option (Except Stop Target × Option (Nat × Nat) × Nat × Word × Bool) :=
  match i with
  | .sts rd base size off =>
    some (onChipTarget s s.bk (mAddr s.bk base off) (sizeBytes size) false true, none, sizeBytes size, getReg s.bk rd, true)
  | .sth rd base size off =>
    some (handleTarget s s.bk base off.toInt (sizeBytes size) false true, handleWindow s.bk base, sizeBytes size,
      getReg s.bk rd, true)
  | .stl ra rb size hnd =>
    some (syncTarget s ra hnd (sizeBytes size) false true, if hnd then handleWindow s.bk ra else none, sizeBytes size,
      getReg s.bk rb, false)
  | _ => none

/-- A store issues and is posted (R185): it passes its checks and retires, and performs at its home in a later step. -/
def postStore (s : State) (t : Except Stop Target) (win : Option (Nat × Nat)) (z : Nat) (v : Word) (tagged : Bool) : Out :=
  finish s (do
    let t ← t
    let u ← storeChecked s t z tagged
    .ok (retire (u.setBk { u.bk with posted := u.bk.posted ++ [⟨t.key, t.va, win, toBytes z v.toNat⟩] }) 1))

/-- A posted store of a bank of core k performs at its home, once the slice answers; stores to one home perform in program
order (R106, R107, R446). -/
def storePerforms (s : State) (k : Fin 16) (x : Bool) (n : Nat) : State :=
  let b := s.bankAt k x
  match b.posted[n]? with
  | none => s
  | some p =>
    if clStalled s k || (b.posted.take n).any (fun q => homeOf q.key = homeOf p.key) then s
    else match sliceReady s p.key with
      | .error (.waitAt s _) => s
      | .error _ => s
      | .ok _ => (s.setBankAt k x { b with posted := b.posted.eraseIdx n }).store p.key p.bytes

/-- An outstanding load of core k performs before older ones to other homes (R107, R185); its value waits for its return. A
fault is left to the return. -/
def loadPerforms (s : State) (k : Fin 16) (n : Nat) : State :=
  onCore s k (fun s =>
    let l := s.bk.loads
    match l[n]? with
    | none => s
    | some p =>
      if s.bk.stoppedAt.isSome || clStalled s s.cur || p.got.isSome
          || (l.take n).any (fun q => q.got.isNone && homeOf q.key = homeOf p.key) then s
      else match loadPerform s ⟨p.key, p.va.toNat, p.checked⟩ p.size p.signed true with
        | .ok (s, v) => s.setBk { s.bk with loads := s.bk.loads.set n { p with got := some v } }
        | .error _ => s)

/-! ## Handles -/

/-- An entry of the translation cache: a launch slot and a page (R92). -/
def tlbTag (slot : Option (Fin 16)) (va : Nat) : Nat :=
  (match slot with
   | some i => i.val
   | none => 16) * 2 ^ 40 + va / 0x10000

/-- Install a present leaf entry: 512 entries per core, the oldest going first (R92; log entry 8). -/
def tlbInsert (c : Core) (t : Nat) (e : Word) : Core :=
  let l := c.tlb.filter (fun x => x.1 != t)
  { c with tlb := (if 512 ≤ l.length then l.drop 1 else l) ++ [(t, e)] }

/-- The leaf entry the translation cache holds for a page. -/
def tlbFind (c : Core) (t : Nat) : Option Word := (c.tlb.find? (fun x => x.1 = t)).map Prod.snd

/-- Whether a queue entry names a handle: `vld`, `vst`, `vgat` and `vsca` with H = 1 (R214, R231, R235). -/
def namesHandle (i : Instr) (h : Fin 16) : Bool :=
  match i with
  | .vld _ f | .vst _ f => mfH f && ix16 f.a = h
  | .vgat _ f | .vsca _ f => mfH f && ix16 f.b = h
  | _ => false

/-- `xlat` and `hinv` wait while a vector entry that has not completed names the handle (R214). -/
def handleFree (b : Bank) (h : Reg) : Except Stop Unit :=
  if b.vec.queue.any (fun e => namesHandle e.i (ix16 h)) then .error (.wait (.naming false (ix16 h).val)) else .ok ()

/-- What `xlat` of an address puts into a handle of core k (R101), if the address lies in a segment: the window and
mapping, or a pending walk where the translation cache misses. -/
def lookUp (s : State) (k : Fin 16) (b : Bank) (va : Word) : Option Handle :=
  (findSeg (s.segsOf b) va.toNat).map (fun (i, g) =>
    let base : Handle :=
      { v := true, pd := false, ck := segChecked g, tier := BitVec.ofNat 2 g.tier, r := g.r, w := g.w, x := g.x,
        va := va.setWidth 56, seg := i, lo := g.vbase, hi := g.vbase + g.len,
        phys := if g.tier = 0 then onKey g.vbase else g.pbase, missing := false }
    if !g.pg then base
    else
      let lo := va.toNat / 0x10000 * 0x10000
      let page : Handle := { base with pd := true, lo := lo, hi := lo + 0x10000, phys := 0 }
      match tlbFind (s.core k) (tlbTag b.slot va.toNat) with
      | some e => { page with pd := false, phys := ptePPN e }
      | none => page)

/-- R101: look an address up into a handle. -/
def execXlat (h ra : Reg) (s : State) : Out :=
  let b := s.bk
  let va := getReg b ra
  finish s <| (handleFree b h).bind fun _ =>
    match lookUp s s.cur b va with
    | none => ctlFault .segv va
    | some v => .ok (retire (s.setBk (putHandle b h v)) 1)

/-- R102: V := 0, PD := 0, and any pending walk is discarded. -/
def execHinv (h : Reg) (s : State) : Out :=
  finish s (do
    handleFree s.bk h
    .ok (retire (s.setBk (putHandle s.bk h
      { getHandle s.bk h with v := false, pd := false, missing := false })) 1))

/-- The visible state of a handle (R102). -/
def packHandle (h : Handle) : Word :=
  (if h.v then 0x8000000000000000#64 else 0) ||| (if h.pd then 0x4000000000000000#64 else 0)
    ||| (if h.ck then 0x2000000000000000#64 else 0) ||| ((h.tier.setWidth 64) <<< 59)
    ||| (if h.r then 0x0400000000000000#64 else 0) ||| (if h.w then 0x0200000000000000#64 else 0)
    ||| (if h.x then 0x0100000000000000#64 else 0) ||| h.va.setWidth 64

/-- R102: query a handle. -/
def execHq (rd h : Reg) (s : State) : Out := .next (writeReg s rd (packHandle (getHandle s.bk h)))

/-- R98, R99, R101: the pending walk of a handle of core k finishes and PD clears: the entry is installed, or the page is
not present. -/
def execTranslationWalk (k : Fin 16) (hn : Fin 16) (s : State) : Out :=
  .next (onCore s k (fun s =>
    let b := s.bk
    let h := b.handles.get hn
    if !h.v || !h.pd || h.missing || clStalled s s.cur then s
    else
      let put (s : State) (h : Handle) : State := s.setBk { s.bk with handles := s.bk.handles.set hn.val h hn.isLt }
      let chk := match (s.segsOf b)[h.seg]? with
        | some g => g.chk
        | none => false
      match walk s (s.rootOf b) chk h.va.toNat with
      | none => put s { h with pd := false, missing := true }
      | some (loc, e) =>
        let s := s.pteMark loc 0x4
        let s := s.setCore k (tlbInsert (s.core k) (tlbTag b.slot h.va.toNat) e)
        put s { h with pd := false, phys := ptePPN e }))

end Sys2Proof.Machine
end

