-- ==== Sys2Proof/Machine/Chan.lean ====
section
/-!
DEFINITION. Channels as every engine sees them (R18 to R20, R194, R199): finding the home register of a channel or of
a view, its waits, its advances, and the bytes of its ring.
-/
namespace Sys2Proof.Machine

/-- Where the context of a launch slot has its bank on core k: resident, or saved. -/
def State.locOf (s : State) (k slot : Fin 16) : Option Loc :=
  match s.residentAt k slot with
  | some b => some (.bank b)
  | none => if ((s.launch slot).bind (fun l => savedBank l k)).isSome then some (.saved slot) else none

/-- A channel register of core k's context bank. -/
def chanAt (b : Bank) (n : Fin 16) : Chan := b.chans.get n

/-- The home register of channel n as a bank of core k names it, and where it lives; none when the home would refuse
the request: the register is unset, or its BASE differs from the view's (R194). -/
def State.chanHome (s : State) (k : Fin 16) (b : Bank) (loc : Loc) (n : Fin 16) : Option (Fin 16 × Loc × Chan) :=
  let c := chanAt b n
  if !c.set then none
  else if !c.view then some (k, loc, c)
  else
    (b.slot.bind (s.locOf c.home)).bind (fun hl =>
      (s.locBank c.home hl).bind (fun hb =>
        let hc := chanAt hb n
        if hc.set && !hc.view && hc.base = c.base then some (c.home, hl, hc) else none))

/-- The wait of a side (R19): FILLED ≥ n for a consumer, free ≥ n for a producer. -/
def chanReady (c : Chan) (producer : Bool) (n : Nat) : Bool :=
  if producer then n ≤ c.count - c.filled else n ≤ c.filled

/-- An advance the home applies (R19): n slots, 1 when n is 0; none when it would leave FILLED outside 0 to COUNT. -/
def chanAdvance (c : Chan) (producer : Bool) (n : Nat) : Option Chan :=
  let m := if n = 0 then 1 else n
  if !chanReady c producer m then none
  else if producer then some { c with head := (c.head + m) % c.count, filled := c.filled + m }
  else some { c with tail := (c.tail + m) % c.count, filled := c.filled - m }

/-- A `wfe` on core k wakes (R210). -/
def wakeWfe (b : Bank) : Bank :=
  match b.stall with
  | some (.wfe _) => { b with stall := some (.wfe 0) }
  | _ => b

/-- Replace the home register of channel n at core k; an advance there wakes a `wfe` of that core (R210). -/
def State.putHome (s : State) (k : Fin 16) (loc : Loc) (n : Fin 16) (c : Chan) : State :=
  match s.locBank k loc with
  | some b =>
    let s := s.setLocBank k loc { b with chans := b.chans.set n.val c n.isLt }
    (s.setBankAt k false (wakeWfe (s.bankAt k false))).setBankAt k true (wakeWfe ((s.bankAt k true)))
  | none => s

/-- Apply an advance of channel n named by a bank of core k; none when the home refuses it (R19, R194). -/
def State.advance (s : State) (k : Fin 16) (b : Bank) (loc : Loc) (n : Fin 16) (producer : Bool) (m : Nat) :
    Option State :=
  match s.chanHome k b loc n with
  | none => none
  | some (hk, hl, c) =>
    match chanAdvance c producer m with
    | none => none
    | some c' => some (s.putHome hk hl n c')

/-- The on-chip address of byte `off` of the packed string that starts at slot `t` of a ring (R220). -/
def ringAddr (c : Chan) (t off : Nat) : Nat := c.base + c.slot * ((t + off / c.slot) % c.count) + off % c.slot

/-- The pieces of n packed bytes from offset `off` on, each inside one slot and one 32-byte sector. -/
def ringParts (c : Chan) (t : Nat) : Nat → Nat → Nat → List (Nat × Nat)
  | 0, _, _ => []
  | f + 1, off, n =>
    if n = 0 then []
    else
      let a := ringAddr c t off
      let m := Nat.min n (Nat.min (32 - a % 32) (c.slot - off % c.slot))
      (a, m) :: ringParts c t f (off + m) (n - m)

/-- The channels an entry consumes from or produces into at its head: each with its side and its wait count (R19, R43).
A channel in field A of `vstc`, `cpyw`, `fsa` and `fsav` is produced into, and both rings of `kvstrm`. -/
def chanOperands (i : Instr) : List (Fin 16 × Bool × Nat) :=
  let h := (headOf i).getD ⟨0, 0, 0⟩
  let producerA := match i with
    | .vstc _ _ | .cpyw _ _ | .kvstrm _ _ | .fsa _ _ | .fsav _ _ => true
    | _ => false
  let producerB := match i with
    | .kvstrm _ _ => true
    | _ => false
  (match chanAOf i with
   | some n => [(n, producerA, schWA h)]
   | none => []) ++
  (match chanBOf i with
   | some n => [(n, producerB, schWB h)]
   | none => [])

/-- The rings of the channels an entry of core k names, at their homes (R446). -/
def ringRegions (s : State) (k : Fin 16) (b : Bank) (loc : Loc) (i : Instr) : List Region :=
  (chanOperands i).filterMap (fun o =>
    (s.chanHome k b loc o.1).map (fun h => memRegion h.2.2.base (h.2.2.slot * h.2.2.count)))

/-- The bytes a consumer reads from a ring (R220), with the first poison met. -/
def ringRead (s : State) (c : Chan) (t off n : Nat) : List Byte × Option Mark :=
  let ps := ringParts c t (n + 1) off n
  (ps.flatMap (fun p => s.bytesAt (onKey p.1) p.2), ps.findSome? (fun p => s.poisonAt (onKey p.1)))

/-- Write packed bytes to a ring; ring sectors take no tags (R125). -/
def ringWrite (c : Chan) (t : Nat) : List (Nat × Nat) → List Byte → State → State
  | [], _, s => s
  | (a, m) :: r, bs, s => ringWrite c t r (bs.drop m) (s.store (onKey a) (bs.take m))

/-- The BASE of a channel register as a fault address (R19, R194). -/
def chanBaseW (c : Chan) : Word := BitVec.ofNat 64 c.base

end Sys2Proof.Machine
end

