-- ==== Sys2Proof/Machine/Flags.lean ====
section
/-!
DEFINITION. Flag computations (R72, R216): the vector engine's sticky flags in VCTL, the relations of the compares
(R222, R223, R226), and the classes of `vclass`.
-/
namespace Sys2Proof.Machine

/-- Flags OR into VCTL when an instruction completes (R216). -/
def orFlags (vctl : Word) (f : FFlags) : Word := vctl ||| f.setWidth 64

/-- DQO, the deferral overflow flag (R216, R239). -/
def vctlDQO : Word := 0x20

/-- KP, the keep probability (R216). -/
def vctlKP (vctl : Word) : BitVec 16 := bits vctl 16 16

/-- The relation of `vcmp` (R222), with its flags. -/
def fcmp (fn : Nat) (a b : Val) : Bool × FFlags :=
  let n := a.isNaN || b.isNaN
  let iv : FFlags := if (if 2 ≤ fn && fn ≤ 5 then n else a.isSNaN || b.isSNaN) then fIV else 0
  let r :=
    match fn with
    | 0 => Val.eqv a b
    | 1 => !Val.eqv a b
    | 2 => !n && Val.lt a b
    | 3 => !n && !Val.lt b a
    | 4 => !n && Val.lt b a
    | 5 => !n && !Val.lt a b
    | 6 => n
    | _ => !n
  (r, iv)

/-- The relation of `vicmp` on width w (R223). -/
def icmp (fn w a b : Nat) : Bool :=
  match fn with
  | 0 => a = b
  | 1 => a != b
  | 2 => sInt w a < sInt w b
  | 3 => sInt w a ≤ sInt w b
  | 4 => sInt w b < sInt w a
  | 5 => sInt w b ≤ sInt w a
  | 6 => a < b
  | 7 => a ≤ b
  | 8 => b < a
  | _ => b ≤ a

/-- The relation of `vtfcmp` on width w (R226): patterns compare as signed integers, NaR lowest. -/
def tfcmp (fn w a b : Nat) : Bool :=
  match fn with
  | 0 => a = b
  | 1 => a != b
  | 2 => sInt w a < sInt w b
  | 3 => sInt w a ≤ sInt w b
  | 4 => sInt w b < sInt w a
  | 5 => sInt w b ≤ sInt w a
  | _ => a = 2 ^ (w - 1)

/-- The class bit of `vclass` (R222) of a code of FC 0, 1 or 2. -/
def fclass (fc code : Nat) : Nat :=
  let sub := (code / 2 ^ (fmtParams fc).2.1) % 2 ^ (fmtParams fc).1 = 0
  match decodeVal fc code with
  | .nan _ f => if f < 0x400000 then 1 else 2
  | .inf n => if n then 4 else 512
  | .fin n m _ =>
    if m = 0 then (if n then 32 else 64)
    else if sub then (if n then 16 else 128)
    else if n then 8 else 256

end Sys2Proof.Machine
end

