-- ==== Sys2Proof/Machine/VecOps.lean ====
section
/-!
DEFINITION. What the vector engine computes (R212 to R239): register images, masks, element placement, and for every
vector instruction that touches no memory its effect on the registers, masks, deferral queues and sticky flags.
-/
namespace Sys2Proof.Machine

/-! ## Images, shape and masks (R212 to R215) -/

/-- A vector register image: 4 KiB, row i at bits 2048i (R212). -/
abbrev Img := BitVec 32768

/-- A mask register: bit l of row i at 64i + l (R215). -/
abbrev MaskReg := BitVec 1024

/-- Replace the field [lo + w - 1 : lo] of an image. -/
def putBits {n : Nat} (x : BitVec n) (lo w v : Nat) : BitVec n :=
  (x &&& ~~~((BitVec.ofNat n (2 ^ w - 1)) <<< lo)) ||| ((BitVec.ofNat n (v % 2 ^ w)) <<< lo)

/-- Element j of row i at width w (R212). -/
def elt (x : Img) (w i j : Nat) : Nat := (bits x (2048 * i + w * j) w).toNat
def setElt (x : Img) (w i j v : Nat) : Img := putBits x (2048 * i + w * j) w v

/-- Byte b of row i. -/
def rowByte (x : Img) (i b : Nat) : Nat := elt x 8 i b

def shpRows (shp : Word) : Nat := (bits shp 0 5).toNat
def shpLN (shp : Word) : Nat := (bits shp 8 7).toNat

/-- E(w), the elements per row (R212). -/
def eCount (shp : Word) (w : Nat) : Nat := shpLN shp * 32 / w

/-- The elements (i, j) of a shape in ascending row, then element, order. -/
def cells (rows n : Nat) : List (Nat × Nat) := (List.range rows).flatMap (fun i => (List.range n).map (fun j => (i, j)))

def maskBit (m : MaskReg) (i l : Nat) : Bool := bit m (64 * i + l)

/-- Whether element (i, j) of width w is active (R215). -/
def isActive (me : Bool) (m : MaskReg) (w i j : Nat) : Bool := !me || maskBit m i (j * w / 32)

/-- The registers an entry reads (R219): images of operands a, b and c and the old destination, and its mask. -/
structure VSrc where
  a : Img
  b : Img
  c : Img
  d : Img
  mask : MaskReg
  deriving DecidableEq, Repr

/-- An elementwise instruction: every active element of the shape gets f's value, inactive ones are kept or zeroed
(R215, R219). -/
def mapElems (shp : Word) (w : Nat) (me mz : Bool) (m : MaskReg) (d : Img) (f : Nat → Nat → Nat × FFlags) :
    Img × FFlags :=
  (cells (shpRows shp) (eCount shp w)).foldl
    (fun r p =>
      if isActive me m w p.1 p.2 then
        let v := f p.1 p.2
        (setElt r.1 w p.1 p.2 v.1, r.2 ||| v.2)
      else if mz then (setElt r.1 w p.1 p.2 0, r.2) else r)
    (d, 0)

/-- FC of a floating-point T (R217). -/
def fpType (t : BitVec 2) : Nat := if t = 0#2 then 0 else if t = 1#2 then 2 else 1

/-- Width of an integer T (R217). -/
def intWidth (t : BitVec 2) : Nat := if t = 0#2 then 32 else if t = 1#2 then 16 else 8

/-- A floating-point instruction of layout A over decoded operands (R222). -/
def fpOp (e : Entry) (f : LayA) (x : VSrc) (g : Nat → Val → Val → Val → Nat × FFlags) : Img × FFlags :=
  let fc := fpType (cmT f)
  let w := fmtWidth fc
  mapElems e.shp w (cmME f) (cmMZ f) x.mask x.d (fun i j =>
    g fc (decodeVal fc (elt x.a w i j)) (decodeVal fc (elt x.b w i j)) (decodeVal fc (elt x.c w i j)))

/-- An integer instruction of layout A over element patterns (R223). -/
def intOp (e : Entry) (f : LayA) (x : VSrc) (g : Nat → Nat → Nat → Nat → Nat) : Img × FFlags :=
  let w := intWidth (cmT f)
  mapElems e.shp w (cmME f) (cmMZ f) x.mask x.d (fun i j =>
    (g w (elt x.a w i j) (elt x.b w i j) (elt x.c w i j) % 2 ^ w, 0))

/-- All ones at width w, or zero. -/
def onesIf (w : Nat) (c : Bool) : Nat := if c then 2 ^ w - 1 else 0

/-- Saturate or wrap an exact integer result (R223). -/
def satInt (fn w : Nat) (x : Int) : Nat :=
  match fn with
  | 1 => intToInt x w true
  | 2 => if x < 0 then 0 else if (2 ^ w : Nat) ≤ x then 2 ^ w - 1 else x.toNat
  | _ => (x % (2 ^ w : Nat)).toNat

/-- `viadd` and `visub` (R223): the exact sum or difference, of signed or unsigned readings, narrowed by FN. -/
def addSub (fn w : Nat) (sub : Bool) (a b : Nat) : Nat :=
  let (x, y) : Int × Int := if fn = 1 then (sInt w a, sInt w b) else ((a : Int), (b : Int))
  satInt fn w (if sub then x - y else x + y)

/-- `vimul` (R223). -/
def mulPart (fn w a b : Nat) : Nat :=
  match fn with
  | 1 => ((sInt w a * sInt w b) / (2 ^ w : Nat) % (2 ^ w : Nat)).toNat
  | 2 => a * b / 2 ^ w
  | _ => a * b % 2 ^ w

/-- A shift amount: the low log2(w) bits (R223). -/
def vShift (w b : Nat) : Nat := b % w

/-- Arithmetic shift right of a pattern of width w. -/
def sarPat (w a n : Nat) : Nat := ((sInt w a) / (2 ^ n : Nat) % (2 ^ w : Nat)).toNat

/-- Absolute value and negation change only the sign bit (R76). -/
def absPat (w a : Nat) : Nat := a % 2 ^ (w - 1)
def negPat (w a : Nat) : Nat := (a + 2 ^ (w - 1)) % 2 ^ w

/-! ## Conversions (R224, R225) -/

def convOp (e : Entry) (f : LayB) (x : VSrc) : Img × FFlags :=
  let wF := fmtWidth (cvFrom f)
  let wT := fmtWidth (cvTo f)
  let wM := Nat.max wF wT
  let n := eCount e.shp wM
  let so := if wF < wT then cvPART f * n else 0
  let dO := if wT < wF then cvPART f * n else 0
  (cells (shpRows e.shp) n).foldl
    (fun r p =>
      if isActive (cvME f) x.mask wM p.1 p.2 then
        let v := convert (cvFrom f) (cvTo f) (elt x.a wF p.1 (so + p.2)) (cvRZ f) (cvSAT f)
        (setElt r.1 wT p.1 (dO + p.2) v.1, r.2 ||| v.2)
      else if cvMZ f then (setElt r.1 wT p.1 (dO + p.2) 0, r.2) else r)
    (x.d, 0)

/-! ## Block quantisation (R227 to R230) -/

/-- FC of the wide side WT. -/
def wideFC (f : LayB) : Nat := fpType (bkWT f)

/-- Scale bytes of a stored row of n elements (R64). -/
def scaleBytes (fx : Word) (n : Nat) : Nat := if fmtRSC fx then 1 else n / 8

/-- A stored row of E2M1 codes and scale bytes, as its bytes (R60, R64). -/
def packE2M1 : List Nat → List Nat
  | a :: b :: r => (a + 16 * b) :: packE2M1 r
  | [a] => [a]
  | [] => []

/-- QBlock over consecutive groups (R73, R228): all codes, the scale bytes, the flags; with fuel. -/
def qGroups (sf g : Nat) : Nat → List Val → List Nat × List Nat × FFlags
  | 0, _ => ([], [], 0)
  | k + 1, l =>
    if l.isEmpty then ([], [], 0)
    else
      let q := qBlock (l.take g) sf
      let r := qGroups sf g k (l.drop g)
      (q.1 ++ r.1, q.2.1 :: r.2.1, q.2.2 ||| r.2.2)

/-- Write bytes to a row from byte 0. -/
def putRowBytes (x : Img) (i : Nat) : Nat → List Nat → Img
  | _, [] => x
  | b, v :: r => putRowBytes (setElt x 8 i b v) i (b + 1) r

/-- `vqblk` (R228): IV, OF and NX are set. -/
def qblkOp (e : Entry) (f : LayB) (x : VSrc) : Img × FFlags :=
  let fc := wideFC f
  let n := fmtROW e.fxs
  (List.range (shpRows e.shp)).foldl
    (fun r i =>
      let vs := (List.range n).map (fun j => decodeVal fc (elt x.a (fmtWidth fc) i j))
      let q := qGroups (fmtSF e.fxs) (if fmtRSC e.fxs then n else 8) n vs
      let bytes := packE2M1 q.1 ++ q.2.1
      let pad := List.replicate (4 * shpLN e.shp - bytes.length) 0
      (putRowBytes r.1 i 0 (bytes ++ pad), r.2 ||| (q.2.2 &&& (fIV ||| fOF ||| fNX))))
    (x.d, 0)

/-- The scale of element j of a stored row held in row i of an image (R64). -/
def rowScale (fx : Word) (x : Img) (i j : Nat) : Val :=
  let base := fmtROW fx / 2
  decodeVal (fmtSF fx) (rowByte x i (base + (if fmtRSC fx then 0 else j / 8)))

/-- `vdqblk` (R228). -/
def dqblkOp (e : Entry) (f : LayB) (x : VSrc) : Img × FFlags :=
  let fc := wideFC f
  let st : List Val := if fmtBND e.fxs then [decodeVal 1 (bits e.xb 0 16).toNat] else []
  (cells (shpRows e.shp) (fmtROW e.fxs)).foldl
    (fun r p =>
      let q := decodeVal 5 (elt x.a 4 p.1 p.2)
      let v := roundIEEE (applyScales q (rowScale e.fxs x.a p.1 p.2 :: st)) fc
      (setElt r.1 (fmtWidth fc) p.1 p.2 v.1, r.2 ||| v.2))
    (x.d, 0)

/-- The exact sum of a list of finite values, −0 only when every addend is −0 (R80, R230). -/
def exactSum : List Val → Val
  | [] => .fin false 0 0
  | v :: r => r.foldl (fun a b => (Val.add? a b).getD .defNaN) v

/-- Whether a scale is NaN, infinite or negative (R64). -/
def badScale (s : Val) : Bool := s.isNaN || s.isInf || (s.neg && !s.isZero)

/-- One row of `vdot4` (R230): element 0 of the result, and the flags. -/
def dot4Row (e : Entry) (acc : Bool) (useT : Bool) (x : VSrc) (i : Nat) : Nat × FFlags :=
  let start : Nat × FFlags := (if acc then elt x.d 32 i 0 else 0, 0)
  let r := (List.range (fmtROW e.fxs / 8)).foldl
    (fun r b =>
      let sa := rowScale e.fxs x.a i (8 * b)
      let sb := rowScale e.fxs x.b i (8 * b)
      let (t, f) : Val × FFlags :=
        if badScale sa || badScale sb then (.defNaN, fIV)
        else if sa.isZero || sb.isZero then (.fin false 0 0, 0)
        else
          let ps := (List.range 8).map (fun j =>
            (Val.mul? (decodeVal 5 (elt x.a 4 i (8 * b + j))) (decodeVal 5 (elt x.b 4 i (8 * b + j)))).getD .defNaN)
          (((Val.mul? (exactSum ps) sa).bind (fun v => Val.mul? v sb)).getD .defNaN, 0)
      let v := fAdd 0 (decodeVal 0 r.1) t
      (v.1, r.2 ||| f ||| v.2))
    start
  if !useT then
    let v := withNaN [decodeVal 0 r.1] 0 (roundIEEE (decodeVal 0 r.1) 0)
    (v.1, r.2 ||| v.2)
  else
    let ta := decodeVal 1 (bits e.xc 0 16).toNat
    let tb := decodeVal 1 (bits e.xc 16 16).toNat
    let a := decodeVal 0 r.1
    let v := withNaN [a, ta, tb] 0 (roundOr ((Val.mul? ta tb).bind (fun t => Val.mul? a t)) 0)
    (v.1, r.2 ||| v.2)

/-- `vdot4` (R230). -/
def dot4Op (e : Entry) (f : LayA) (x : VSrc) : Img × FFlags :=
  (List.range (shpRows e.shp)).foldl
    (fun r i =>
      let v := dot4Row e (bit f.m 4) (f.c != 0#6) x i
      let d := (List.range (shpLN e.shp - 1)).foldl (fun d l => setElt d 32 i (l + 1) 0) r.1
      (setElt d 32 i 0 v.1, r.2 ||| v.2))
    (x.d, 0)

/-! ## Reductions (R229) -/

/-- One level of the pairwise tree. -/
def pairUp (g : Nat → Nat → Nat × FFlags) : List Nat → List Nat × FFlags
  | a :: b :: r =>
    let v := g a b
    let q := pairUp g r
    (v.1 :: q.1, v.2 ||| q.2)
  | l => (l, 0)

/-- The fixed pairwise tree, with fuel the length of the list. -/
def pairTree (g : Nat → Nat → Nat × FFlags) : Nat → List Nat → List Nat × FFlags
  | 0, l => (l, 0)
  | k + 1, l =>
    if l.length ≤ 1 then (l, 0)
    else
      let p := pairUp g l
      let q := pairTree g k p.1
      (q.1, p.2 ||| q.2)

/-- The combination of `vred` (R229) on patterns. -/
def redCombine (fn fc w a b : Nat) : Nat × FFlags :=
  match fn with
  | 0 => fAdd fc (decodeVal fc a) (decodeVal fc b)
  | 1 => fMax fc (decodeVal fc a) (decodeVal fc b)
  | 2 => fMin fc (decodeVal fc a) (decodeVal fc b)
  | 3 => ((a + b) % 2 ^ w, 0)
  | 4 => (if sInt w a < sInt w b then b else a, 0)
  | 5 => (if sInt w a < sInt w b then a else b, 0)
  | 6 => (if a < b then b else a, 0)
  | _ => (if a < b then a else b, 0)

/-- The result of `vred` with no active element (R229). -/
def redEmpty (fn fc w : Nat) : Nat :=
  match fn with
  | 0 => 0
  | 1 => (roundIEEE (.inf true) fc).1
  | 2 => (roundIEEE (.inf false) fc).1
  | 3 => 0
  | 4 => 2 ^ (w - 1)
  | 5 => 2 ^ (w - 1) - 1
  | 6 => 0
  | _ => 2 ^ w - 1

/-- Reduce a list of active elements by the tree or sequentially: NaN rules of R229 for the floating-point ones. -/
def redList (fn fc w : Nat) (tree : Bool) (l : List Nat) : Nat × FFlags :=
  let r : List Nat × FFlags :=
    if tree then pairTree (redCombine fn fc w) l.length l
    else
      match l with
      | [] => ([], 0)
      | a :: t =>
        let q := t.foldl (fun (r : Nat × FFlags) b =>
          let v := redCombine fn fc w r.1 b
          (v.1, r.2 ||| v.2)) (a, 0)
        ([q.1], q.2)
  let v := r.1.headD (redEmpty fn fc w)
  if fn ≤ 2 then
    match (l.map (decodeVal fc)).find? Val.isNaN with
    | some n => ((roundIEEE n.quieted fc).1, r.2 ||| (if (l.map (decodeVal fc)).any Val.isSNaN then fIV else 0))
    | none => (v, r.2)
  else (v, r.2)

/-- `vred` (R229). -/
def redOp (e : Entry) (f : LayA) (x : VSrc) : Img × FFlags :=
  let fn := cmFN f
  let fc := fpType (cmT f)
  let w := if fn ≤ 2 then fmtWidth fc else intWidth (cmT f)
  let n := eCount e.shp w
  if cmMZ f then
    (List.range n).foldl
      (fun r j =>
        let l := ((List.range (shpRows e.shp)).filter (fun i => isActive (cmME f) x.mask w i j)).map
          (fun i => elt x.a w i j)
        let v := redList fn fc w false l
        (setElt r.1 w 0 j v.1, r.2 ||| v.2))
      (x.d, 0)
  else
    (List.range (shpRows e.shp)).foldl
      (fun r i =>
        let l := ((List.range n).filter (fun j => isActive (cmME f) x.mask w i j)).map (fun j => elt x.a w i j)
        let v := redList fn fc w true l
        let d := (List.range n).foldl (fun d j => setElt d w i j 0) r.1
        (setElt d w i 0 v.1, r.2 ||| v.2))
      (x.d, 0)

/-! ## Movement (R233, R234) -/

def movOp (e : Entry) (f : LayA) (x : VSrc) : Img × FFlags :=
  mapElems e.shp 32 (cmME f) (cmMZ f) x.mask x.d (fun i j => (elt x.a 32 i j, 0))

def selOp (e : Entry) (x : VSrc) : Img × FFlags :=
  mapElems e.shp 32 false false x.mask x.d (fun i j =>
    (if maskBit x.mask i j then elt x.a 32 i j else elt x.b 32 i j, 0))

def permOp (e : Entry) (f : LayA) (x : VSrc) : Img × FFlags :=
  let w := intWidth (cmT f)
  mapElems e.shp w (cmME f) (cmMZ f) x.mask x.d (fun i j =>
    (elt x.a w i (elt x.b w i j % eCount e.shp w), 0))

/-- `vtrans` (R233): element (i, 16q + j) := element (j, 16q + i). -/
def transOp (e : Entry) (f : LayA) (x : VSrc) : Img × FFlags :=
  let w := intWidth (cmT f)
  mapElems e.shp w false false x.mask x.d (fun i j => (elt x.a w (j % 16) (j / 16 * 16 + i), 0))

def bcastWidth (f : LayB) : Nat := intWidth (bcW f)

def bcastOp (e : Entry) (f : LayB) (x : VSrc) : Img × FFlags :=
  let w := bcastWidth f
  mapElems e.shp w (bcME f) (bcMZ f) x.mask x.d (fun i _ =>
    (if bcR f then elt x.a w i (bcIDX f) else e.xa.toNat % 2 ^ w, 0))

/-! ## Masks and random numbers (R236, R237) -/

/-- `mlog` (R236): the bits of the shape of mD. -/
def mlogOp (e : Entry) (f : LayA) (x : Img) (mx mb md : MaskReg) : MaskReg :=
  (cells (shpRows e.shp) (shpLN e.shp)).foldl
    (fun r p =>
      let i := p.1
      let l := p.2
      let v :=
        match cmFN f with
        | 0 => maskBit mx i l && maskBit mb i l
        | 1 => maskBit mx i l || maskBit mb i l
        | 2 => maskBit mx i l != maskBit mb i l
        | 3 => maskBit mx i l && !maskBit mb i l
        | 4 => !maskBit mx i l
        | 5 => true
        | 6 => false
        | _ => elt x 32 i l != 0
      putBits r (64 * i + l) 1 (if v then 1 else 0))
    md

/-- The random-number index of element (i, j) (R237). -/
def randLane (i j : Nat) : Word := BitVec.ofNat 64 (512 * i + j)

def keepOp (e : Entry) (f : LayA) (x : VSrc) : Img × FFlags :=
  let w := fmtWidth (fpType (cmT f))
  mapElems e.shp w (cmME f) (cmMZ f) x.mask x.d (fun i j =>
    (if (bits (rand e.xb e.xc (randLane i j)) 0 16).ult e.kp then elt x.a w i j else 0, 0))

def rngOp (e : Entry) (f : LayA) (x : VSrc) : Img × FFlags :=
  mapElems e.shp 32 (cmME f) (cmMZ f) x.mask x.d (fun i j =>
    let r := rand e.xa e.xb (randLane i j)
    (if cmFN f = 0 then randU r else (bits r 0 32).toNat, 0))

/-! ## The register-to-register instructions, one by one -/

/-- The destination image and the flags of an instruction that computes from registers (or channel data) to a vector
register (R222 to R237); none for the others. -/
def vecCompute (e : Entry) (x : VSrc) : Option (Img × FFlags) :=
  match e.i with
  | .vadd _ f => some (fpOp e f x (fun fc a b _ => fAdd fc a b))
  | .vsub _ f => some (fpOp e f x (fun fc a b _ => fSub fc a b))
  | .vmul _ f => some (fpOp e f x (fun fc a b _ => fMul fc a b))
  | .vfma _ f => some (fpOp e f x (fun fc a b c => fFma fc false false a b c))
  | .vfms _ f => some (fpOp e f x (fun fc a b c => fFma fc false true a b c))
  | .vfnma _ f => some (fpOp e f x (fun fc a b c => fFma fc true false a b c))
  | .vdiv _ f => some (fpOp e f x (fun fc a b _ => fDiv fc a b))
  | .vsqrt _ f => some (fpOp e f x (fun fc a _ _ => fSqrt fc a))
  | .vmin _ f => some (fpOp e f x (fun fc a b _ => fMin fc a b))
  | .vmax _ f => some (fpOp e f x (fun fc a b _ => fMax fc a b))
  | .vabs _ f =>
    let w := fmtWidth (fpType (cmT f))
    some (mapElems e.shp w (cmME f) (cmMZ f) x.mask x.d (fun i j => (absPat w (elt x.a w i j), 0)))
  | .vneg _ f =>
    let w := fmtWidth (fpType (cmT f))
    some (mapElems e.shp w (cmME f) (cmMZ f) x.mask x.d (fun i j => (negPat w (elt x.a w i j), 0)))
  | .vcmp _ f =>
    some (fpOp e f x (fun fc a b _ =>
      let r := fcmp (cmFN f) a b
      (onesIf (fmtWidth fc) r.1, r.2)))
  | .vclass _ f =>
    let fc := fpType (cmT f)
    let w := fmtWidth fc
    some (mapElems e.shp w (cmME f) (cmMZ f) x.mask x.d (fun i j => (fclass fc (elt x.a w i j), 0)))
  | .vexp2 _ f =>
    some (fpOp e f x (fun fc a _ _ =>
      if cmFN f = 0 then fExp2 fc a
      else
        let r := expE a
        if fc = 0 then r
        else
          let q := roundIEEE (decodeVal 0 r.1) fc
          (q.1, r.2 ||| q.2)))
  | .vlog2 _ f => some (fpOp e f x (fun fc a _ _ => fLog2 fc a))
  | .viadd _ f => some (intOp e f x (fun w a b _ => addSub (cmFN f) w false a b))
  | .visub _ f => some (intOp e f x (fun w a b _ => addSub (cmFN f) w true a b))
  | .vimul _ f => some (intOp e f x (fun w a b _ => mulPart (cmFN f) w a b))
  | .vimad _ f => some (intOp e f x (fun _ a b c => a * b + c))
  | .viand _ f => some (intOp e f x (fun _ a b _ => a &&& b))
  | .vior _ f => some (intOp e f x (fun _ a b _ => a ||| b))
  | .vixor _ f => some (intOp e f x (fun _ a b _ => a ^^^ b))
  | .vishl _ f => some (intOp e f x (fun w a b _ => a * 2 ^ vShift w b))
  | .vishr _ f => some (intOp e f x (fun w a b _ => a / 2 ^ vShift w b))
  | .visar _ f => some (intOp e f x (fun w a b _ => sarPat w a (vShift w b)))
  | .vimin _ f =>
    some (intOp e f x (fun w a b _ =>
      if cmFN f = 0 then (if sInt w a < sInt w b then a else b) else Nat.min a b))
  | .vimax _ f =>
    some (intOp e f x (fun w a b _ =>
      if cmFN f = 0 then (if sInt w a < sInt w b then b else a) else Nat.max a b))
  | .vicmp _ f => some (intOp e f x (fun w a b _ => onesIf w (icmp (cmFN f) w a b)))
  | .vcvt _ f | .vtfenc _ f | .vtfdec _ f => some (convOp e f x)
  | .vtfcmp _ f =>
    some (intOp e f x (fun w a b _ => onesIf w (tfcmp (cmFN f) w a b)))
  | .vqblk _ f => some (qblkOp e f x)
  | .vdqblk _ f => some (dqblkOp e f x)
  | .vred _ f => some (redOp e f x)
  | .vdot4 _ f => some (dot4Op e f x)
  | .vmov _ f => some (movOp e f x)
  | .vsel _ _ => some (selOp e x)
  | .vbcast _ f => some (bcastOp e f x)
  | .vperm _ f => some (permOp e f x)
  | .vtrans _ f => some (transOp e f x)
  | .vkeep _ f => some (keepOp e f x)
  | .vrng _ f => some (rngOp e f x)
  | _ => none

/-- The mask register an entry's MK names, and whether it takes it (R215, R224, R231, R234). -/
def maskOf : Instr → Option (BitVec 4)
  | .vcvt _ f | .vtfenc _ f | .vtfdec _ f => if cvME f then some (cvMK f) else none
  | .vld _ f | .vst _ f | .vgat _ f | .vsca _ f => if mfME f then some (mfMK f) else none
  | .vbcast _ f => if bcME f then some (bcMK f) else none
  | .mlog _ _ | .vshape _ _ | .vqblk _ _ | .vdqblk _ _ | .vdot4 _ _ | .vtrans _ _ | .vdcnt _ _ => none
  | i => (layOf i).bind (fun f => if cmME f then some (cmMK f) else none)

/-! ## What an entry reads and writes of a register, lane by lane (R213, R215) -/

/-- Lane l of row i lies in a shape. -/
def inShape (shp : Word) (i l : Nat) : Bool := i < shpRows shp && l < shpLN shp

/-- An active lane of an entry's shape (R215). -/
def laneActive (e : Entry) (m : MaskReg) (i l : Nat) : Bool :=
  inShape e.shp i l && isActive (maskOf e.i).isSome m 32 i l

/-- The bytes of a stored row: codes and scales (R227). -/
def storedBytes (e : Entry) : Nat := fmtROW e.fxs / 2 + scaleBytes e.fxs (fmtROW e.fxs)

/-- Whether a conversion reads lane l of row i (R225). -/
def convReads (e : Entry) (f : LayB) (m : MaskReg) (i l : Nat) : Bool :=
  let wF := fmtWidth (cvFrom f)
  let wM := Nat.max wF (fmtWidth (cvTo f))
  let n := eCount e.shp wM
  let so := if wF < wM then cvPART f * n else 0
  i < shpRows e.shp && (List.range n).any (fun j => (so + j) * wF / 32 = l && isActive (cvME f) m wM i j)

/-- Whether a conversion writes the whole of lane l of row i (R225). -/
def convWrites (e : Entry) (f : LayB) (m : MaskReg) (i l : Nat) : Bool :=
  let wT := fmtWidth (cvTo f)
  let wM := Nat.max (fmtWidth (cvFrom f)) wT
  let n := eCount e.shp wM
  let first := if wT < wM then cvPART f * n else 0
  i < shpRows e.shp && (List.range (32 / wT)).all (fun x =>
    let j := 32 / wT * l + x
    first ≤ j && j < first + n && (cvMZ f || isActive (cvME f) m wM i (j - first)))

/-- Whether `vperm` reads lane l of row i of A, by its indices (R233). -/
def permReads (e : Entry) (f : LayA) (m : MaskReg) (ix : Img) (i l : Nat) : Bool :=
  let w := intWidth (cmT f)
  let n := eCount e.shp w
  i < shpRows e.shp && (List.range n).any (fun j => isActive (cmME f) m w i j && elt ix w i j % n * w / 32 = l)

/-- Whether an entry reads lane l of row i of operand a; `ix` is the image of the indices of a `vperm`. -/
def readsA (e : Entry) (m : MaskReg) (ix : Img) (i l : Nat) : Bool :=
  match e.i with
  | .vcvt _ f | .vtfenc _ f | .vtfdec _ f => convReads e f m i l
  | .vqblk _ f => i < shpRows e.shp && 32 * l < fmtROW e.fxs * fmtWidth (wideFC f)
  | .vdqblk _ _ | .vdot4 _ _ => i < shpRows e.shp && 4 * l < storedBytes e
  | .vsel _ _ => inShape e.shp i l && maskBit m i l
  | .vperm _ f => permReads e f m ix i l
  | .vbcast _ f =>
    i < shpRows e.shp && l = bcIDX f * bcastWidth f / 32 && (List.range (shpLN e.shp)).any (fun x => laneActive e m i x)
  | _ => laneActive e m i l

/-- Whether an entry reads lane l of row i of operand b. -/
def readsB (e : Entry) (m : MaskReg) (i l : Nat) : Bool :=
  match e.i with
  | .vdot4 _ _ => i < shpRows e.shp && 4 * l < storedBytes e
  | .vsel _ _ => inShape e.shp i l && !maskBit m i l
  | _ => laneActive e m i l

/-- The vector registers an entry reads as sources, each with the lanes it reads of it. -/
def laneSrcs (e : Entry) (m : MaskReg) (ix : Img) : List (Nat × (Nat → Nat → Bool)) :=
  let a := if (chanAOf e.i).isSome then [] else [(e.va % 64, readsA e m ix)]
  let b := if (chanBOf e.i).isSome then [] else [(e.vb % 64, readsB e m)]
  let d := [(e.vd % 64, laneActive e m)]
  match e.i with
  | .vld _ _ | .vldc _ _ | .vshape _ _ | .vdrn _ _ | .vdcnt _ _ | .vrng _ _ => []
  | .vst _ _ | .vstc _ _ | .vdfr _ _ => d
  | .vgat _ _ => [(e.va % 64, laneActive e m)]
  | .vsca _ _ => (e.va % 64, laneActive e m) :: d
  | .mlog _ f => if cmFN f = 7 then [(e.va % 64, laneActive e m)] else []
  | .vbcast _ f => if bcR f then a else []
  | .vfma _ _ | .vfms _ _ | .vfnma _ _ | .vimad _ _ => a ++ b ++ [(e.vc % 64, laneActive e m)]
  | .vdot4 _ f => a ++ b ++ (if bit f.m 4 then [(e.vd % 64, fun i l => i < shpRows e.shp && l = 0)] else [])
  | .vadd _ _ | .vsub _ _ | .vmul _ _ | .vdiv _ _ | .vmin _ _ | .vmax _ _ | .vcmp _ _ | .viadd _ _ | .visub _ _
  | .vimul _ _ | .viand _ _ | .vior _ _ | .vixor _ _ | .vishl _ _ | .vishr _ _ | .visar _ _ | .vimin _ _
  | .vimax _ _ | .vicmp _ _ | .vtfcmp _ _ | .vsel _ _ | .vperm _ _ => a ++ b
  | _ => a

/-- The vector registers an entry reads as sources. -/
def vregsRead (e : Entry) : List Nat := (laneSrcs e 0 0).map Prod.fst

/-- Whether MZ of an entry has its inactive elements zeroed (R215). -/
def zeroesRest : Instr → Bool
  | .vbcast _ f => bcMZ f
  | .vldc _ _ => false
  | i => (layOf i).any cmMZ

/-- Whether an entry writes the whole of lane l of row i of its destination register: a lane that it keeps, or writes in
part, it does not (R215, R224, R228, R229). -/
def writesLane (e : Entry) (m : MaskReg) (i l : Nat) : Bool :=
  match e.i with
  | .vst _ _ | .vstc _ _ | .vsca _ _ | .vdfr _ _ | .vshape _ _ | .mlog _ _ => false
  | .vcvt _ f | .vtfenc _ f | .vtfdec _ f => convWrites e f m i l
  | .vdqblk _ f => i < shpRows e.shp && 32 * (l + 1) ≤ fmtROW e.fxs * fmtWidth (wideFC f)
  | .vred _ f => inShape e.shp i l && (!cmMZ f || i = 0)
  | .vqblk _ _ | .vdot4 _ _ | .vdrn _ _ | .vdcnt _ _ | .vsel _ _ => inShape e.shp i l
  | .vld _ _ | .vgat _ _ => laneActive e m i l
  | i' => laneActive e m i l || (inShape e.shp i l && zeroesRest i')

end Sys2Proof.Machine
end

