-- ==== Sys2Proof/Machine/VecRun.lean ====
section
/-!
DEFINITION. Running the head entry of the vector queue (R219 to R221, R231 to R245): channel data, memory lanes with
their checks, the effect, and the faults the engine reports and the control core takes.
-/
namespace Sys2Proof.Machine

/-- Why an entry does not complete now: it waits, perhaps having started the exit of a parked slice (R446), it faults with no effect, or (a store) it faults with the stores
before the faulting sector performed (R243). -/
inductive VStop where
  | wait
  | waitAt (s : State)
  | flt (c : FaultCode) (addr : Word) (isl : BitVec 6)
  | fltAt (s : State) (c : FaultCode) (addr : Word) (isl : BitVec 6)
  | partialFault (s : State) (c : FaultCode) (addr : Word)
  deriving DecidableEq, Repr

/-! ## Channel operands (R220, R232) -/

/-- Bytes a channel operand supplies: ROWS × LN × 4 (R220). -/
def chanBytes (shp : Word) : Nat := shpRows shp * shpLN shp * 4

/-- Lanes of packed data laid into the rows of an image (R220). -/
def packLanes (shp : Word) (d : Img) (bs : List Byte) : Img :=
  (cells (shpRows shp) (shpLN shp)).foldl
    (fun x p => setElt x 32 p.1 p.2 (ofBytes ((bs.drop (4 * (p.1 * shpLN shp + p.2))).take 4))) d

/-- The ring of a channel operand, ready: its register at the home, or a wait, or SEGV (R194, R220, R243). -/
def vecChan (s : State) (b : Bank) (loc : Loc) (shp : Word) (n : Fin 16) (producer : Bool) (wait : Nat) :
    Except VStop Chan :=
  let own := chanAt b n
  match s.chanHome s.cur b loc n with
  | none => .error (.flt .segv (chanBaseW own) 0)
  | some (_, _, c) =>
    let need := (chanBytes shp + c.slot - 1) / c.slot
    if c.count < need then .error (.flt .segv (chanBaseW own) 0)
    else if chanReady c producer (Nat.max wait need) then .ok c
    else .error .wait

/-- The lanes of a channel operand that an entry reads or writes: inactive ones make no access (R215). -/
def lanesRead (shp : Word) (rd : Nat → Nat → Bool) : List (Nat × Nat) :=
  (cells (shpRows shp) (shpLN shp)).filter (fun p => rd p.1 p.2)

/-- The image of the data a consumed channel supplies (R220). -/
def ringImg (s : State) (c : Chan) (shp : Word) : Img := packLanes shp 0 (ringRead s c c.tail 0 (chanBytes shp)).1

/-- The on-chip address of the four bytes a channel supplies for a lane (R220). -/
def laneRingAddr (c : Chan) (t : Nat) (shp : Word) (p : Nat × Nat) : Nat :=
  ringAddr c t (4 * (p.1 * shpLN shp + p.2))

/-- Read a consumed channel operand into an image: poison of the bytes of a lane that is read stops the entry (R109,
R215). -/
def vecChanRead (s : State) (b : Bank) (loc : Loc) (shp : Word) (rd : Nat → Nat → Bool) (n : Fin 16) (wait : Nat) :
    Except VStop Img :=
  match vecChan s b loc shp n false wait with
  | .error e => .error e
  | .ok c =>
    match (lanesRead shp rd).findSome? (fun p => s.poisonAt (onKey (laneRingAddr c c.tail shp p))) with
    | some m => .error (.fltAt s (markCode m) (chanBaseW c) (markIsl m))
    | none => .ok (ringImg s c shp)

/-- An operand in a "vector or channel" field (R218). -/
def vecOperand (s : State) (b : Bank) (loc : Loc) (shp : Word) (rd : Nat → Nat → Bool) (ch : Option (Fin 16))
    (wait reg : Nat) : Except VStop Img :=
  match ch with
  | some n => vecChanRead s b loc shp rd n wait
  | none => .ok (b.vec.v.get ⟨reg % 64, Nat.mod_lt _ (by decide)⟩)

/-- Apply one advance; a refused one is SEGV with FLTA := BASE (R19, R243). -/
def advanceOr (s : State) (loc : Loc) (n : Fin 16) (producer : Bool) (w : Nat) : Except VStop State :=
  match s.advance s.cur s.bk loc n producer w with
  | some s => .ok s
  | none => .error (.flt .segv (chanBaseW (chanAt s.bk n)) 0)

/-- Apply the advances an entry's head asks for, A before B (R19, R42, R220). -/
def vecAdvance (s : State) (loc : Loc) (i : Instr) : Except VStop State :=
  let h := (headOf i).getD ⟨0, 0, 0⟩
  let producerA := match i with
    | .vstc _ _ => true
    | _ => false
  let a := match chanAOf i with
    | some n => if schAA h then advanceOr s loc n producerA (schWA h) else .ok s
    | none => .ok s
  match a with
  | .error e => .error e
  | .ok s =>
    match chanBOf i with
    | some n => if schAB h then advanceOr s loc n false (schWB h) else .ok s
    | none => .ok s

/-- An entry waits for slices that do not answer, and starts the exits of parked ones (R446). -/
def openSlices (s : State) (keys : List Nat) : Except VStop Unit :=
  match shutAt s keys with
  | [] => .ok ()
  | ks => .error (.waitAt (ks.foldl beginExit s))

/-- Whether a vector entry can start: every channel operand has its slots, else it waits (R220); a channel that spans too
many slots or whose home refuses is SEGV, and so is an advance the home would refuse (R19, R194, R243). -/
def vecGate (s : State) (loc : Loc) (e : Entry) : Except VStop Unit :=
  let rs := (chanOperands e.i).map (fun o => vecChan s s.bk loc e.shp o.1 o.2.1 o.2.2)
  match rs.findSome? (fun r => match r with
    | .error (.flt c a i) => some (c, a, i)
    | _ => none) with
  | some (c, a, i) => .error (.flt c a i)
  | none =>
    if rs.any (fun r => match r with
      | .ok _ => false
      | .error _ => true) then .error .wait
    else
      match vecAdvance s loc e.i with
      | .ok _ => openSlices s (rs.filterMap (fun r => match r with
        | .ok c => some (onKey c.base)
        | .error _ => none))
      | .error x => .error x

/-! ## Memory lanes (R231, R235, R243) -/

/-- One 32-bit access of an entry: its row and element, and its address as an integer. -/
structure Lane where
  i : Nat
  l : Nat
  a : Int
  deriving DecidableEq, Repr

/-- The checks 1 to 3 of R243 on one address through a handle (H = 1) or on-chip (H = 0), in the order R103 and
R104 give one access; an address is a 64-bit value (DEDUCED, log entry 70). -/
def laneTarget (s : State) (b : Bank) (hnd : Option (Fin 16)) (r w : Bool) (x : Int) : Except VStop Target :=
  let aw : Word := BitVec.ofInt 64 x
  let a := aw.toNat
  match hnd with
  | none =>
    match findSeg (s.segsOf b) a with
    | none => .error (.flt .segv aw 0)
    | some (_, g) =>
      if g.tier != 0 || g.vbase + g.len < a + 4 || (r && !g.r) || (w && !g.w) then .error (.flt .segv aw 0)
      else if a % 4 != 0 then .error (.flt .align aw 0)
      else .ok ⟨onKey a, a, true⟩
  | some hi =>
    let h := b.handles.get hi
    if !h.v then .error (.flt .hiv 0 0)
    else if a < h.lo || h.hi < a + 4 || (r && !h.r) || (w && !h.w) then .error (.flt .segv aw 0)
    else if a % 4 != 0 then .error (.flt .align aw 0)
    else .ok ⟨h.phys + (a - h.lo), a, h.ck⟩

/-- Steps 4 and 5 of R243 for an entry through a handle: the wait for the walk, then XF. -/
def handleReady (s : State) (b : Bank) (hnd : Option (Fin 16)) (w : Bool) (first : Word) : Except VStop Unit :=
  match hnd with
  | none => .ok ()
  | some hi =>
    let h := b.handles.get hi
    if h.pd then .error .wait
    else if h.missing then .error (.flt .xf first 0)
    else
      match (s.segsOf b)[h.seg]? with
      | some g =>
        if g.pg && w then
          match walk s (s.rootOf b) g.chk h.va.toNat with
          | some (_, e) => if pteW e then .ok () else .error (.fltAt (s.missPage hi) .xf first 0)
          | none => .error (.fltAt (s.missPage hi) .xf first 0)
        else .ok ()
      | none => .ok ()

/-- Check every active address before the first access (R243). -/
def laneTargets (s : State) (b : Bank) (hnd : Option (Fin 16)) (r w : Bool) :
    List Lane → Except VStop (List (Lane × Target))
  | [] => .ok []
  | p :: t =>
    match laneTarget s b hnd r w p.a with
    | .error e => .error e
    | .ok x =>
      match laneTargets s b hnd r w t with
      | .error e => .error e
      | .ok xs => .ok ((p, x) :: xs)

/-- One vector access of n bytes performs: the footprint check (R121), then the tag check (R124). -/
def laneCheck (s : State) (t : Target) (n : Nat) (w : Bool) : Except (Word) State :=
  if mmxClash s.bk t.va n w then .error (BitVec.ofNat 64 t.va)
  else
    match s.checkTag t (s.phaseOf s.bk) s.cur w with
    | some s => .ok s
    | none => .error (sectorVA t.va)

/-- The reads of an entry: MMX or poison leaves it with no effect (R243). -/
def laneReads : List (Lane × Target) → State → Img → Except VStop (State × Img)
  | [], s, d => .ok (s, d)
  | (p, t) :: r, s, d =>
    match laneCheck s t 4 false with
    | .error a => .error (.flt .mmx a 0)
    | .ok s =>
      let s := s.probe t.key 4 (ctxidOf s s.bk.slot)
      match s.poisonAt t.key with
      | some m => .error (.fltAt s (markCode m) (BitVec.ofNat 64 t.va) (markIsl m))
      | none => laneReads r s (setElt d 32 p.i p.l (s.readNat t.key 4))

/-- Whether two lanes of a row lie side by side in one sector, so that the row writes them together (R231). -/
def sameChunk (p q : Lane × Target) : Bool :=
  p.1.i = q.1.i && q.2.va = p.2.va + 4 && q.2.va / 32 = p.2.va / 32

/-- The writes of an entry: of a row, the lanes that lie side by side in a sector make one (`rows`); of a scatter, each
element is its own (R231, R235). -/
def laneChunks (rows : Bool) : List (Lane × Target) → List (List (Lane × Target))
  | [] => []
  | p :: r =>
    match laneChunks rows r with
    | (q :: c) :: cs => if rows && sameChunk p q then (p :: q :: c) :: cs else [p] :: (q :: c) :: cs
    | cs => [p] :: cs

/-- The writes of an entry in ascending row, then element: MMX at a sector keeps the stores before it (R243). A write
that covers a sector clears its poison (R109). -/
def laneWrites (src : Img) : List (List (Lane × Target)) → State → Except VStop State
  | [], s => .ok s
  | [] :: r, s => laneWrites src r s
  | ((p, t) :: c) :: r, s =>
    match laneCheck s t (4 * (c.length + 1)) true with
    | .error a => .error (.partialFault s .mmx a)
    | .ok s =>
      laneWrites src r ((s.setDirty s.bk t.va).store t.key
        (((p, t) :: c).flatMap (fun q => toBytes 4 (elt src 32 q.1.i q.1.l))))

/-- The active lanes of `vld` and `vst` with their addresses (R231). -/
def strideLanes (e : Entry) (f : LayB) (b : Bank) (m : MaskReg) : List Lane :=
  let base : Int := if mfH f then ((b.handles.get (ix16 f.a)).va.toNat : Int) else (e.xa.toNat : Int)
  let a0 := base + 4 * mfOFF f
  ((cells (shpRows e.shp) (shpLN e.shp)).filter (fun p => isActive (mfME f) m 32 p.1 p.2)).map
    (fun p => ⟨p.1, p.2, a0 + (p.1 : Int) * e.xb.toInt + 4 * (p.2 : Int)⟩)

/-- The active elements of `vgat` and `vsca` with their addresses (R235). -/
def indexLanes (e : Entry) (f : LayB) (b : Bank) (m : MaskReg) : List Lane :=
  let base : Int := if mfH f then ((b.handles.get (ix16 f.b)).va.toNat : Int) else (e.xb.toNat : Int)
  let idx := b.vec.v.get ⟨e.va % 64, Nat.mod_lt _ (by decide)⟩
  ((cells (shpRows e.shp) (shpLN e.shp)).filter (fun p => isActive (mfME f) m 32 p.1 p.2)).map
    (fun p => ⟨p.1, p.2, base + 4 * (elt idx 32 p.1 p.2 : Int)⟩)

/-- The first address of a list of lanes, as a fault address. -/
def firstAddr (l : List Lane) : Word := match l with
  | p :: _ => BitVec.ofInt 64 p.a
  | [] => 0

/-- The checked lanes of a memory instruction. -/
def memLanes (s : State) (hnd : Option (Fin 16)) (r w : Bool) (ls : List Lane) :
    Except VStop (List (Lane × Target)) :=
  match laneTargets s s.bk hnd r w ls with
  | .error e => .error e
  | .ok ts =>
    if ls.isEmpty then .ok ts
    else
      match handleReady s s.bk hnd w (firstAddr ls) with
      | .error e => .error e
      | .ok _ => (openSlices s (ts.map (fun p => p.2.key))).map (fun _ => ts)

/-! ## The effect of one entry -/

def setVReg (b : Bank) (r : Nat) (x : Img) : Bank :=
  { b with vec := { b.vec with v := b.vec.v.set (r % 64) x (Nat.mod_lt _ (by decide)) } }

def setMReg (b : Bank) (r : Nat) (x : MaskReg) : Bank :=
  { b with vec := { b.vec with m := b.vec.m.set (r % 16) x (Nat.mod_lt _ (by decide)) } }

def getVReg (b : Bank) (r : Nat) : Img := b.vec.v.get ⟨r % 64, Nat.mod_lt _ (by decide)⟩
def getMReg (b : Bank) (r : Nat) : MaskReg := b.vec.m.get ⟨r % 16, Nat.mod_lt _ (by decide)⟩

/-- Write a result register and OR the flags into VCTL. -/
def vecResult (s : State) (vd : Nat) (r : Img × FFlags) : State :=
  let b := setVReg s.bk vd r.1
  s.setBk { b with vec := { b.vec with vctl := orFlags b.vec.vctl r.2 } }

/-- A deferral queue (R239). -/
def dqOf (v : VecState) (q : Bool) : List (BitVec 32) := if q then v.dq1 else v.dq0
def setDq (v : VecState) (q : Bool) (l : List (BitVec 32)) : VecState :=
  if q then { v with dq1 := l } else { v with dq0 := l }

/-- `vdfr` (R239): elements beyond the 256th are discarded and set DQO. -/
def dfrOp (e : Entry) (f : LayA) (src : Img) (m : MaskReg) (v : VecState) : VecState :=
  let els := ((cells (shpRows e.shp) (shpLN e.shp)).filter (fun p => isActive (cmME f) m 32 p.1 p.2)).map
    (fun p => BitVec.ofNat 32 (elt src 32 p.1 p.2))
  let all := dqOf v (cmMZ f) ++ els
  let v := setDq v (cmMZ f) (all.take 256)
  if 256 < all.length then { v with vctl := v.vctl ||| vctlDQO } else v

/-- `vdrn` (R239): the drained elements, zero in the other lanes, and the filled lanes in mK with MW. -/
def drnOp (e : Entry) (f : LayA) (b : Bank) : Bank :=
  let q := dqOf b.vec (cmMZ f)
  let ln := shpLN e.shp
  let n := Nat.min q.length (shpRows e.shp * ln)
  let x := (cells (shpRows e.shp) ln).foldl
    (fun x p =>
      let k := p.1 * ln + p.2
      setElt x 32 p.1 p.2 (if k < n then (q.getD k 0).toNat else 0)) (getVReg b e.vd)
  let b := setVReg b e.vd x
  let b := { b with vec := setDq b.vec (cmMZ f) (q.drop n) }
  if cmME f then
    let m := (cells (shpRows e.shp) ln).foldl
      (fun m p => putBits m (64 * p.1 + p.2) 1 (if p.1 * ln + p.2 < n then 1 else 0)) (getMReg b (cmMK f).toNat)
    setMReg b (cmMK f).toNat m
  else b

/-- Every lane of the shape set to a value. -/
def fillLanes (shp : Word) (d : Img) (v : Nat) : Img :=
  (cells (shpRows shp) (shpLN shp)).foldl (fun x p => setElt x 32 p.1 p.2 v) d

/-- The mask an entry takes (R215). -/
def entryMask (b : Bank) (e : Entry) : MaskReg :=
  match maskOf e.i with
  | some k => getMReg b k.toNat
  | none => 0

/-- The image of the indices of a `vperm` (R233). -/
def indexImg (s : State) (loc : Loc) (e : Entry) : Img :=
  match e.i, chanBOf e.i with
  | .vperm _ _, some n =>
    match vecChan s s.bk loc e.shp n false 0 with
    | .ok c => ringImg s c e.shp
    | .error _ => 0
  | .vperm _ _, none => getVReg s.bk e.vb
  | _, _ => 0

/-- The sources of a register-to-register entry (R219), channel data included. -/
def vecSources (s : State) (loc : Loc) (e : Entry) (mask : MaskReg) : Except VStop VSrc :=
  let h := (headOf e.i).getD ⟨0, 0, 0⟩
  match vecOperand s s.bk loc e.shp (readsA e mask (indexImg s loc e)) (chanAOf e.i) (schWA h) e.va with
  | .error x => .error x
  | .ok a =>
    match vecOperand s s.bk loc e.shp (readsB e mask) (chanBOf e.i) (schWB h) e.vb with
    | .error x => .error x
    | .ok b => .ok ⟨a, b, getVReg s.bk e.vc, getVReg s.bk e.vd, mask⟩

/-- The writes of a `vstc`: the active lanes that lie side by side in a ring sector are written together (R109, R232). -/
def joinLanes (c : Chan) (shp : Word) : List (Nat × Nat) → List (Nat × List (Nat × Nat))
  | [] => []
  | p :: r =>
    let a := laneRingAddr c c.head shp p
    match joinLanes c shp r with
    | (x, l) :: cs => if x = a + 4 && x / 32 = a / 32 then (a, p :: l) :: cs else (a, [p]) :: (x, l) :: cs
    | [] => [(a, [p])]

/-- `vstc` writes its active lanes to the ring, packed (R232). -/
def stcWrite (s : State) (c : Chan) (e : Entry) (m : MaskReg) (src : Img) : State :=
  (joinLanes c e.shp (lanesRead e.shp (laneActive e m))).foldl
    (fun s w => s.store (onKey w.1) (w.2.flatMap (fun p => toBytes 4 (elt src 32 p.1 p.2)))) s

/-- Execute one entry of the vector queue on the active bank of core `s.cur` (R219 to R239). -/
def vecExecute (s : State) (loc : Loc) (e : Entry) : Except VStop State :=
  let b := s.bk
  let mask := entryMask b e
  match e.i with
  | .vld _ f =>
    let hnd := if mfH f then some (ix16 f.a) else none
    match memLanes s hnd true false (strideLanes e f b mask) with
    | .error x => .error x
    | .ok ts =>
      match laneReads ts s (getVReg b e.vd) with
      | .error x => .error x
      | .ok (s, d) => .ok (s.setBk (setVReg s.bk e.vd d))
  | .vst _ f =>
    let hnd := if mfH f then some (ix16 f.a) else none
    match memLanes s hnd false true (strideLanes e f b mask) with
    | .error x => .error x
    | .ok ts => laneWrites (getVReg b e.vd) (laneChunks true ts) s
  | .vgat _ f =>
    let hnd := if mfH f then some (ix16 f.b) else none
    match memLanes s hnd true false (indexLanes e f b mask) with
    | .error x => .error x
    | .ok ts =>
      match laneReads ts s (getVReg b e.vd) with
      | .error x => .error x
      | .ok (s, d) => .ok (s.setBk (setVReg s.bk e.vd d))
  | .vsca _ f =>
    let hnd := if mfH f then some (ix16 f.b) else none
    match memLanes s hnd false true (indexLanes e f b mask) with
    | .error x => .error x
    | .ok ts => laneWrites (getVReg b e.vd) (laneChunks false ts) s
  | .vldc h f =>
    match vecChanRead s b loc e.shp (laneActive e mask) (ix16 f.a) (schWA h) with
    | .error x => .error x
    | .ok a =>
      let r := mapElems e.shp 32 (cmME f) false mask (getVReg b e.vd) (fun i j => (elt a 32 i j, 0))
      vecAdvance (vecResult s e.vd r) loc e.i
  | .vstc h f =>
    match vecChan s b loc e.shp (ix16 f.a) true (schWA h) with
    | .error x => .error x
    | .ok c => vecAdvance (stcWrite s c e mask (getVReg b e.vd)) loc e.i
  | .mlog _ f =>
    let m := mlogOp e f (getVReg b e.va) (getMReg b f.a.toNat) (getMReg b f.b.toNat) (getMReg b e.vd)
    .ok (s.setBk (setMReg b e.vd m))
  | .vshape _ _ => .ok s
  | .vdfr _ f => .ok (s.setBk { b with vec := dfrOp e f (getVReg b e.vd) mask b.vec })
  | .vdrn _ f => .ok (s.setBk (drnOp e f b))
  | .vdcnt _ f =>
    .ok (s.setBk (setVReg b e.vd (fillLanes e.shp (getVReg b e.vd) (dqOf b.vec (cmMZ f)).length)))
  | i =>
    match vecSources s loc e mask with
    | .error x => .error x
    | .ok x =>
      match vecCompute e x with
      | some r => vecAdvance (vecResult s e.vd r) loc i
      | none => .ok s

/-! ## The poison of vector registers (R109, R440) -/

/-- Whether an entry reads some lane of a sector of a register (R109). -/
def readsSector (rd : Nat → Nat → Bool) (q : Nat) : Bool := (List.range 8).any (fun x => rd (q / 8) (q % 8 * 8 + x))

/-- The poison an entry consumes from its source registers (R109, R243). -/
def vregPoison (v : VecState) (src : List (Nat × (Nat → Nat → Bool))) : Option Mark :=
  src.findSome? (fun p => (amapGet v.vmark p.1).bind (fun l => (l.find? (fun c => readsSector p.2 c.1)).map Prod.snd))

/-- The reads of an entry meet the armed injection slots on the words of the vector registers (R475, ARR 2). -/
def probeVregs (s : State) (src : List (Nat × (Nat → Nat → Bool))) : State :=
  probeArray s s.cur 2 (fun w => src.any (fun p => p.1 = w / 512 && (p.2 (w % 512 / 32) (w % 32 * 2) ||
      p.2 (w % 512 / 32) (w % 32 * 2 + 1)))) (ctxidOf s s.bk.slot)
    (fun s o m => s.setBk (markVreg s.bk o m))

/-- The reads of the ring bytes of a channel operand, in the lanes read of it, meet the armed injection slots on the
scratchpad (R215, R475, ARR 0). -/
def probeRing (loc : Loc) (e : Entry) (ch : Option (Fin 16)) (rd : Nat → Nat → Bool) (s : State) : State :=
  match ch with
  | none => s
  | some n =>
    match vecChan s s.bk loc e.shp n false 0 with
    | .ok c => (lanesRead e.shp rd).foldl (fun s p =>
        s.probe (onKey (laneRingAddr c c.tail e.shp p)) 4 (ctxidOf s s.bk.slot)) s
    | .error _ => s

/-- The same for both operands of an entry; a `vstc` reads no ring. -/
def probeRings (s : State) (loc : Loc) (e : Entry) : State :=
  match e.i with
  | .vstc _ _ => s
  | i =>
    let m := entryMask s.bk e
    probeRing loc e (chanBOf i) (readsB e m) (probeRing loc e (chanAOf i) (readsA e m (indexImg s loc e)) s)

/-- The sectors of its destination register that an entry writes whole lose their poison (R109). -/
def clearVmark (e : Entry) (m : MaskReg) (v : VecState) : VecState :=
  match amapGet v.vmark (e.vd % 64) with
  | none => v
  | some l =>
    let left := l.filter (fun c => !(List.range 8).all (fun x => writesLane e m (c.1 / 8) (c.1 % 8 * 8 + x)))
    { v with vmark := amapSet v.vmark (e.vd % 64) (if left.isEmpty then none else some left) }

/-- An entry that has what it needs (`vecGate`), with the poison of its registers: a poisoned sector that it reads is DUE
or MARG, and a sector that it writes whole is clean. -/
def vecEntry (s : State) (loc : Loc) (e : Entry) : Except VStop State :=
  match vecGate s loc e with
  | .error x => .error x
  | .ok _ =>
  let m := entryMask s.bk e
  let src := laneSrcs e m (indexImg s loc e)
  let s := probeRings (probeVregs s src) loc e
  match vregPoison s.bk.vec src with
  | some m => .error (.fltAt s (markCode m) 0 (markIsl m))
  | none =>
    match vecExecute s loc e with
    | .ok s => .ok (s.setBk { s.bk with vec := clearVmark e m s.bk.vec })
    | r => r

/-! ## The head of the queue (R221, R243, R244) -/

/-- Record a fault the engine reports: VFI, VFA and VFS, and the entry held at the head (R216, R243, R244). -/
def reportVFault (s : State) (e : Entry) (c : FaultCode) (addr : Word) (isl : BitVec 6) (part : Bool) : State :=
  let b := s.bk
  s.setBk { b with vec := { b.vec with
    vfi := e.iaddr
    vfa := addr
    vfs := c.byte.setWidth 64 ||| (if part then 0x100#64 else 0)
    fault := some ⟨c, addr, isl, part⟩ } }

/-- Whether the supervisor deals with a fault of the vector engine, whose head entry waits for the return (R244). -/
def vecFaultTaken (b : Bank) : Bool := b.mode = .supervisor && bits b.fltc 8 3 = 1#3

/-- Whether the vector engine of a core may start its head entry: the bank runs, and no fault of the engine is held or
being dealt with (R244). -/
def vecMayStart (b : Bank) : Bool :=
  b.slot.isSome && b.stoppedAt.isNone && !vecFaultTaken b && b.vec.fault.isNone

/-- R221: the vector engine of core k executes its head entry once its channel data and sources are ready. -/
def execVectorEntryStart (k : Fin 16) (s : State) : Out :=
  .next (onCore s k (fun s =>
    let b := s.bk
    match b.vec.queue with
    | [] => s
    | e :: rest =>
      if !vecMayStart b || clStalled s s.cur then s
      else
        let loc := Loc.bank (s.core s.cur).second
        match vecEntry s loc e with
        | .ok s' =>
          let b' := s'.bk
          s'.setBk { b' with vec := { b'.vec with queue := rest } }
        | .error .wait => s
        | .error (.waitAt s') => s'
        | .error (.flt c a isl) => reportVFault s e c a isl false
        | .error (.fltAt s' c a isl) => reportVFault s' e c a isl false
        | .error (.partialFault s' c a) => reportVFault s' e c a 0 true))

/-- R244: the control core of core k takes the fault its vector engine holds, at an instruction boundary. -/
def execVectorFaultTaken (k : Fin 16) (s : State) : Out :=
  .next (onCore s k (fun s =>
    match s.bk.vec.fault with
    | none => s
    | some v =>
      if s.bk.mode = .user && s.bk.loads.isEmpty && s.bk.stoppedAt.isNone && !clStalled s s.cur then
        let b := s.bk
        takeFault (s.setBk { b with vec := { b.vec with fault := none } }) ⟨v.code, v.addr, 1, v.isl⟩
      else s))

end Sys2Proof.Machine
end

