-- ==== Sys2Proof/Machine/Vector.lean ====
section
/-!
DEFINITION. The vector instructions at the control core (R9, R49, R213, R214, R242): each is checked, its operands are
captured, and it is placed in the vector queue; VECTOR_ENTRY_START gives it its effect (R219 to R239).
-/
namespace Sys2Proof.Machine

/-- The physical number of a vector register field under rotation (R177). -/
def rotReg (b : Bank) (r : Reg) : Nat :=
  let n := b.rotn.toNat
  if n = 0 || r.toNat + n < 64 then r.toNat else 64 - n + (r.toNat + n - 64 + b.rrb.toNat) % n

/-- The entry of a vector instruction of layout A, with everything R214 captures. -/
def vecEntryA (b : Bank) (i : Instr) (h : Head) (f : LayA) : Entry :=
  { baseEntry b i h with
    kp := vctlKP b.vec.vctl
    vd := rotReg b h.dst, va := rotReg b f.a, vb := rotReg b f.b, vc := rotReg b f.c
    xa := getReg b f.a, xb := getReg b f.b, xc := getReg b f.c }

/-- The entry of a vector instruction of layout B. -/
def vecEntryB (b : Bank) (i : Instr) (h : Head) (f : LayB) : Entry :=
  { baseEntry b i h with
    kp := vctlKP b.vec.vctl
    vd := rotReg b h.dst, va := rotReg b f.a, vb := rotReg b f.b
    xa := getReg b f.a, xb := getReg b f.b }

/-- Enqueue a vector entry after its checks (R49, R242). -/
def vecEnqueue (s : State) (chk : Bank → Except Stop Entry) : Out :=
  finish s (do
    engineReady s .vector false
    let e ← chk s.bk
    chanSet s.bk e.i
    .ok (enqueueVector s e))

/-- The same for an instruction with a stage predicate: with the predicate 0 it retires with no effect (R178). -/
def vecEnqueuePred (s : State) (pe : Bool) (spk : Nat) (e : Entry) : Out :=
  finish s (do
    need (!loopSpan s.bk) (ctlFault .ill 0)
    if predicated s.bk pe spk then
      engineReady s .vector false
      chanSet s.bk e.i
      .ok (enqueueVector s e)
    else .ok (retire s 2))

/-- Layout A with no further check. -/
def vecPlain (i : Instr) (h : Head) (f : LayA) (s : State) : Out :=
  vecEnqueue s (fun b => .ok (vecEntryA b i h f))

/-- The enqueue checks of the conversions (R225): a reserved code is FMTE, then PART, RZ and SAT outside their cases
are ILL, then the codes the instruction refuses are FMTE. -/
def convCheck (f : LayB) (bad : Nat → Nat → Bool) : Except Stop Unit := do
  let x := cvFrom f
  let y := cvTo f
  need (x < 14 && y < 14) (enqFault .fmte 0)
  let wF := fmtWidth x
  let wT := fmtWidth y
  need (cvPART f < Nat.max wF wT / Nat.min wF wT) (enqFault .ill 0)
  need (!cvRZ f || (isIntFmt y && !isIntFmt x)) (enqFault .ill 0)
  need (!cvSAT f || (isIntFmt x && isIntFmt y && wT < wF)) (enqFault .ill 0)
  need (!bad x y) (enqFault .fmte 0)

/-- Enqueue a conversion. -/
def vecConv (i : Instr) (h : Head) (f : LayB) (bad : Nat → Nat → Bool) (s : State) : Out :=
  vecEnqueue s (fun b => do
    convCheck f bad
    .ok (vecEntryB b i h f))

/-- The entry of `vqblk`, `vdqblk` and `vdot4`: E2M1 with nonzero ROW, and a stored row that fits LN lanes (R227,
R230). -/
def blockEntry (b : Bank) (fx : Reg) (l : Bool) : Except Stop Word := do
  let w ← fmtRowEntry b fx l
  need (fmtFC w = 5) (enqFault .fmte 0)
  need (fmtROW w / 2 + scaleBytes w (fmtROW w) ≤ shpLN b.shp * 4) (enqFault .fmte 0)
  .ok w

/-- `vqblk` and `vdqblk` (R227). -/
def vecBlock (i : Instr) (h : Head) (f : LayB) (noBand : Bool) (s : State) : Out :=
  vecEnqueue s (fun b => do
    let w ← blockEntry b (bkFX f) (bkL f)
    need (!noBand || !fmtBND w) (enqFault .fmte 0)
    need (fmtROW w ≤ shpLN b.shp * 32 / fmtWidth (wideFC f)) (enqFault .fmte 0)
    .ok { vecEntryB b i h f with fxs := w })

/-- R222. -/
def execVadd (h : Head) (f : LayA) (s : State) : Out := vecPlain (.vadd h f) h f s
/-- R222. -/
def execVsub (h : Head) (f : LayA) (s : State) : Out := vecPlain (.vsub h f) h f s
/-- R222. -/
def execVmul (h : Head) (f : LayA) (s : State) : Out := vecPlain (.vmul h f) h f s
/-- R222. -/
def execVfma (h : Head) (f : LayA) (s : State) : Out := vecPlain (.vfma h f) h f s
/-- R222. -/
def execVfms (h : Head) (f : LayA) (s : State) : Out := vecPlain (.vfms h f) h f s
/-- R222. -/
def execVfnma (h : Head) (f : LayA) (s : State) : Out := vecPlain (.vfnma h f) h f s
/-- R222. -/
def execVdiv (h : Head) (f : LayA) (s : State) : Out := vecPlain (.vdiv h f) h f s
/-- R222. -/
def execVsqrt (h : Head) (f : LayA) (s : State) : Out := vecPlain (.vsqrt h f) h f s
/-- R222. -/
def execVmin (h : Head) (f : LayA) (s : State) : Out := vecPlain (.vmin h f) h f s
/-- R222. -/
def execVmax (h : Head) (f : LayA) (s : State) : Out := vecPlain (.vmax h f) h f s
/-- R222. -/
def execVabs (h : Head) (f : LayA) (s : State) : Out := vecPlain (.vabs h f) h f s
/-- R222. -/
def execVneg (h : Head) (f : LayA) (s : State) : Out := vecPlain (.vneg h f) h f s
/-- R222. -/
def execVcmp (h : Head) (f : LayA) (s : State) : Out := vecPlain (.vcmp h f) h f s
/-- R222. -/
def execVclass (h : Head) (f : LayA) (s : State) : Out := vecPlain (.vclass h f) h f s
/-- R222. -/
def execVexp2 (h : Head) (f : LayA) (s : State) : Out := vecPlain (.vexp2 h f) h f s
/-- R222. -/
def execVlog2 (h : Head) (f : LayA) (s : State) : Out := vecPlain (.vlog2 h f) h f s
/-- R223. -/
def execViadd (h : Head) (f : LayA) (s : State) : Out := vecPlain (.viadd h f) h f s
/-- R223. -/
def execVisub (h : Head) (f : LayA) (s : State) : Out := vecPlain (.visub h f) h f s
/-- R223. -/
def execVimul (h : Head) (f : LayA) (s : State) : Out := vecPlain (.vimul h f) h f s
/-- R223. -/
def execVimad (h : Head) (f : LayA) (s : State) : Out := vecPlain (.vimad h f) h f s
/-- R223. -/
def execViand (h : Head) (f : LayA) (s : State) : Out := vecPlain (.viand h f) h f s
/-- R223. -/
def execVior (h : Head) (f : LayA) (s : State) : Out := vecPlain (.vior h f) h f s
/-- R223. -/
def execVixor (h : Head) (f : LayA) (s : State) : Out := vecPlain (.vixor h f) h f s
/-- R223. -/
def execVishl (h : Head) (f : LayA) (s : State) : Out := vecPlain (.vishl h f) h f s
/-- R223. -/
def execVishr (h : Head) (f : LayA) (s : State) : Out := vecPlain (.vishr h f) h f s
/-- R223. -/
def execVisar (h : Head) (f : LayA) (s : State) : Out := vecPlain (.visar h f) h f s
/-- R223. -/
def execVimin (h : Head) (f : LayA) (s : State) : Out := vecPlain (.vimin h f) h f s
/-- R223. -/
def execVimax (h : Head) (f : LayA) (s : State) : Out := vecPlain (.vimax h f) h f s
/-- R223. -/
def execVicmp (h : Head) (f : LayA) (s : State) : Out := vecPlain (.vicmp h f) h f s
/-- R224, R225. -/
def execVcvt (h : Head) (f : LayB) (s : State) : Out :=
  vecConv (.vcvt h f) h f (fun x y => x = 6 || x = 7 || x = 8 || y = 6 || y = 7 || y = 8) s
/-- R224, R225. -/
def execVtfenc (h : Head) (f : LayB) (s : State) : Out :=
  vecConv (.vtfenc h f) h f (fun x y => x = 13 || !isTaper y) s
/-- R224, R225. -/
def execVtfdec (h : Head) (f : LayB) (s : State) : Out :=
  vecConv (.vtfdec h f) h f (fun x y => !isTaper x || isTaper y || y = 13) s
/-- R226. -/
def execVtfcmp (h : Head) (f : LayA) (s : State) : Out := vecPlain (.vtfcmp h f) h f s
/-- R227, R228. -/
def execVqblk (h : Head) (f : LayB) (s : State) : Out := vecBlock (.vqblk h f) h f true s
/-- R227, R228. -/
def execVdqblk (h : Head) (f : LayB) (s : State) : Out := vecBlock (.vdqblk h f) h f false s
/-- R229. -/
def execVred (h : Head) (f : LayA) (s : State) : Out := vecPlain (.vred h f) h f s
/-- R230. -/
def execVdot4 (h : Head) (f : LayA) (s : State) : Out :=
  vecEnqueue s (fun b => do
    let w ← blockEntry b (mHi f) (mL f)
    need (!fmtBND w && fmtROW w % 8 = 0) (enqFault .fmte 0)
    .ok { vecEntryA b (.vdot4 h f) h f with fxs := w })
/-- R231. -/
def execVld (h : Head) (f : LayB) (s : State) : Out :=
  vecEnqueuePred s (mfPE f) (mfSPK f) (vecEntryB s.bk (.vld h f) h f)
/-- R231. -/
def execVst (h : Head) (f : LayB) (s : State) : Out :=
  vecEnqueuePred s (mfPE f) (mfSPK f) (vecEntryB s.bk (.vst h f) h f)
/-- R232. -/
def execVldc (h : Head) (f : LayA) (s : State) : Out := vecPlain (.vldc h f) h f s
/-- R232. -/
def execVstc (h : Head) (f : LayA) (s : State) : Out :=
  vecEnqueuePred s (cmPE f) (cmSPK f) (vecEntryA s.bk (.vstc h f) h f)
/-- R233. -/
def execVmov (h : Head) (f : LayA) (s : State) : Out := vecPlain (.vmov h f) h f s
/-- R233. -/
def execVsel (h : Head) (f : LayA) (s : State) : Out := vecPlain (.vsel h f) h f s
/-- R234: IDX must lie in the row. -/
def execVbcast (h : Head) (f : LayB) (s : State) : Out :=
  vecEnqueue s (fun b => do
    need (!bcR f || bcIDX f < eCount b.shp (bcastWidth f)) (enqFault .ill 0)
    .ok (vecEntryB b (.vbcast h f) h f))
/-- R233. -/
def execVperm (h : Head) (f : LayA) (s : State) : Out := vecPlain (.vperm h f) h f s
/-- R233: ROWS must be 16 and E a multiple of 16. -/
def execVtrans (h : Head) (f : LayA) (s : State) : Out :=
  vecEnqueue s (fun b => do
    need (shpRows b.shp = 16 && eCount b.shp (intWidth (cmT f)) % 16 = 0) (enqFault .ill 0)
    .ok (vecEntryA b (.vtrans h f) h f))
/-- R235. -/
def execVgat (h : Head) (f : LayB) (s : State) : Out := vecEnqueue s (fun b => .ok (vecEntryB b (.vgat h f) h f))
/-- R235. -/
def execVsca (h : Head) (f : LayB) (s : State) : Out := vecEnqueue s (fun b => .ok (vecEntryB b (.vsca h f) h f))
/-- R236; the destination is a mask. -/
def execMlog (h : Head) (f : LayA) (s : State) : Out :=
  vecEnqueue s (fun b => .ok { vecEntryA b (.mlog h f) h f with vd := h.dst.toNat })
/-- R237. -/
def execVkeep (h : Head) (f : LayA) (s : State) : Out := vecPlain (.vkeep h f) h f s
/-- R237. -/
def execVrng (h : Head) (f : LayA) (s : State) : Out := vecPlain (.vrng h f) h f s
/-- R238: SHP changes at enqueue. -/
def execVshape (h : Head) (f : LayB) (s : State) : Out :=
  finish s (do
    engineReady s .vector false
    need (vsLN f != 0 && vsLN f ≤ 64 && vsROWS f != 0 && vsROWS f ≤ 16) (enqFault .ill 0)
    let e := vecEntryB s.bk (.vshape h f) h f
    .ok (enqueueVector (s.setBk { s.bk with shp := BitVec.ofNat 64 (vsLN f * 256 + vsROWS f) }) e))
/-- R239. -/
def execVdfr (h : Head) (f : LayA) (s : State) : Out :=
  vecEnqueuePred s (cmPE f) (cmSPK f) (vecEntryA s.bk (.vdfr h f) h f)
/-- R239. -/
def execVdrn (h : Head) (f : LayA) (s : State) : Out := vecPlain (.vdrn h f) h f s
/-- R239. -/
def execVdcnt (h : Head) (f : LayA) (s : State) : Out := vecPlain (.vdcnt h f) h f s

end Sys2Proof.Machine
end

