-- ==== Sys2Proof/Machine/Jobs.lean ====
section
/-!
DEFINITION. Jobs after their enqueue (R11, R15 to R17, R117 to R120, R152, R179 to R181): dispatch, the conditions to
start, completion with the final token, fault records, cancellation of dependants, and the discards of `lbrk`.
-/
namespace Sys2Proof.Machine

/-! ## Latches a matrix entry leaves behind (R299, R300) -/

/-- The latches of a bank (R298, R299): score, value, operand. -/
inductive LatchId where
  | s | v | o
  deriving DecidableEq, Repr

def getLatch (m : MatState) (l : LatchId) : Option Latch :=
  match l with
  | .s => m.latchS
  | .v => m.latchV
  | .o => m.latchO

def setLatch (m : MatState) (l : LatchId) (x : Option Latch) : MatState :=
  match l with
  | .s => { m with latchS := x }
  | .v => { m with latchV := x }
  | .o => { m with latchO := x }

/-- The BASE of the ring a latch of core k's bank was filled from, if its home would refuse the latch's advance now
(R19, R300). -/
def releaseRefused (s : State) (k : Fin 16) (loc : Loc) (l : LatchId) : Option Nat :=
  (s.locBank k loc).bind (fun b =>
    match getLatch b.mat l with
    | some ⟨.ring ch _ adv, _, _, _, _, _⟩ =>
      let n : Fin 16 := ⟨ch % 16, Nat.mod_lt _ (by decide)⟩
      if adv = 0 || (s.advance k b loc n false adv).isSome then none else some (chanAt b n).base
    | _ => none)

/-- Release a latch of core k's bank: its consumer advance is applied, and it becomes EMPTY (R300). An advance its home
refuses faults the `mlatch` that executes (R19); at the other releases no job is left to fault and it is dropped (DEDUCED,
log entry 71). -/
def releaseLatch (s : State) (k : Fin 16) (loc : Loc) (l : LatchId) : State :=
  match s.locBank k loc with
  | none => s
  | some b =>
    let s' :=
      match getLatch b.mat l with
      | some ⟨.ring ch _ adv, _, _, _, _, _⟩ =>
        if adv = 0 then s
        else (s.advance k b loc ⟨ch % 16, Nat.mod_lt _ (by decide)⟩ false adv).getD s
      | _ => s
    match s'.locBank k loc with
    | some b' => s'.setLocBank k loc { b' with mat := setLatch b'.mat l none }
    | none => s'

/-- The latches of a bank whose work item's matrix state has ended (R299): the item's `tail` or `exit` has issued, and
no matrix entry it enqueued is left in the queue. -/
def staleLatches (b : Bank) : List LatchId :=
  [LatchId.s, .v, .o].filter (fun l =>
    match getLatch b.mat l with
    | none => false
    | some x => (!b.itemLive || b.wid != x.entry.wid) && !b.jobs.any (fun j =>
        j.eng = .matrix && (j.phase = .queued || j.phase = .dispatched) && j.e.wid = x.entry.wid))

/-- Release them (R300). -/
def endMatrixState (s : State) (k : Fin 16) (loc : Loc) : State :=
  match s.locBank k loc with
  | some b => (staleLatches b).foldl (fun s l => releaseLatch s k loc l) s
  | none => s

/-- The latch an instruction fills, if it is `mlatch` or `mgath` (R299, R309, R310). -/
def fillsLatch : Instr → Option LatchId
  | .mlatch _ f => some (if mxARR f then .v else .s)
  | .mgath _ _ => some .o
  | _ => none

/-! ## Bands and the limiter (R292, R435, R438) -/

/-- nb, the band count of a captured MASH (R292). -/
def bandCount (mash : Word) : Nat :=
  if mash = 0x1 then 1 else if mash = 0x3 then 2 else if mash = 0x7 then 3 else 4

/-- The physical bands of a core that are not fenced, ascending. -/
def unfenced (c : Core) : List (Fin 4) := (List.finRange 4).filter (fun i => !bit c.adef i.val)

/-- The physical bands a job of nb logical bands runs on (R292). -/
def mappedBands (c : Core) (nb : Nat) : List (Fin 4) := (unfenced c).take nb

/-- The instructions that run on the arrays (R292). -/
def onArrays : Instr → Bool
  | .mlatch _ _ | .mmul _ _ | .mattn _ _ => true
  | _ => false

/-- Physical bands of core k are in use until tick t (R438). -/
def useBands (k : Fin 16) (t : Nat) (l : List (Fin 4)) (s : State) : State :=
  l.foldl (fun s i =>
    let n := 4 * (k.val / 4) + i.val
    { s with pow := { s.pow with bandIdle := s.pow.bandIdle.setIfInBounds n (Nat.max t (s.pow.bandIdle.getD n 0)) } }) s

/-- The bands a matrix entry maps onto are in use until tick t (R438). -/
def touchBands (s : State) (k : Fin 16) (e : Entry) (t : Nat) : State :=
  if onArrays e.i then useBands k t (mappedBands (s.core k) (bandCount e.mash)) s else s

/-- The entries queued in a bank of core k map onto their bands until now: the bank is evicted, or ADEF changes (R438). -/
def touchQueue (s : State) (k : Fin 16) (b : Bank) : State :=
  (b.jobs.filter (fun j => j.eng = .matrix && (j.phase = .queued || j.phase = .dispatched))).foldl
    (fun s j => touchBands s k j.e s.stamp) s

/-- A matrix job that will not start gives up its request at the limiter, or the units it was granted (R435). -/
def dropRequest (s : State) (k : Fin 16) (seq : BitVec 16) : State :=
  let p := s.pow
  let granted := p.granted.any (fun g => g.1 = k && g.2.1 = seq)
  let h := p.held.get k
  { s with pow := { p with
    reqs := p.reqs.filter (fun r => !(r.core = k && r.seq = seq))
    granted := p.granted.filter (fun g => !(g.1 = k && g.2.1 = seq))
    held := if granted then p.held.set k.val { h with need := 0, doneTick := some s.stamp } k.isLt else p.held } }

/-- A matrix entry that leaves the queue without executing empties the latch it would have filled (R299, R300). -/
def leaveQueue (s : State) (k : Fin 16) (loc : Loc) (j : Job) : State :=
  let s := if j.eng = .matrix then touchBands (dropRequest s k j.seq) k j.e s.stamp else s
  match fillsLatch j.e.i with
  | some l => releaseLatch s k loc l
  | none => s

/-- Whether a pair member that runs in a bank has core k as its partner (R321). -/
def pairedWith (b : Bank) (k : Fin 16) : Bool :=
  b.mat.pair != .idle && b.jobs.any (fun j => j.phase = .running && (match j.e.i with
    | .mpair _ _ => j.e.xa.toNat % 16 = k.val
    | _ => false))

/-- A leader whose `mpair` fails empties its slot (R323). -/
def emptySlot (s : State) (k : Fin 16) (loc : Loc) (e : Entry) : State :=
  match e.i with
  | .mpair _ f =>
    if mxROLE f then s
    else
      match s.locBank k loc with
      | some b => s.setLocBank k loc { b with mat := { b.mat with slot := none } }
      | none => s
  | _ => s

/-- An `mpair` member that fails for a cause of its own sends ABORT; it reaches a partner that waits for it (R323). -/
def sendAbort (s : State) (k : Fin 16) (slot : Option (Fin 16)) (e : Entry) : State :=
  match e.i with
  | .mpair _ _ =>
    let p : Fin 16 := ⟨e.xa.toNat % 16, Nat.mod_lt _ (by decide)⟩
    match slot.bind (s.locOf p) with
    | none => s
    | some loc =>
      match s.locBank p loc with
      | none => s
      | some b =>
        if !pairedWith b k then s
        else s.setLocBank p loc { b with mat := { b.mat with inbox := some (.abort k.val) } }
  | _ => s

/-! ## Completion (R16, R17, R120, R152) -/

/-- The final token of a job (R16). -/
def finalToken (j : Job) : Word := mkToken true j.code j.psn j.prog j.seq

/-- Land a value in a scalar register of a bank if the register's present value passes a test; likewise in the values an
outstanding load would be squashed to: the job was enqueued before the load, so its value is none of a later
instruction's results (R163). -/
def landReg (b : Bank) (rd : Reg) (ok : Word → Bool) (v : Word) : Bank :=
  let upd (x : Vector Word 64) : Vector Word 64 :=
    if rd != 0#6 && ok (x.get (regIx rd)) then x.set (regIx rd).val v (regIx rd).isLt else x
  { b with x := upd b.x, loads := b.loads.map (fun p => { p with x := upd p.x }) }

/-- The register write of a final token (R17): only while the register holds the same SEQ with DONE = 0. -/
def landToken (b : Bank) (dst : Reg) (t : Word) : Bank :=
  landReg b dst (fun x => tokenSeq x = tokenSeq t && !tokenDone x) t

/-- The completed form of a job: its token is final and its footprint-table entry is free (R14, R16, R200). -/
def doneJob (s : State) (j : Job) : Job :=
  { j with phase := .done, inTable := false, token := finalToken j, doneAt := s.clk }

/-- The 64-byte fault record (R152). -/
def faultRecord (s : State) (j : Job) : List Word :=
  [finalToken j, (j.e.w1 ++ j.e.w0 : BitVec 64), j.e.iaddr, j.faddr, j.detail, s.stampW, j.pmap, j.e.wid]

/-- Write a fault record when FREC ≠ 0 (R152): core k's entry SEQ mod 64. Records take no tags. A weight-stack job with
uncorrectable data writes one although it did not fault (R355). -/
def writeRecord (s : State) (k : Fin 16) (slot : Option (Fin 16)) (j : Job) : State :=
  let f := frecOf s slot
  if f = 0 || (j.code = 0 && !(j.eng = .stack && j.psn)) then s
  else
    let va := f + k.val * 0x1000 + j.seq.toNat % 64 * 64
    let w := s.whoOf slot k false
    match translate s w.segs w.root va 64 false true with
    | .ok (s, t) => s.storeWords t.key (faultRecord s j)
    | .error _ => s

/-- The result register of an `xconf` (R381): written only while it holds exactly SEQ; a faulted or cancelled test
writes EX = 0 and a NaN, a discarded one nothing. -/
def landResult (b : Bank) (j : Job) : Bank :=
  match j.e.i with
  | .xconf _ f =>
    let w : Word := if j.code != 0 then 0x80007FC000000000#64 ||| j.seq.setWidth 64 else j.result
    if w != 0 then landReg b f.c (fun x => x = j.seq.setWidth 64) w else b
  | _ => b

/-- Whether a job's work item still holds the scalar registers: the final token of a tracked job is kept only in the job
table (R146). -/
def itemHolds (b : Bank) (j : Job) : Bool := b.itemLive && j.item = b.item

/-- The registers s0 to s63 in a save area at key a (R157). -/
def savedRegs (s : State) (a : Nat) : Vector Word 64 := Vector.ofFn (fun i => s.wordAt (a + 8 * i.val))

/-- Core k's bank as a completion finds it: of an evicted context, its registers are those of the save area (R157). -/
def landingBank (s : State) (k : Fin 16) (loc : Loc) : Option Bank :=
  match loc with
  | .bank x => some (s.bankAt k x)
  | .saved slot => (s.launch slot).bind (fun l =>
    (savedBank l k).map (fun b => { b with x := savedRegs s (saveKey l k) }))

/-- A job of a bank completes: token, table entry, record; a `wfe` of the same core wakes (R210; DESIGN CHOICE: a job of
the context on another core wakes none, and a `wfe` that waits longer changes no result; log entry 84). -/
def settleJob (s : State) (k : Fin 16) (loc : Loc) (j : Job) : State :=
  match landingBank s k loc with
  | none => s
  | some b =>
    let d := doneJob s j
    let c := setJobIn b d
    let b' := wakeWfe (if itemHolds b j then landResult (landToken c j.dst d.token) j else c)
    writeRecord (s.setLocBank k loc b') k b.slot j

/-- A job waiting on an edge to a job that failed is cancelled with its CODE, and its dependants in turn (R120). Edges
point backwards, so one pass in enqueue order reaches them all. -/
def cancelPass (k : Fin 16) (loc : Loc) (code : Byte) : List Job → List (BitVec 16) → State → State
  | [], _, s => s
  | j :: r, bad, s =>
    if j.inTable && (j.phase = .queued || j.phase = .dispatched) && j.edges.any (fun x => bad.contains x) then
      let c := { j with code := code, prog := 0, faddr := 0, detail := 0, pmap := 0, psn := false }
      let slot := (s.locBank k loc).bind Bank.slot
      cancelPass k loc code r (j.seq :: bad) (sendAbort (emptySlot (leaveQueue (settleJob s k loc c) k loc c) k loc j.e) k slot j.e)
    else cancelPass k loc code r bad s

/-- Complete a job with whatever it holds; with FLT = 1 its dependants are cancelled (R16, R120). -/
def completeJob (s : State) (k : Fin 16) (loc : Loc) (j : Job) : State :=
  let s := settleJob s k loc j
  if j.code = 0 then s
  else
    match s.locBank k loc with
    | some b => cancelPass k loc j.code b.jobs [j.seq] s
    | none => s

/-- A job whose accesses are over, in success. -/
def endJob (j : Job) (due : Nat) : Job := { j with phase := .ended, due := due }

/-- A job that stops with a job fault (R118, R152). -/
def faultJob (j : Job) (c : FaultCode) (addr detail : Word) (prog : Nat) : Job :=
  { j with phase := .ended, code := c.byte, faddr := addr, detail := detail, prog := BitVec.ofNat 32 prog, due := 0 }

/-- A job XF also sends its page request to the supervisor, which forwards it to the host driver (R152). -/
def requestPage (s : State) (slot : Option (Fin 16)) (k : Fin 16) (va : Nat) (write : Bool)
    (job : Option (BitVec 16)) : State :=
  match slot with
  | some i => { s with ls := { s.ls with pageReqs := s.ls.pageReqs ++ [⟨i, k, va, write, job⟩] } }
  | none => s

/-- The job scheduler stops a job with a fault, sending the page request of an XF. -/
def stopJob (s : State) (k : Fin 16) (loc : Loc) (slot : Option (Fin 16)) (j : Job) (c : FaultCode) (addr : Nat)
    (detail : Word) (prog : Nat) (write : Bool) : State :=
  let s := if c = .xf then requestPage s slot k addr write (some j.seq) else s
  s.setJob k loc (faultJob j c (BitVec.ofNat 64 addr) detail prog)

/-- R16: core k's job scheduler writes the final token of a job whose accesses are over, in success. -/
def execJobCompletion (k : Fin 16) (seq : BitVec 16) (s : State) : Out :=
  .next (match s.findJob k seq with
    | some (loc, j) => if j.phase = .ended && j.code = 0 && j.due ≤ s.stamp then completeJob s k loc j else s
    | none => s)

/-- R152: the same for a job that stopped with a job fault: token, fault record, cancelled dependants. -/
def execJobFault (k : Fin 16) (seq : BitVec 16) (s : State) : Out :=
  .next (match s.findJob k seq with
    | some (loc, j) => if j.phase = .ended && j.code != 0 && j.due ≤ s.stamp then completeJob s k loc j else s
    | none => s)

/-! ## Dispatch and start (R11, R15, R117) -/

/-- The layout A fields of an entry. -/
def entryLay (e : Entry) : LayA := (layOf e.i).getD ⟨0, 0, 0, false, false, 0⟩

/-- Whether a stream waits for room in one of its rings (R285): the first wait is that of WA and WB. -/
def streamBlocked (s : State) (k : Fin 16) (loc : Loc) (b : Bank) (j : Job) : Bool :=
  match j.stream with
  | none => false
  | some st =>
    let h := (headOf j.e.i).getD ⟨0, 0, 0⟩
    let f := entryLay j.e
    let room (r : Reg) (n : Nat) : Bool := match s.chanHome k b loc (ix16 r) with
      | some (_, _, c) => chanReady c true (if st.first then Nat.max n 1 else 1)
      | none => true
    !(room f.a (schWA h) && room f.b (schWB h))

/-- Jobs of an engine in its executing places on core k, whoever's context they belong to (R11, R148). A stream that
is blocked on a full ring leaves its place once its context is evicted (R290). -/
def placesUsed (s : State) (k : Fin 16) (e : Eng) : Nat :=
  (allLocs.map (fun loc =>
    match s.locBank k loc with
    | some b => (b.jobs.filter (fun j => j.eng = e &&
        (j.phase = .dispatched || j.phase = .running || j.phase = .ended) &&
        (match loc with
         | .saved _ => !(j.phase = .running && streamBlocked s k loc b j)
         | .bank _ => true))).length
    | none => 0)).foldl (· + ·) 0

/-- R8, R11: core k's engine e dispatches the head entry of the active bank's queue into a free executing place. -/
def execEngineDispatch (k : Fin 16) (e : Eng) (s : State) : Out :=
  .next (
    let b := s.active k
    if e = .vector || e = .matrix || b.slot.isNone then s
    else
      match queued b e with
      | [] => s
      | j :: _ =>
        if b.stoppedAt.isNone && placesUsed s k e < places e then
          s.setActive k (setJobIn b { j with phase := .dispatched, due := s.clk })
        else s)

/-- Whether every job a job's edges name has completed (R15). -/
def edgesMet (b : Bank) (j : Job) : Bool := !b.jobs.any (fun x => x.inTable && j.edges.contains x.seq)

/-- Whether a job has completed, in success, by tick t: by its completion tick, whenever its token is written (R15,
R305). -/
def completedBy (x : Job) (t : Nat) : Bool :=
  match x.phase with
  | .ended | .done => x.code = 0 && x.due ≤ t
  | _ => false

/-- Whether an edge of a stamped job is unmet at tick t (R261, R304 reason 1). -/
def edgesLate (b : Bank) (j : Job) (t : Nat) : Bool :=
  b.jobs.any (fun x => j.edges.contains x.seq && !completedBy x t)

/-- Whether an edge names a job that has failed: its completion cancels this one (R120). -/
def edgeFailed (b : Bank) (j : Job) : Bool := b.jobs.any (fun x => j.edges.contains x.seq && x.inTable && x.code != 0)

/-! ## Discards (R179 to R181) -/

/-- Whether an `lbrk` of a level at index b discards an entry with this tag (R179). -/
def tagBeyond (lvl : Fin 4) (b : Word) (t : Option (Fin 4 × Word)) : Bool :=
  match t with
  | some (l, v) => l = lvl && b.ult v
  | none => false

/-- A discarded job completes at once with a clean token (R181). -/
def discardJob (s : State) (k : Fin 16) (loc : Loc) (j : Job) : State :=
  leaveQueue (settleJob s k loc { j with code := 0, psn := false, prog := 0, due := s.stamp }) k loc j

/-- The discards among the jobs of the active bank of core k (R179, R180): jobs that have not started. -/
def discardJobs (k : Fin 16) (loc : Loc) (lvl : Fin 4) (b : Word) : List Job → State → State
  | [], s => s
  | j :: r, s =>
    discardJobs k loc lvl b r
      (if (j.phase = .queued || j.phase = .dispatched) && tagBeyond lvl b j.e.tag then discardJob s k loc j else s)

/-- Deactivate a level and every active level whose body lies inside its body (R179). -/
def breakLevels (b : Bank) (lvl : Fin 4) : Bank :=
  let v := getLoop b lvl
  { b with loops := b.loops.map (fun x =>
      if v.start.ule x.start && x.stop.ule v.stop then { x with act := false } else x) }

/-- lbrk(lvl, b) (R179). A vector entry that holds a fault at the head of the queue counts as started; one whose fault has
been taken, and which is to execute again, counts as not started (DESIGN CHOICE: R180 does not say; log entry 83). -/
def breakLoop (lvl : BitVec 2) (idx : LoopLevel → Word) (s : State) : Out :=
  finish s (do
    notRepeated s
    let l : Fin 4 := lvl.toFin
    let v := getLoop s.bk l
    let b := idx v
    need (v.act && !v.ut) (ctlFault .ill 0)
    if v.idx.ult b then .ok (retire s 1)
    else
      need (!v.nt || b = v.idx) (ctlFault .ill 0)
      let loc := Loc.bank (s.core s.cur).second
      let vec := s.bk.vec
      let kept := if vec.fault.isSome then vec.queue.take 1 else []
      let rest := if vec.fault.isSome then vec.queue.drop 1 else vec.queue
      let s1 := s.setBk { s.bk with vec := { vec with queue := kept ++ rest.filter (fun e => !tagBeyond l b e.tag) } }
      let s2 := discardJobs s.cur loc l b s1.bk.jobs s1
      .ok (s2.setBk { breakLevels s2.bk l with pc := v.stop }))

/-- R179: break a level at the index in sA. -/
def execLbrk (lvl : BitVec 2) (ra : Reg) (s : State) : Out := breakLoop lvl (fun _ => getReg s.bk ra) s

/-- R179: break a level at its current index. -/
def execLbrkUnconditional (lvl : BitVec 2) (s : State) : Out := breakLoop lvl (fun v => v.idx) s

end Sys2Proof.Machine
end

