-- ==== Sys2Proof/Machine/Sync.lean ====
section
/-!
DEFINITION. Barriers (R191, R192), channels (R193 to R197), job waits (R201, R202), engine configuration (R203, R204,
R216, R295), stamps (R205), and the system instructions (R40, R207 to R210) of the control core. The waits for stamps, the ends of stalls and the
channel-stall detector are in Stalls.lean.
-/
namespace Sys2Proof.Machine

/-! ## Barriers (R145, R191, R192) -/

/-- Record this core's arrival at its context's barrier (R191, step 2). -/
def arrive (s : State) : State :=
  let b := s.bk
  let s1 := s.setBk { b with barArrived := true }
  match b.slot with
  | none => s1
  | some i =>
    match s1.launch i with
    | none => s1
    | some l =>
      s1.setLaunch i (some { l with
        arrived := l.arrived ||| (1#16 <<< s.cur.val)
        lastArrival := s.stamp })

/-- Step 1 of R191: every earlier vector instruction has completed; accesses of the core have performed. -/
def vectorDrained (s : State) : Except Stop Unit :=
  if s.bk.vec.queue.isEmpty then .ok () else .error (.wait .vector)

/-- R191: arrive, then stall until the release. -/
def execBar (s : State) : Out :=
  finish s (do
    notRepeated s
    need (!s.bk.baraOut) (ctlFault .ill 0)
    if s.bk.barArrived then .error (.wait .barrier)
    else
      vectorDrained s
      .ok (stallOn (arrive s) .barrier))

/-- R192: arrive and go on. -/
def execBara (s : State) : Out :=
  finish s (do
    notRepeated s
    need (!s.bk.baraOut) (ctlFault .ill 0)
    vectorDrained s
    let s1 := arrive s
    .ok (retire (s1.setBk { s1.bk with baraOut := true }) 1))

/-- A core leaves a released barrier (R23, R192). -/
def leaveBarrier (s : State) : State :=
  retire (s.setBk { s.bk with barArrived := false, baraOut := false, barReleased := none, stall := none }) 1

/-- Whether the barrier has released and tick T + 4 has come (R23). -/
def barrierOver (s : State) : Bool :=
  match s.bk.barReleased with
  | some t => t + 4 ≤ s.stamp
  | none => false

/-- R192: wait for the barrier the outstanding `bara` arrived at. -/
def execBarw (s : State) : Out :=
  finish s (do
    notRepeated s
    need s.bk.baraOut (ctlFault .ill 0)
    if barrierOver s then .ok (leaveBarrier s) else .error (.wait .barrier))

/-! ## Channels (R193 to R197) -/

/-- A channel descriptor's fields (R193): BASE, SLOT, COUNT. -/
structure ChanDesc where
  base : Nat
  slot : Nat
  count : Nat
  deriving DecidableEq, Repr

/-- Read a descriptor from its four doublewords: none when it is not valid under R18 or has a reserved bit set. -/
def chanDesc (w0 w1 w2 w3 : Word) : Option ChanDesc :=
  let d : ChanDesc := ⟨(bits w0 0 28).toNat, (bits w1 0 17).toNat, (bits w2 0 13).toNat⟩
  if bits w0 28 36 = 0 && bits w1 17 47 = 0 && bits w2 13 51 = 0 && w3 = 0 && d.base % 32 = 0
      && d.slot % 32 = 0 && 32 ≤ d.slot && d.slot ≤ 0x10000 && 1 ≤ d.count && d.count ≤ 4096
      && sliceOk d.base (d.slot * d.count) then some d else none

/-- Whether a queue entry, job or vector instruction of the context on this core names a channel (R194, R214). -/
def chanNamed (b : Bank) (n : Fin 16) : Bool :=
  b.vec.queue.any (fun e => namesChan e.i n) || b.jobs.any (fun j => j.inTable && namesChan j.e.i n)

/-- The channel register a descriptor sets (R194): the home register, or a view of the home core's. -/
def chanOfDesc (k : Fin 16) (d : ChanDesc) : Chan :=
  let home : Fin 16 := ⟨d.base / 0x1000000 % 16, Nat.mod_lt _ (by decide)⟩
  ⟨true, home != k, home, d.base, d.slot, d.count, 0, 0, 0⟩

/-- R194: set or unset a channel register from its descriptor. -/
def execCbset (ch ra : Reg) (s : State) : Out :=
  let a := getReg s.bk ra
  finish s (do
    notRepeated s
    let t ← onChipTarget s s.bk a 32 true false
    footprintCheck s.bk t 32 false
    let r ← loadPerform s t 32 false true
    let s1 := r.1
    let w0 := s1.wordAt t.key
    let w1 := s1.wordAt (t.key + 8)
    let w2 := s1.wordAt (t.key + 16)
    let w3 := s1.wordAt (t.key + 24)
    let zero := w0 = 0 && w1 = 0 && w2 = 0 && w3 = 0
    let d := chanDesc w0 w1 w2 w3
    need (zero || d.isSome) (ctlFault .segv a)
    if chanNamed s.bk (ix16 ch) then .error (.wait (.naming true (ix16 ch).val))
    else
      let c := if zero then Chan.unset else chanOfDesc s.cur (d.getD ⟨0, 0, 0⟩)
      .ok (retire (s1.setBk (putChan s1.bk ch c)) 1))

/-- The active bank's place. -/
def State.activeLoc (s : State) (k : Fin 16) : Loc := .bank (s.core k).second

/-- A wait, and with `adv` the advance that follows it, on a channel of the active bank (R195, R196): an unset channel
is SEGV with FLTA 0, n > COUNT SEGV with FLTA BASE; through a view the request travels to the home and the instruction
stalls until the answer (R20). A `cbwait` for no slot retires without a request, whatever the home would answer (DESIGN
CHOICE: R196 says only that it imposes no wait; log entry 82). -/
def chanOp (ch : Reg) (n : Nat) (producer adv : Bool) (s : State) : Out :=
  let c := getChan s.bk ch
  let wait : Stall := .channel (ix16 ch).val producer n adv
  finish s (do
    need c.set (ctlFault .segv 0)
    need (n ≤ c.count) (ctlFault .segv (chanBaseW c))
    if !adv && n = 0 then .ok (retire s 1)
    else if c.view then .error (.wait wait)
    else if !chanReady c producer n then .error (.wait wait)
    else if !adv then .ok (retire s 1)
    else
      match s.advance s.cur s.bk (s.activeLoc s.cur) (ix16 ch) producer n with
      | some s1 => .ok (retire s1 1)
      | none => ctlFault .segv (chanBaseW c))

/-- R195: move a pointer by n slots, 1 when sB is 0. -/
def execCbadv (ch rb : Reg) (side : Bool) (s : State) : Out :=
  let n := (getReg s.bk rb).toNat
  chanOp ch (if n = 0 then 1 else n) side true s

/-- R196: wait for slots. -/
def execCbwait (ch rb : Reg) (side : Bool) (s : State) : Out := chanOp ch (getReg s.bk rb).toNat side false s

/-- R197: a snapshot of a channel. -/
def chanSnapshot (s : State) (k : Fin 16) (b : Bank) (loc : Loc) (n : Fin 16) : Word :=
  let c := chanAt b n
  let home : Word := BitVec.ofNat 64 c.home.val <<< 37
  if !c.set then 0
  else
    let hi : Word := 0x8000000000000000#64 ||| (if c.view then 0x2000000000000000#64 else 0) ||| home
    match s.chanHome k b loc n with
    | none => hi ||| 0x4000000000000000#64
    | some (_, _, h) => hi ||| BitVec.ofNat 64 (h.filled + h.head * 2 ^ 13 + h.tail * 2 ^ 25)

/-- R197: query a channel. -/
def execCbq (rd ch : Reg) (s : State) : Out :=
  .next (writeReg s rd (chanSnapshot s s.cur s.bk (s.activeLoc s.cur) (ix16 ch)))

/-- R20, R194: the home answers the wait or advance that core k's control core sent through a view. -/
def execChannelViewRequest (k : Fin 16) (s : State) : Out :=
  .next (onCore s k (fun s =>
    match s.bk.stall with
    | some (.channel n producer m adv) =>
      let ch : Fin 16 := ⟨n % 16, Nat.mod_lt _ (by decide)⟩
      let c := chanAt s.bk ch
      if !c.view || s.bk.stoppedAt.isSome then s
      else
        let loc := s.activeLoc s.cur
        let clear (s : State) : State := retire (s.setBk { s.bk with stall := none }) 1
        match s.chanHome s.cur s.bk loc ch with
        | none => takeFault s ⟨.segv, chanBaseW c, 0, 0⟩
        | some (_, _, h) =>
          if !chanReady h producer m then s
          else if !adv then clear s
          else
            match s.advance s.cur s.bk loc ch producer m with
            | some s1 => clear s1
            | none => takeFault s ⟨.segv, chanBaseW c, 0, 0⟩
    | _ => s))

/-! ## Job waits (R201, R202) -/

/-- Whether a job table entry holds a SEQ with DONE = 0 (R201). -/
def jobPending (b : Bank) (seq : BitVec 16) : Bool := b.jobs.any (fun j => j.seq = seq && j.phase != .done)

/-- R201. -/
def execJwait (ra : Reg) (s : State) : Out :=
  let t := getReg s.bk ra
  finish s (if tokenDone t || !jobPending s.bk (tokenSeq t) then .ok (retire s 1)
            else .error (.wait (.job (tokenSeq t))))

/-- The job table's token for a SEQ (R202). -/
def tableToken (b : Bank) (seq : BitVec 16) : Word :=
  match b.jobs.find? (fun j => j.seq = seq) with
  | some j => j.token
  | none => 0x8000000000000000#64 + seq.setWidth 64

/-- R202. -/
def execJq (rd ra : Reg) (s : State) : Out := .next (writeReg s rd (tableToken s.bk (tokenSeq (getReg s.bk ra))))

/-! ## Engine configuration (R203, R204, R216, R295) -/

/-- Whether a value is valid for a writable item: no reserved bit set, no value its file marks invalid (R203). -/
def itemValid (item : BitVec 12) (v : Word) : Bool :=
  let n := item.toNat
  if n = 0x000 then bits v 6 10 = 0 && bits v 32 32 = 0
  else if n = 0x100 then v = 0x1 || v = 0x3 || v = 0x7 || v = 0xF
  else if n = 0x101 then !bit v 7 && !bit v 15 && !bit v 23 && bits v 31 33 = 0
  else if n = 0x102 then bits v 32 32 = 0
  else if n = 0x103 then bits v 3 29 = 0 && !(bit v 1 && bits v 32 32 = 0)
  else if n = 0x104 then bits v 28 36 = 0 && bits v 0 5 = 0
  else if n < 0x640 then !fmtReserved v
  else if n = 0x640 then bits v 3 61 = 0
  else v.toNat ≤ 64

/-- Write an item (R39, R86, R88, R204, R216, R295). -/
def writeItem (b : Bank) (item : BitVec 12) (v : Word) : Bank :=
  let n := item.toNat
  if n = 0x000 then { b with vec := { b.vec with vctl := v } }
  else if n = 0x100 then { b with mat := { b.mat with mash := v } }
  else if n = 0x101 then { b with mat := { b.mat with mfx := v } }
  else if n = 0x102 then { b with mat := { b.mat with msc := v } }
  else if n = 0x103 then { b with mat := { b.mat with mmsk := v } }
  else if n = 0x104 then { b with mat := { b.mat with mbmp := v } }
  else if n < 0x640 then { b with fmt := b.fmt.set (n % 64) v (Nat.mod_lt _ (by decide)) }
  else if n = 0x640 then { b with fmtl := v }
  else { b with rotn := v, rrb := 0 }

/-- Read an item (R203). -/
def readItem (b : Bank) (item : BitVec 12) : Word :=
  let n := item.toNat
  if n = 0x000 then b.vec.vctl
  else if n = 0x010 then BitVec.ofNat 64 b.vec.dq0.length
  else if n = 0x011 then BitVec.ofNat 64 b.vec.dq1.length
  else if n = 0x0F0 then b.vec.vfi
  else if n = 0x0F1 then b.vec.vfa
  else if n = 0x0F2 then b.vec.vfs
  else if n = 0x100 then b.mat.mash
  else if n = 0x101 then b.mat.mfx
  else if n = 0x102 then b.mat.msc
  else if n = 0x103 then b.mat.mmsk
  else if n = 0x104 then b.mat.mbmp
  else if n < 0x640 then b.fmt.get ⟨n % 64, Nat.mod_lt _ (by decide)⟩
  else if n = 0x640 then b.fmtl
  else b.rotn

/-- R203: write a configuration item; an invalid value is ILL with FLTA the item. -/
def execEcfg (item : BitVec 12) (ra : Reg) (s : State) : Out :=
  let v := getReg s.bk ra
  finish s (do
    need (itemValid item v) (ctlFault .ill (item.setWidth 64))
    if item = 0#12 then vectorDrained s
    .ok (retire (s.setBk (writeItem s.bk item v)) 1))

/-- R203: read a configuration item. -/
def execErd (rd : Reg) (item : BitVec 12) (s : State) : Out :=
  finish s (do
    if item = 0x000#12 || item = 0x010#12 || item = 0x011#12 then vectorDrained s
    .ok (writeReg s rd (readItem s.bk item)))

/-! ## Stamps (R205) -/

/-- R205. -/
def execStmp (rd : Reg) (s : State) : Out := .next (writeReg s rd s.stampW)

/-! ## CSRs (R40, R209) -/

/-- CAD of a core: its cluster's cadence for the running context (R424). -/
def cadOf (s : State) (b : Bank) (k : Fin 16) : Nat :=
  match s.launchOf b with
  | some l => l.cad.get ⟨k.val / 4, by omega⟩
  | none => 0

/-- The value of a CSR of core k with a bank b (R40). -/
def csrOf (s : State) (k : Fin 16) (b : Bank) (c : BitVec 12) : Word :=
  let n := c.toNat
  if n = 0x400 then b.shp else if n = 0x401 then b.rrb else if n = 0x402 then b.rotn else if n = 0x403 then b.fmtl
  else if n = 0x404 then b.ashp else if n = 0x405 then b.brs else if n = 0x406 then b.slip
  else if n = 0x407 then b.wid else if n = 0x408 then b.ctxid else if n = 0x409 then b.xlive
  else if n = 0x800 then b.fltc else if n = 0x801 then b.flta else if n = 0x802 then b.flti
  else if n = 0xC00 then BitVec.ofNat 64 (cadOf s b k)
  else if n = 0xC01 then (s.core k).adef.setWidth 64
  else if n = 0xC02 then s.stampW
  else if n = 0xC03 then (match s.launchOf b with
    | some l => BitVec.ofInt 64 l.btok
    | none => 0)
  else (match s.launchOf b with
    | some l => BitVec.ofNat 64 (l.energyNJ / 1000)
    | none => 0)

/-- The value of a CSR as the stepped core reads it (R40). -/
def readCsr (s : State) (c : BitVec 12) : Word := csrOf s s.cur s.bk c

/-- The bank after a supervisor write of a CSR (R3, R40): reserved fields take no effect; ASHP writes the band mask of
the matrix shadow set (R295). A value out of its field's range (ROWS, LN, ROTN, RRB, a band mask that R295 calls invalid)
is stored as written, and a write of ROTN leaves RRB as it is (DESIGN CHOICE: R40, R160, R209 and R213 give such a write no
fate, and R204 resets RRB for item 0x641 alone; log entry 80). -/
def writeCsr (b : Bank) (c : BitVec 12) (v : Word) : Bank :=
  let n := c.toNat
  if n = 0x400 then { b with shp := v &&& 0x7F1F }
  else if n = 0x401 then { b with rrb := v &&& 0x7F }
  else if n = 0x402 then { b with rotn := v &&& 0x7F }
  else if n = 0x403 then { b with fmtl := v &&& 0x7 }
  else if n = 0x404 then { b with mat := { b.mat with mash := v &&& 0xF } }
  else if n = 0x405 then { b with brs := v } else if n = 0x406 then { b with slip := v }
  else if n = 0x407 then { b with wid := v } else if n = 0x408 then { b with ctxid := v }
  else if n = 0x409 then { b with xlive := v &&& 0xFF }
  else if n = 0x800 then { b with fltc := v &&& 0x7F07FF } else if n = 0x801 then { b with flta := v }
  else { b with flti := v }

/-- R209: read a CSR; class 10 raises PRIV in user mode. -/
def execCsrr (rd : Reg) (csr : BitVec 12) (s : State) : Out :=
  finish s (do
    if csrClass csr = 2 then privileged s
    .ok (writeReg s rd (readCsr s csr)))

/-- R209: write a CSR; classes 01 and 10 raise PRIV in user mode. -/
def execCsrw (csr : BitVec 12) (ra : Reg) (s : State) : Out :=
  finish s (do
    if csrClass csr = 1 || csrClass csr = 2 then privileged s
    .ok (retire (s.setBk (writeCsr s.bk csr (getReg s.bk ra))) 1))

/-! ## System instructions (R207 to R210) -/

/-- R207: raise TRAP with FLTA := code. -/
def execTrap (code : BitVec 12) (s : State) : Out :=
  finish s (do
    notRepeated s
    ctlFault .trap (code.setWidth 64))

/-- R207: raise BRK with FLTA := code. -/
def execBrk (code : BitVec 12) (s : State) : Out :=
  finish s (do
    notRepeated s
    ctlFault .brk (code.setWidth 64))

/-- R210. -/
def execNop (s : State) : Out := .next (retire s 1)

/-- R208: return to user mode at FLTI; PRIV in user mode. -/
def execSret (s : State) : Out :=
  finish s (do
    notRepeated s
    privileged s
    .ok (s.setBk (returnFromFault s.bk)))

/-- R210: stall until an event or 4,096 cycles. -/
def execWfe (s : State) : Out :=
  finish s (do
    notRepeated s
    .error (.wait (.wfe (s.clk + 4096))))

/-! ## Words that are no instruction (R34, R48) -/

/-- R48, R34: the fault of a word that is no instruction, precise at the control core. -/
def execEncodingNotAnInstruction (r : Reject) (s : State) : Out := finish s (.error (.flt (rejectExc r)))

end Sys2Proof.Machine
end

