-- ==== Sys2Proof/Machine/Copy.lean ====
section
/-!
DEFINITION. The copy and gather engine (R246 to R264): tensor address maps, the enqueue checks of its seven
instructions, and what their jobs do when they start.
-/
namespace Sys2Proof.Machine

/-! ## Enqueue reads of on-chip descriptors -/

/-- The sectors of an on-chip read at enqueue, in ascending order: tag conflicts (MMX) and poison (DUE, MARG). -/
def enqSectors (ptr : Word) : List (Nat × Nat) → State → Except Stop State
  | [], s => .ok s
  | (va, n) :: r, s =>
    let t : Target := ⟨onKey va, va, true⟩
    match s.checkTag t (s.phaseOf s.bk) s.cur false with
    | none => enqFault .mmx (sectorVA va)
    | some s =>
      let s := s.probe t.key n (ctxidOf s s.bk.slot)
      match s.poisonIn t.key n with
      | some m => .error (.fltAt s ⟨markCode m, ptr, 2, markIsl m⟩)
      | none => enqSectors ptr r s

/-- An on-chip operand the control core reads at enqueue: aligned (ALIGN), in a tier-0 segment with R (SEGV), clear of
jobs in flight and tag conflicts (MMX), in a slice that answers (R446), not poisoned (DUE, MARG); FLTA is the pointer
(R250, R297). The state carries
the tag updates of the read. -/
def enqRead (s : State) (ptr a : Word) (n : Nat) : Except Stop State :=
  match findSeg (s.segsOf s.bk) a.toNat with
  | none => enqFault .segv ptr
  | some (_, g) =>
    if g.tier != 0 || !g.r || g.vbase + g.len < a.toNat + n then enqFault .segv ptr
    else if mmxClash s.bk a.toNat n false then enqFault .mmx a
    else
      match sliceReady s (onKey a.toNat) with
      | .error e => .error e
      | .ok _ => enqSectors ptr (parts a.toNat n) s

/-- ALIGN of a pointer (R250, step 1). -/
def ptrAligned (ptr : Word) (n : Nat) : Except Stop Unit := need (ptr.toNat % n = 0) (enqFault .align ptr)

/-- n doublewords at an on-chip address. -/
def onWords (s : State) (a : Word) (n : Nat) : List Word :=
  (List.range n).map (fun i => s.wordAt (onKey a.toNat + 8 * i))

/-! ## Tensor address maps (R246 to R248) -/

/-- A map as read: dimensions, extents and strides. -/
structure TMap where
  base : Nat
  n0 : Nat
  n1 : Nat
  n2 : Nat
  n3 : Nat
  s1 : Int
  s2 : Int
  s3 : Int
  deriving DecidableEq, Repr

def mapND (ws : List Word) : Nat := (bits (ws.getD 0 0) 56 2).toNat

/-- The map of the doublewords read; unread fields have no effect (R246, R247). -/
def toMap (ws : List Word) : TMap :=
  let nd := mapND ws
  let e := ws.getD 2 0
  { base := (bits (ws.getD 0 0) 0 56).toNat
    n0 := (bits (ws.getD 1 0) 0 32).toNat + 1
    n1 := if 1 ≤ nd then (bits e 0 16).toNat + 1 else 1
    n2 := if 2 ≤ nd then (bits e 16 16).toNat + 1 else 1
    n3 := if 3 ≤ nd then (bits e 32 16).toNat + 1 else 1
    s1 := if 1 ≤ nd then (ws.getD 3 0).toInt else 0
    s2 := if 2 ≤ nd then (ws.getD 4 0).toInt else 0
    s3 := if 3 ≤ nd then (ws.getD 5 0).toInt else 0 }

/-- T, the bytes of a map (R247). -/
def TMap.total (m : TMap) : Nat := m.n0 * m.n1 * m.n2 * m.n3

/-- A reserved field read nonzero, an extent above ND nonzero, or T > 2^36 (R250, step 3). -/
def mapBad (ws : List Word) : Bool :=
  let nd := mapND ws
  let e := ws.getD 2 0
  bits (ws.getD 0 0) 58 6 != 0 || bits (ws.getD 1 0) 32 32 != 0
    || (1 ≤ nd && (bits e 48 16 != 0 || (nd < 2 && bits e 16 16 != 0) || (nd < 3 && bits e 32 16 != 0)))
    || 2 ^ 36 < (toMap ws).total

/-- The address of traversal offset t (R247). -/
def TMap.addr (m : TMap) (t : Nat) : Int :=
  let i0 := t % m.n0
  let r := t / m.n0
  let i1 := r % m.n1
  let r := r / m.n1
  (m.base : Int) + i0 + (i1 : Int) * m.s1 + ((r % m.n2 : Nat) : Int) * m.s2 + ((r / m.n2 : Nat) : Int) * m.s3

def minZ (x : Int) : Int := if x < 0 then x else 0
def maxZ (x : Int) : Int := if x < 0 then 0 else x

/-- The bound [lo, hi) of a map (R248). -/
def TMap.lo (m : TMap) : Int :=
  m.base + minZ ((m.n1 - 1) * m.s1) + minZ ((m.n2 - 1) * m.s2) + minZ ((m.n3 - 1) * m.s3)
def TMap.hi (m : TMap) : Int :=
  m.base + m.n0 + maxZ ((m.n1 - 1) * m.s1) + maxZ ((m.n2 - 1) * m.s2) + maxZ ((m.n3 - 1) * m.s3)

/-- The region of a bound. -/
def TMap.region (m : TMap) : Region := ⟨.mem, m.lo.toNat, m.hi.toNat⟩

/-- A bound inside one segment of the launch with the right (R250, step 6). -/
def boundOk (s : State) (lo hi : Int) (r w : Bool) : Bool :=
  0 ≤ lo &&
  (match findSeg (s.segsOf s.bk) lo.toNat with
   | some (_, g) => hi ≤ (g.vbase + g.len : Nat) && (!r || g.r) && (!w || g.w)
   | none => false)

def checkBound (s : State) (lo hi : Int) (r w : Bool) : Except Stop Unit :=
  need (boundOk s lo hi r w) (enqFault .segv (BitVec.ofInt 64 lo))

/-- Doublewords of a map read at enqueue: 0x00 and 0x08 always, 0x10 and 0x18 when ND ≥ 1, then one more for each further
dimension; the others are not accessed (R246). -/
def readMap (s : State) (ptr : Word) : Except Stop (State × List Word) := do
  let s ← enqRead s ptr ptr 16
  let nd := mapND (onWords s ptr 1)
  if nd = 0 then .ok (s, onWords s ptr 2)
  else
    let s ← enqRead s ptr (ptr + 16) (8 * nd + 8)
    .ok (s, onWords s ptr (nd + 3))

/-- Read two maps: the pointers' alignment first, then their segments and poison, then their fields (R250, steps 1
to 3). -/
def readTwoMaps (s : State) (p q : Word) : Except Stop (State × List Word × List Word) := do
  let (s, x) ← readMap s p
  let (s, y) ← readMap s q
  .ok (s, x, y)

def mapFieldsOk (p : Word) (ws : List Word) : Except Stop Unit := need (!mapBad ws) (enqFault .ill p)

/-- The restart offset (R250, step 8). -/
def restartOk (r : Word) (t : Nat) : Except Stop Unit := need (r.toNat * 32 < t) (enqFault .ill r)

/-- A read region that overlaps a write region of the same job (R250, step 7). -/
def disjointOk (reads writes : List Region) (dst : Word) : Except Stop Unit :=
  need (!regionsMeet reads writes) (enqFault .ill dst)

/-- The entry of a copy job with its captured maps. -/
def copyEntry (b : Bank) (i : Instr) (h : Head) (f : LayA) (maps : List (List Word)) : Entry :=
  { jobEntry b i h f with maps := maps }

/-! ## The seven instructions at enqueue (R249 to R263) -/

/-- R257: `cpy`. -/
def execCpy (h : Head) (f : LayA) (s : State) : Out :=
  let e := jobEntry s.bk (.cpy h f) h f
  finish s (do
    engineReady s .copy false
    ptrAligned e.xa 64
    ptrAligned e.xb 64
    let (s1, d, r) ← readTwoMaps s e.xa e.xb
    mapFieldsOk e.xa d
    mapFieldsOk e.xb r
    let md := toMap d
    let mr := toMap r
    need (md.total = mr.total) (enqFault .ill e.xa)
    checkBound s1 md.lo md.hi false true
    checkBound s1 mr.lo mr.hi true false
    disjointOk [mr.region] [md.region] e.xa
    restartOk e.xr md.total
    .ok (enqueueJob s1 .copy { e with maps := [d, r] } h.dst [mr.region] [md.region]))

/-- The ring of a channel register as (RING, RLEN) (R258). -/
def ringOf (c : Chan) : Nat × Nat := (c.base, c.slot * c.count)

/-- R258: `cpyw`, through the ring of channel A. -/
def execCpyw (h : Head) (f : LayA) (s : State) : Out :=
  let e := jobEntry s.bk (.cpyw h f) h f
  let c := getChan s.bk f.a
  let (ring, rlen) := ringOf c
  finish s (do
    engineReady s .copy false
    ptrAligned e.xb 64
    ptrAligned e.xc 64
    let (s1, r, d) ← readTwoMaps s e.xb e.xc
    mapFieldsOk e.xb r
    mapFieldsOk e.xc d
    let md := toMap d
    let mr := toMap r
    need (md.total = mr.total
      && (!c.set || (ring ≤ md.base && md.base < ring + rlen && md.hi - md.lo ≤ rlen))) (enqFault .ill e.xc)
    chanSet s.bk (.cpyw h f)
    checkBound s1 mr.lo mr.hi true false
    checkBound s1 ring (ring + rlen) false true
    restartOk e.xr md.total
    .ok (enqueueJob s1 .copy { e with maps := [d, r] } h.dst [mr.region] []))

/-- R259: `cfill`. -/
def execCfill (h : Head) (f : LayA) (s : State) : Out :=
  let e := jobEntry s.bk (.cfill h f) h f
  finish s (do
    engineReady s .copy false
    ptrAligned e.xa 64
    let (s1, d) ← readMap s e.xa
    mapFieldsOk e.xa d
    let md := toMap d
    checkBound s1 md.lo md.hi false true
    restartOk e.xr md.total
    .ok (enqueueJob s1 .copy { e with maps := [d] } h.dst [] [md.region]))

/-- The index list of a gather or scatter at enqueue: M entries at sI (R260); it is read when the job runs. -/
def indexListOk (s : State) (si : Word) (m : Nat) : Except Stop Unit :=
  match findSeg (s.segsOf s.bk) si.toNat with
  | some (_, g) => need (g.tier = 0 && g.r && si.toNat + 4 * m ≤ g.vbase + g.len) (enqFault .segv si)
  | none => enqFault .segv si

/-- The own conditions of `cgat` and `csca` on the table map and the other map (R260, step 4). -/
def gatherOk (tws : List Word) (table other : TMap) : Bool :=
  mapND tws = 1 && other.total % table.n0 = 0

/-- R260: `cgat`: a destination map, b table map, c index list. -/
def execCgat (h : Head) (f : LayA) (s : State) : Out :=
  let e := jobEntry s.bk (.cgat h f) h f
  finish s (do
    engineReady s .copy false
    ptrAligned e.xa 64
    ptrAligned e.xb 64
    ptrAligned e.xc 4
    let (s1, d, t) ← readTwoMaps s e.xa e.xb
    let md := toMap d
    let mt := toMap t
    let m := md.total / mt.n0
    indexListOk s1 e.xc m
    mapFieldsOk e.xa d
    mapFieldsOk e.xb t
    need (gatherOk t mt md) (enqFault .ill e.xa)
    checkBound s1 md.lo md.hi false true
    checkBound s1 mt.lo mt.hi true false
    let reads := [mt.region, memRegion e.xc.toNat (4 * m)]
    disjointOk reads [md.region] e.xa
    restartOk e.xr md.total
    .ok (enqueueJob s1 .copy { e with maps := [d, t] } h.dst reads [md.region]))

/-- R260: `csca`: a table map, b source map, c index list. -/
def execCsca (h : Head) (f : LayA) (s : State) : Out :=
  let e := jobEntry s.bk (.csca h f) h f
  finish s (do
    engineReady s .copy false
    ptrAligned e.xa 64
    ptrAligned e.xb 64
    ptrAligned e.xc 4
    let (s1, t, r) ← readTwoMaps s e.xa e.xb
    let mt := toMap t
    let mr := toMap r
    let m := mr.total / mt.n0
    indexListOk s1 e.xc m
    mapFieldsOk e.xa t
    mapFieldsOk e.xb r
    need (gatherOk t mt mr) (enqFault .ill e.xa)
    checkBound s1 mt.lo mt.hi false true
    checkBound s1 mr.lo mr.hi true false
    let reads := [mr.region, memRegion e.xc.toNat (4 * m)]
    disjointOk reads [mt.region] e.xa
    restartOk e.xr mr.total
    .ok (enqueueJob s1 .copy { e with maps := [t, r] } h.dst reads [mt.region]))

/-- A start stamp (R22, R261): absolute, or relative to BRS with S = 1; and whether it had passed at enqueue. -/
def startStamp (s : State) (h : Head) (v : Word) : Nat × Bool :=
  let t := if schS h then (s.bk.brs + v).toNat else v.toNat
  (t, t < s.stamp)

/-- Whether a bound lies inside one slice, and which (R261). -/
def boundSlice (m : TMap) : Option Nat :=
  if 0 ≤ m.lo && m.hi ≤ 0x10000000 && m.lo.toNat / 0x1000000 = (m.hi.toNat - 1) / 0x1000000 then
    some (m.lo.toNat / 0x1000000) else none

/-- R261: `cxs`. -/
def execCxs (h : Head) (f : LayA) (s : State) : Out :=
  let e := jobEntry s.bk (.cxs h f) h f
  finish s (do
    engineReady s .copy false
    ptrAligned e.xa 64
    ptrAligned e.xb 64
    let (s1, d, r) ← readTwoMaps s e.xa e.xb
    mapFieldsOk e.xa d
    mapFieldsOk e.xb r
    let md := toMap d
    let mr := toMap r
    need (md.total = mr.total && md.total ≤ 65536 && boundSlice mr = some s.cur.val && (boundSlice md).isSome)
      (enqFault .ill e.xa)
    checkBound s1 md.lo md.hi false true
    checkBound s1 mr.lo mr.hi true false
    disjointOk [mr.region] [md.region] e.xa
    let (t, late) := startStamp s h e.xc
    .ok (enqueueJob s1 .copy { e with maps := [d, r], stamp := some t, late := late } h.dst [mr.region] [md.region]))

/-- PEERi: V and PORT (R450). -/
def peerV (s : State) (i : Nat) : Bool := bit (s.host.peers.get ⟨i % 4, Nat.mod_lt _ (by decide)⟩) 0
def peerPort (s : State) (i : Nat) : Nat :=
  (bits (s.host.peers.get ⟨i % 4, Nat.mod_lt _ (by decide)⟩) 8 8).toNat

/-- R263: `cpeer`: a local map, b peer map, c peer index. -/
def execCpeer (h : Head) (f : LayA) (s : State) : Out :=
  let e := jobEntry s.bk (.cpeer h f) h f
  let pull := bit f.m 0
  let dst := if pull then e.xa else e.xb
  finish s (do
    engineReady s .copy false
    ptrAligned e.xa 64
    ptrAligned e.xb 64
    let (s1, l, p) ← readTwoMaps s e.xa e.xb
    mapFieldsOk e.xa l
    mapFieldsOk e.xb p
    let ml := toMap l
    let mp := toMap p
    need (ml.total = mp.total) (enqFault .ill dst)
    need (bits e.xc 2 62 = 0 && peerV s e.xc.toNat) (enqFault .segv e.xc)
    checkBound s1 ml.lo ml.hi (!pull) pull
    restartOk e.xr ml.total
    let e := { e with maps := [l, p] }
    .ok (enqueueJob s1 .copy e h.dst (if pull then [] else [ml.region]) (if pull then [ml.region] else [])))

/-! ## Running a copy job (R252 to R260) -/

/-- A byte on its way, with the poison of the sector it came from. -/
abbrev Carried := Byte × Option Mark

/-- Consecutive addresses inside one sector, as runs (start, length). -/
def addrRuns : List Int → List (Int × Nat)
  | [] => []
  | a :: r =>
    match addrRuns r with
    | (b, n) :: t => if b = a + 1 && a / 32 = b / 32 then (a, n + 1) :: t else (a, 1) :: (b, n) :: t
    | [] => [(a, 1)]

/-- Read the runs of a unit in order. -/
def readRuns (w : Who) : List (Int × Nat) → State → Except (FaultCode × Nat) (State × List Carried)
  | [], s => .ok (s, [])
  | (a, n) :: r, s =>
    match engineTarget s w a.toNat n true false with
    | .error e => .error e
    | .ok (s, t) =>
      let m := s.poisonAt t.key
      let here := (s.readBytes t.key n).map (fun b => (b, m))
      match readRuns w r s with
      | .error e => .error e
      | .ok (s, q) => .ok (s, here ++ q)

/-- The targets of the runs of a unit, all checked before the first is written (R254). -/
def runTargets (w : Who) : List (Int × Nat) → State → Except (FaultCode × Nat) (State × List (Target × Nat))
  | [], s => .ok (s, [])
  | (a, n) :: r, s =>
    match engineTarget s w a.toNat n false true with
    | .error e => .error e
    | .ok (s, t) =>
      match runTargets w r s with
      | .error e => .error e
      | .ok (s, l) => .ok (s, (t, n) :: l)

/-- Store the bytes of a unit's runs in order; poison travels to the destination sectors (R109). -/
def storeRuns : List (Target × Nat) → List Carried → State → State
  | [], _, s => s
  | (t, n) :: r, bs, s =>
    let part := bs.take n
    let s := s.store t.key (part.map Prod.fst)
    let s := match part.findSome? Prod.snd with
      | some m => s.setPoison t.key (some m)
      | none => s
    storeRuns r (bs.drop n) s

/-- Write the runs of a unit; a unit that meets a fault writes no byte (R254). -/
def writeRuns (w : Who) (l : List (Int × Nat)) (bs : List Carried) (s : State) : State × Option (FaultCode × Nat) :=
  match runTargets w l s with
  | .error e => (s, some e)
  | .ok (s, ts) => (storeRuns ts bs s, none)

/-- What a copy job's units have come to: over, or stopped by a fault with an address, at a traversal offset, on the
source or index side or on the destination side; and whether a poisoned sector was written. -/
inductive CopyRes where
  | ok (s : State) (psn : Bool)
  | stop (s : State) (c : FaultCode) (a off : Nat) (src psn : Bool)
  deriving DecidableEq, Repr

/-- The source of unit bytes: how to obtain those of traversal offsets [t, t + n), or a fault with its address and
traversal offset. -/
abbrev UnitSource := State → Nat → Nat → Except (FaultCode × Nat × Nat) (State × List Carried)

/-- The bytes of a unit before the run that a fault at address a stopped: runs of one sector fault alike. -/
def bytesBefore (l : List (Int × Nat)) (a : Nat) : Nat :=
  (l.takeWhile (fun r => r.1 / 32 != (a : Int) / 32)).foldl (fun n r => n + r.2) 0

/-- Units u to the end of the traversal, one after another, `fuel` of them (R252, R254). -/
def copyUnits (w : Who) (dst : Nat → Int) (src : UnitSource) (total : Nat) : Nat → Nat → Bool → State → CopyRes
  | 0, _, psn, s => .ok s psn
  | f + 1, u, psn, s =>
    if total ≤ 32 * u then .ok s psn
    else
      let n := Nat.min 32 (total - 32 * u)
      match src s (32 * u) n with
      | .error (c, a, at_) => .stop s c a at_ true psn
      | .ok (s, bs) =>
        let runs := addrRuns ((List.range n).map (fun i => dst (32 * u + i)))
        match writeRuns w runs bs s with
        | (s, some (c, a)) => .stop s c a (32 * u + bytesBefore runs a) false psn
        | (s, none) => copyUnits w dst src total f (u + 1) (psn || (bs.findSome? Prod.snd).isSome) s

/-- The bytes at a list of addresses, those of traversal offsets from t on. -/
def sourceBytes (w : Who) (l : List Int) (t : Nat) (s : State) :
    Except (FaultCode × Nat × Nat) (State × List Carried) :=
  match readRuns w (addrRuns l) s with
  | .ok r => .ok r
  | .error (c, a) => .error (c, a, t + bytesBefore (addrRuns l) a)

/-- The bytes of a source map (R257). -/
def mapSource (w : Who) (m : TMap) : UnitSource := fun s t n =>
  sourceBytes w ((List.range n).map (fun i => m.addr (t + i))) t s

/-- Byte t of a fill (R259). -/
def fillSource (v : Word) (w : Nat) : UnitSource := fun s t n =>
  .ok (s, (List.range n).map (fun i => (bits v (8 * ((t + i) % w)) 8, none)))

/-- Index entry j (R260): DUE or MARG when poisoned, SEGV when outside the table. -/
def readIndex (s : State) (w : Who) (si : Nat) (n1 j : Nat) : Except (FaultCode × Nat) (State × Nat) :=
  match engineRead s w (si + 4 * j) 4 with
  | .error e => .error e
  | .ok (s, r) =>
    match r.poison with
    | some m => .error (markCode m, si + 4 * j)
    | none => if ofBytes r.bytes < n1 then .ok (s, ofBytes r.bytes) else .error (.segv, si + 4 * j)

/-- The row addresses of traversal offsets [t, t + n): for each, the table row its index selects (R260), with fuel n. -/
def rowAddrs (w : Who) (tm : TMap) (si : Nat) : Nat → Nat → State → Except (FaultCode × Nat × Nat) (State × List Int)
  | 0, _, s => .ok (s, [])
  | k + 1, t, s =>
    match readIndex s w si tm.n1 (t / tm.n0) with
    | .error (c, a) => .error (c, a, t)
    | .ok (s, i) =>
      match rowAddrs w tm si k (t + 1) s with
      | .error e => .error e
      | .ok (s, l) => .ok (s, ((tm.base : Int) + (i : Int) * tm.s1 + (t % tm.n0 : Nat)) :: l)

/-- The bytes a gather supplies. -/
def gatherSource (w : Who) (tm : TMap) (si : Nat) : UnitSource := fun s t n =>
  match rowAddrs w tm si n t s with
  | .error e => .error e
  | .ok (s, l) => sourceBytes w l t s

/-- A scatter's units: the row addresses are found with the reads of the unit (R252, R260). -/
def scatterUnits (w : Who) (sm tm : TMap) (si total : Nat) : Nat → Nat → Bool → State → CopyRes
  | 0, _, psn, s => .ok s psn
  | f + 1, u, psn, s =>
    if total ≤ 32 * u then .ok s psn
    else
      let n := Nat.min 32 (total - 32 * u)
      match rowAddrs w tm si n (32 * u) s with
      | .error (c, a, at_) => .stop s c a at_ true psn
      | .ok (s, l) =>
        match mapSource w sm s (32 * u) n with
        | .error (c, a, at_) => .stop s c a at_ true psn
        | .ok (s, bs) =>
          match writeRuns w (addrRuns l) bs s with
          | (s, some (c, a)) => .stop s c a (32 * u + bytesBefore (addrRuns l) a) false psn
          | (s, none) => scatterUnits w sm tm si total f (u + 1) (psn || (bs.findSome? Prod.snd).isSome) s

/-- The first unit of a job: that of the granule its restart offset lies in (R256). -/
def firstUnit (xr : Word) : Nat := xr.toNat / 128 * 128

/-- The unit a job goes on from: a started one that waited for a page goes on from the unit it waited at (R256). -/
def nextUnit (j : Job) : Nat := if j.phase = .running then j.wait.getD (firstUnit j.e.xr) else firstUnit j.e.xr

/-- Whether a started job has written a poisoned sector before it waited (R255). -/
def poisonedSoFar (j : Job) : Bool := j.phase = .running && j.wait.isSome && j.psn

/-- Run the units of a job of core k (R257 to R260); `ring` is the ring of `cpyw`. -/
def runCopy (s : State) (k : Fin 16) (slot : Option (Fin 16)) (j : Job) (ring : Nat × Nat) : CopyRes :=
  let e := j.e
  let w := s.whoOf slot k true
  let d := toMap (e.maps.getD 0 [])
  let r := toMap (e.maps.getD 1 [])
  let u0 := nextUnit j
  let psn := poisonedSoFar j
  let units (t : Nat) : Nat := t / 32 + 1
  match e.i with
  | .cpyw _ _ =>
    let dst (t : Nat) : Int := (ring.1 : Int) + (d.addr t - ring.1) % ring.2
    copyUnits w dst (mapSource w r) d.total (units d.total) u0 psn s
  | .cfill _ f => copyUnits w d.addr (fillSource e.xb (2 ^ (bits f.m 0 2).toNat)) d.total (units d.total) u0 psn s
  | .cgat _ _ => copyUnits w d.addr (gatherSource w r e.xc.toNat) d.total (units d.total) u0 psn s
  | .csca _ _ => scatterUnits w r d e.xc.toNat r.total (units r.total) u0 psn s
  | _ => copyUnits w d.addr (mapSource w r) d.total (units d.total) u0 psn s

/-- DETAIL of a copy job's fault record (R254), the fault being at a traversal offset. -/
def copyDetail (e : Entry) (off : Nat) (src : Bool) : Word :=
  (if src then 0x8000000000000000#64 else 0) |||
  (match e.i with
   | .cgat _ _ => BitVec.ofNat 64 (off / (toMap (e.maps.getD 1 [])).n0 % 2 ^ 32)
   | .csca _ _ => BitVec.ofNat 64 (off / (toMap (e.maps.getD 0 [])).n0 % 2 ^ 32)
   | .cpeer _ _ => (bits e.xc 0 2).setWidth 64 <<< 32
   | _ => 0)

/-- Whether a page request of the context for the page of an address is outstanding (R256). -/
def pageRequested (s : State) (slot : Option (Fin 16)) (va : Nat) : Bool :=
  s.ls.pageReqs.any (fun p => some p.slot = slot && p.va / 0x10000 = va / 0x10000)

/-- A started copy job waits at a unit for a page that has been asked for; the units before it are done (R256). -/
def waitAtUnit (j : Job) (u : Nat) (psn : Bool) : Job := { j with phase := .running, wait := some u, psn := psn }

/-- The outcome of a copy job's units, in the job table: over, stopped, or waiting until a page that another job has asked
for is there (R256). -/
def settleCopy (s0 : State) (k : Fin 16) (loc : Loc) (slot : Option (Fin 16)) (j : Job) (due : Nat)
    (r : CopyRes) (after : State → Option State) : State :=
  match r with
  | .ok s psn =>
    match after s with
    | some s => s.setJob k loc { endJob j due with psn := psn }
    | none => s.setJob k loc (faultJob j .segv (BitVec.ofNat 64 (chanBase s)) 0 0)
  | .stop s c a off src psn =>
    if c = .xf && pageRequested s0 slot a then s.setJob k loc (waitAtUnit j (off / 32) psn)
    else stopJob s k loc slot { j with psn := psn } c a (copyDetail j.e off src) (off / 32) (!src)
where
  chanBase (s : State) : Nat :=
    match s.locBank k loc, chanAOf j.e.i with
    | some b, some n => (chanAt b n).base
    | _, _ => 0

/-! ## The mesh path of `cxs` (R7, R262) -/

/-- The mesh links from core a to core b, along the row first and then along the column (R7). -/
def meshPath (a b : Nat) : List (Nat × Nat) :=
  let row := a / 4
  let c0 := a % 4
  let c1 := b % 4
  let r1 := b / 4
  let cols := if c0 ≤ c1 then (List.range (c1 - c0)).map (fun i => (row * 4 + c0 + i, row * 4 + c0 + i + 1))
    else (List.range (c0 - c1)).map (fun i => (row * 4 + c0 - i, row * 4 + c0 - i - 1))
  let rows := if row ≤ r1 then (List.range (r1 - row)).map (fun i => ((row + i) * 4 + c1, (row + i + 1) * 4 + c1))
    else (List.range (row - r1)).map (fun i => ((row - i) * 4 + c1, (row - i - 1) * 4 + c1))
  cols ++ rows

/-- Whether two paths share a link. -/
def pathsShare (p q : List (Nat × Nat)) : Bool := p.any (fun l => q.contains l)

/-- The path, length in cycles and receiving core of a `cxs` entry from core k. -/
def cxsShape (k : Nat) (e : Entry) : List (Nat × Nat) × Nat × Nat :=
  let d := toMap (e.maps.getD 0 [])
  let recv := d.base / 0x1000000 % 16
  (meshPath k recv, (d.total + 63) / 64, recv)

def isCxs : Instr → Bool
  | .cxs _ _ => true
  | _ => false

/-- The start cycle of a `cxs` job of core k that has not reserved its path: of a started one, or of one that is to
start on a tick that has come, which a stall of its cluster's clocks defers (R441). -/
def cxsStart (s : State) (k : Fin 16) (b : Bank) (j : Job) : Option Nat :=
  let t := Nat.max (j.e.stamp.getD 0) (s.pow.stallUntil.get (clIsland k))
  if !isCxs j.e.i || j.code != 0 then none
  else if j.phase = .running then some j.result.toNat
  else if (j.phase = .queued || j.phase = .dispatched) && !j.e.late && b.stoppedAt.isNone && t ≤ s.stamp then some (2 * t)
  else none

/-- Every `cxs` send of the module that has not reserved its path: its core, the job, and its start cycle. -/
def cxsWaiting (s : State) : List (Fin 16 × Job × Nat) :=
  (List.finRange 16).flatMap (fun k => allLocs.flatMap (fun loc =>
    match s.locBank k loc with
    | some b => b.jobs.filterMap (fun j => (cxsStart s k b j).map (fun c => (k, j, c)))
    | none => []))

/-- The cycle from which on every link of a path is free (R262). -/
def pathFree (s : State) (path : List (Nat × Nat)) : Nat :=
  path.foldl (fun m l => Nat.max m ((amapGet s.links (16 * l.1 + l.2)).getD 0)) 0

/-- Reserve the links of a path until a cycle (R262). -/
def reservePath (s : State) (path : List (Nat × Nat)) (until_ : Nat) : State :=
  { s with links := path.foldl (fun m l => amapSet m (16 * l.1 + l.2) (some until_)) s.links }

/-- Source reads as the sending core, destination writes as the receiving core (R261). -/
def runCxs (s : State) (k : Fin 16) (slot : Option (Fin 16)) (e : Entry) : CopyRes :=
  let d := toMap (e.maps.getD 0 [])
  let r := toMap (e.maps.getD 1 [])
  let recv : Fin 16 := ⟨d.base / 0x1000000 % 16, Nat.mod_lt _ (by decide)⟩
  copyUnits (s.whoOf slot recv true) d.addr (mapSource (s.whoOf slot k true) r) d.total (d.total / 32 + 1) 0 false s

/-- R262: a started `cxs` of core k reserves its path once no earlier waiting send shares a link with it; the cycle C
and the delivery tick TA follow, and the data moves. `result` holds the start cycle, then the reservation's cycle. -/
def execCxsPathReserve (k : Fin 16) (seq : BitVec 16) (s : State) : Out :=
  .next (match s.findJob k seq with
    | none => s
    | some (loc, j) =>
      if !(isCxs j.e.i && j.phase = .running) then s
      else
        let (path, len, recv) := cxsShape k.val j.e
        let start := j.result.toNat
        let earlier (p : Fin 16 × Job × Nat) : Bool :=
          p.2.2 < start || (p.2.2 = start && p.1.val < k.val)
        if (cxsWaiting s).any (fun p => earlier p && pathsShare path (cxsShape p.1.val p.2.1.e).1)
            || !(shutIn s (j.reads ++ j.writes)).isEmpty then (shutIn s (j.reads ++ j.writes)).foldl beginExit s
        else
          let free := Nat.max start (pathFree s path)
          let hops := (meshPath k.val recv).length
          let c := free + 8 + 2 * hops + len
          let slot := (s.locBank k loc).bind Bank.slot
          let j' := { j with result := BitVec.ofNat 64 free }
          let s := reservePath s path (free + len)
          settleCopy s k loc slot j' ((c + 1) / 2) (runCxs s k slot j.e) some)

/-! ## Starting a copy job (R15, R19, R22, R261) -/

/-- Whether the jobs a `cxs` waits on, and its dispatch, were in time for its tick (R261). -/
def cxsInTime (b : Bank) (j : Job) (t : Nat) : Bool := !edgesLate b j t && j.due ≤ 2 * t + 1

/-- The first traversal offset in [t, t + n) whose peer address lies outside the 64 GiB of BAR4, and that address
(R255, R461). -/
def outsideWindow (p : TMap) (t n : Nat) : Option (Nat × Nat) :=
  ((List.range n).find? (fun i => p.addr (t + i) < 0 || 0x1000000000 ≤ p.addr (t + i))).map (fun i =>
    ((p.addr (t + i) % 2 ^ 64).toNat, t + i))

/-- The requests a unit's bytes become: port, offset, bytes, and whether they are poisoned (R109, R461). -/
def pushRequests (port : Nat) : List (Int × Nat) → List Carried → List (Nat × Nat × List Byte × Bool)
  | [], _ => []
  | (a, n) :: r, bs =>
    (port, a.toNat, (bs.take n).map Prod.fst, (bs.take n).any (fun b => b.2.isSome)) :: pushRequests port r (bs.drop n)

/-- The units of a push from u on, `fuel` of them: each is read, then handed to the link (R252, R263). -/
def pushUnits (w : Who) (l p : TMap) (port : Nat) : Nat → Nat → Bool → State → CopyRes
  | 0, _, psn, s => .ok s psn
  | f + 1, u, psn, s =>
    if l.total ≤ 32 * u then .ok s psn
    else
      let n := Nat.min 32 (l.total - 32 * u)
      match mapSource w l s (32 * u) n with
      | .error (c, a, at_) => .stop s c a at_ true psn
      | .ok (s, bs) =>
        match outsideWindow p (32 * u) n with
        | some (a, at_) => .stop s .segv a at_ false psn
        | none =>
          let out := pushRequests port (addrRuns ((List.range n).map (fun i => p.addr (32 * u + i)))) bs
          pushUnits w l p port f (u + 1) (psn || (bs.findSome? Prod.snd).isSome)
            { s with host := { s.host with peerOut := s.host.peerOut ++ out } }

/-- A push hands its data to the link; a pull asks for its data (R263, R461). A push that stops waits for what it has
sent (R254). -/
def startPeer (s0 : State) (k : Fin 16) (loc : Loc) (slot : Option (Fin 16)) (j : Job) (pull : Bool) : State :=
  let w := s0.whoOf slot k true
  let l := toMap (j.e.maps.getD 0 [])
  let p := toMap (j.e.maps.getD 1 [])
  let u0 := nextUnit j
  let again := j.phase = .running
  let port := if again then j.result.toNat else peerPort s0 (j.e.xc.toNat % 4)
  let psn := poisonedSoFar j
  let j := { j with result := BitVec.ofNat 64 port, wait := none }
  -- the entry is taken as it stands when the job starts (R451): without V the request reaches no peer (R255)
  if !again && !peerV s0 (j.e.xc.toNat % 4) then
    s0.setJob k loc (faultJob j .segv (BitVec.ofInt 64 (p.addr (32 * u0))) (copyDetail j.e 0 pull) u0)
  else if pull then s0.setJob k loc { j with phase := .running }
  else
    match pushUnits w l p port (l.total / 32 + 1) u0 psn s0 with
    | .ok s psn => s.setJob k loc { j with phase := .running, psn := psn }
    | .stop s c a off src psn =>
      if c = .xf && pageRequested s0 slot a then s.setJob k loc (waitAtUnit j (off / 32) psn)
      else
        let s := stopJob s k loc slot { j with psn := psn } c a (copyDetail j.e off src) (off / 32) (!src)
        if off / 32 = firstUnit j.e.xr then s
        else
          match s.findJob k j.seq with
          | some (_, j) => s.setJob k loc { j with phase := .running }
          | none => s

/-- A dispatched copy job of core k starts (R15, R252 to R263). -/
def startCopy (s : State) (k : Fin 16) (loc : Loc) (b : Bank) (j : Job) : State :=
  match j.e.i with
  | .cxs _ _ =>
    let t := j.e.stamp.getD 0
    -- a stall of the cluster's clocks defers the send: a grant delay (R437, R441)
    let start := Nat.max t (s.pow.stallUntil.get (clIsland k))
    if b.stoppedAt.isSome || edgeFailed b j || (!j.e.late && s.stamp < start) then s
    else if j.e.late || !cxsInTime b j t then s.setJob k loc (faultJob j .smiss 0 0 0)
    else
      let s := s.setJob k loc { j with phase := .running, result := BitVec.ofNat 64 (2 * start) }
      if start = t then s
      else
        match s.locBank k loc with
        | some b => s.setLocBank k loc { b with
            slip := BitVec.ofNat 64 (start - t), mat := { b.mat with h := b.mat.h + (start - t) } }
        | none => s
  | .cpeer _ f => if edgesMet b j then startPeer s k loc b.slot j (bit f.m 0) else s
  | .cpyw h f =>
    if !edgesMet b j then s
    else
      match s.chanHome k b loc (ix16 f.a) with
      | none => s.setJob k loc (faultJob j .segv (chanBaseW (getChan b f.a)) 0 0)
      | some (_, _, c) =>
        if !chanReady c true (schWA h) then s
        else
          settleCopy s k loc b.slot j s.stamp (runCopy s k b.slot j (ringOf c))
            (fun s => if schAA h then s.advance k b loc (ix16 f.a) true (schWA h) else some s)
  | _ => if edgesMet b j then settleCopy s k loc b.slot j s.stamp (runCopy s k b.slot j (0, 1)) some else s

/-- The source of the bytes a pull gets: what the peer's memory held, with its poison, is open here (log entry 23). -/
def peerSource (p : TMap) : UnitSource := fun s t n =>
  match outsideWindow p t n with
  | some (a, at_) => .error (.segv, a, at_)
  | none =>
    let (bs, s) := freeBytes s n
    let (v, s) := s.draw
    .ok (s, bs.map (fun b => (b, if bit v 0 then some .due else none)))

/-- The acknowledgement of a peer job (R462): a push is over; a pull's data is written, once the slices it touches
answer (R446). -/
def ackPeer (s : State) (k : Fin 16) (loc : Loc) (b : Bank) (j : Job) (pull : Bool) : State :=
  let l := toMap (j.e.maps.getD 0 [])
  let p := toMap (j.e.maps.getD 1 [])
  if !pull then s.setJob k loc (endJob j s.stamp)
  else
    whenOpen s j.writes (fun s => settleCopy s k loc b.slot j s.stamp (copyUnits (s.whoOf b.slot k true) l.addr
      (peerSource p) l.total (l.total / 32 + 1) (nextUnit j) (poisonedSoFar j) s) some)

/-- R462: a peer job of core k whose flush read or read got an error, or nothing within 50 ms, ends with SEGV. The read
that failed is that of unit `u` of a pull, whose earlier units are written (R254); a push has nothing acknowledged, so its
PROG is its first unit (log entry 72), and one that still waits for a page has sent no flush read. -/
def execPeerTimeout (k : Fin 16) (at_ : BitVec 16 × Nat) (s : State) : Out :=
  let (seq, u) := at_
  .next (match s.findJob k seq with
    | some (loc, j) =>
      match j.e.i with
      | .cpeer _ f =>
        let l := toMap (j.e.maps.getD 0 [])
        let p := toMap (j.e.maps.getD 1 [])
        let u0 := firstUnit j.e.xr
        let pull := bit f.m 0
        let last := if pull then Nat.max (nextUnit j) (Nat.min u ((l.total - 1) / 32)) else u0
        let stop (s : State) (psn : Bool) : State := s.setJob k loc (faultJob { j with psn := psn } .segv
          (BitVec.ofInt 64 (p.addr (32 * last))) (copyDetail j.e 0 pull) last)
        if j.phase != .running || (!pull && j.wait.isSome) then s
        else if !pull then stop s j.psn
        else
          whenOpen s j.writes (fun s =>
            let slot := (s.locBank k loc).bind Bank.slot
            let u0 := nextUnit j
            match copyUnits (s.whoOf slot k true) l.addr (peerSource p) l.total (last - u0) u0 (poisonedSoFar j) s with
            | .ok s psn => stop s psn
            | .stop s1 c a off src psn =>
              if c = .xf && pageRequested s slot a then s1.setJob k loc (waitAtUnit j (off / 32) psn)
              else stopJob s1 k loc slot { j with psn := psn } c a (copyDetail j.e off src) (off / 32) (!src))
      | _ => s
    | none => s)

end Sys2Proof.Machine
end

