-- ==== Sys2Proof/Machine/Flash.lean ====
section
/-!
DEFINITION. The flash of a weight stack: the BCH code of its pages (R330), the page tag (R329), the stack map and the
relocation pool (R331, R406, R410), disturb counting (R402 to R404), and the flash error log (R356).
-/
namespace Sys2Proof.Machine

/-! ## GF(2^14) (R330) -/

/-- p(x) = x^14 + x^10 + x^6 + x + 1. -/
def gfPoly : Nat := 0x4443

/-- Times α, reduced. -/
def gfDouble (a : Nat) : Nat := if (2 * a).testBit 14 then (2 * a) ^^^ gfPoly else 2 * a

/-- The product over the n low bits of b, by Horner's rule. -/
def gfMulBits (a b : Nat) : Nat → Nat
  | 0 => 0
  | n + 1 => gfDouble (gfMulBits a (b / 2) n) ^^^ (if b.testBit 0 then a else 0)

/-- The product in GF(2^14). -/
def gfMul (a b : Nat) : Nat := gfMulBits a b 14

/-- a^(2^n - 1) · … by repeated squaring: the n-fold square of a. -/
def gfSquares (a : Nat) : Nat → Nat
  | 0 => a
  | n + 1 => gfSquares (gfMul a a) n

/-- a^e for e below 2^n. -/
def gfPowBits (a e : Nat) : Nat → Nat
  | 0 => 1
  | n + 1 => gfMul (if e.testBit 0 then a else 1) (gfPowBits (gfMul a a) (e / 2) n)

def gfPow (a e : Nat) : Nat := gfPowBits a e 15

/-- The inverse: a^(2^14 - 2). -/
def gfInv (a : Nat) : Nat := gfPow a 16382

/-- α^i. -/
def gfAlpha (i : Nat) : Nat := gfPow 2 (i % 16383)

/-! ## Polynomials over GF(2^14), lowest coefficient first -/

def pAdd : List Nat → List Nat → List Nat
  | [], q => q
  | p, [] => p
  | a :: p, b :: q => (a ^^^ b) :: pAdd p q

def pScale (c : Nat) (p : List Nat) : List Nat := p.map (gfMul c)

def pShift (n : Nat) (p : List Nat) : List Nat := List.replicate n 0 ++ p

def pEval (x : Nat) : List Nat → Nat
  | [] => 0
  | a :: p => a ^^^ gfMul x (pEval x p)

/-! ## The code (R330) -/

/-- The product of x + α^(i 2^k) over k = 0, …, 13, as a binary polynomial: the minimal polynomial of α^i where α^i has
fourteen conjugates, its square for i = 129, which has seven. -/
def minPoly (i : Nat) : Nat :=
  let p := (List.range 14).foldl (fun p k =>
    let c := gfSquares (gfAlpha i) k
    pAdd (pShift 1 p) (pScale c p)) [1]
  p.reverse.foldl (fun n b => 2 * n + b) 0

/-- The product of binary polynomials, over the low n bits of b. -/
def bMul (a b : Nat) : Nat → Nat
  | 0 => 0
  | n + 1 => (if b.testBit 0 then a else 0) ^^^ 2 * bMul a (b / 2) n

/-- g(x) of degree 1,008 (R330; log entry 73): the product, for i = 1, 3, …, 143, of the fourteen factors
x + α^(i 2^k). For every i but 129 they are the minimal polynomial of α^i; α^129 has order 127, so that its factors are
the square of its minimal polynomial, which the degree and the 126 parity bytes that R329 and R330 state require. -/
def bchGen : Nat := (List.range 72).foldl (fun g i => bMul g (minPoly (2 * i + 1)) 15) 1

/-- v mod g, for v of at most n + 1008 bits. -/
def bchRem (g : Nat) : Nat → Nat → Nat
  | 0, v => v
  | n + 1, v => bchRem g n (if v.testBit (n + 1008) then v ^^^ (g <<< n) else v)

/-- The n bytes of v in reverse order. -/
def revBytes : Nat → Nat → Nat → Nat
  | 0, _, acc => acc
  | n + 1, v, acc => revBytes n (v / 256) (acc * 256 + v % 256)

/-- The 126 parity bytes of 1,024 data bytes, as little-endian numbers. -/
def bchParity (d : Nat) : Nat := revBytes 126 (bchRem bchGen 8192 (revBytes 1024 d 0 <<< 1008)) 0

/-- The codeword polynomial of data and parity bytes. -/
def bchWord (d p : Nat) : Nat := (revBytes 1024 d 0 <<< 1008) ||| revBytes 126 p 0

/-- Syndrome i of a remainder: its value at α^i. -/
def syndrome (r i : Nat) : Nat :=
  let x := gfAlpha i
  (List.range 1008).foldl (fun a k => gfMul a x ^^^ (if r.testBit (1007 - k) then 1 else 0)) 0

/-- The state of the Berlekamp-Massey search for the error locator. -/
structure Locator where
  c : List Nat
  b : List Nat
  l : Nat
  m : Nat
  d : Nat
  deriving DecidableEq, Repr

/-- One step with the syndromes in order. -/
def locatorStep (s : List Nat) (x : Locator) (n : Nat) : Locator :=
  let d := (List.range (x.l + 1)).foldl (fun a i => a ^^^ gfMul (x.c.getD i 0) (if i ≤ n then s.getD (n - i) 0 else 0)) 0
  if d = 0 then { x with m := x.m + 1 }
  else
    let c := pAdd x.c (pShift x.m (pScale (gfMul d (gfInv x.d)) x.b))
    if 2 * x.l ≤ n then { c := c, b := x.c, l := n + 1 - x.l, m := 1, d := d } else { x with c := c, m := x.m + 1 }

/-- The error positions of a codeword polynomial: none when decoding fails (R330). -/
def bchErrors (w : Nat) : Option (List Nat) :=
  let r := bchRem bchGen 8192 w
  if r = 0 then some []
  else
    let s := (List.range 144).map (fun i => syndrome r (i + 1))
    let x := (List.range 144).foldl (locatorStep s) ⟨[1], [1], 0, 1, 1⟩
    let roots := (List.range 9200).filter (fun p => pEval (gfAlpha (16383 - p)) x.c = 0)
    if x.l ≤ 72 && roots.length = x.l then some roots else none

/-! ## Pages (R329) -/

/-- Data bytes of codeword k of a page, as a number. -/
def cwData (raw : BitVec 73728) (k : Nat) : Nat := (bits raw (8192 * k) 8192).toNat

/-- Parity bytes of codeword k. -/
def cwParity (raw : BitVec 73728) (k : Nat) : Nat := (bits raw (65536 + 1008 * k) 1008).toNat

/-- The bit of a page that a codeword position stands for (R330). -/
def cwBit (k p : Nat) : Nat :=
  if p < 1008 then 65536 + 1008 * k + 8 * (125 - p / 8) + p % 8
  else 8192 * k + 8 * (1023 - (p - 1008) / 8) + (p - 1008) % 8

/-- Invert bits of a page. -/
def flipBits (raw : BitVec 73728) (l : List Nat) : BitVec 73728 :=
  l.foldl (fun r i => r ^^^ (1#73728 <<< i)) raw

/-- The error positions of codeword k of a page. -/
def cwErrors (raw : BitVec 73728) (k : Nat) : Option (List Nat) := bchErrors (bchWord (cwData raw k) (cwParity raw k))

/-- CRC-32C of bytes (log entry 14). -/
def crcBits : Nat → Nat → Nat
  | 0, c => c
  | n + 1, c => crcBits n (if c.testBit 0 then (c / 2) ^^^ 0x82F63B78 else c / 2)

def crc32c (bs : List Byte) : Nat := (bs.foldl (fun c b => crcBits 8 (c ^^^ b.toNat)) 0xFFFFFFFF) ^^^ 0xFFFFFFFF

/-- A page tag (R329). -/
structure PageTag where
  ext : Nat
  lp : Nat
  kind : Nat
  isSealed : Bool
  wseq : Nat
  deriving DecidableEq, Repr

/-- The twelve bytes a tag's CRC covers, as a number. -/
def tagBody (t : PageTag) : Nat :=
  t.ext % 2 ^ 32 + (t.lp % 2 ^ 18 + t.kind % 4 * 2 ^ 18 + (if t.isSealed then 2 ^ 20 else 0)) * 2 ^ 32
    + t.wseq % 2 ^ 32 * 2 ^ 64

/-- The sixteen tag bytes. -/
def packTag (t : PageTag) : Nat := tagBody t + crc32c (toBytes 12 (tagBody t)) * 2 ^ 96

/-- The tag of a page, and whether its CRC is right. -/
def tagOf (raw : BitVec 73728) : PageTag × Bool :=
  let v := (bits raw (65536 + 8064) 128).toNat
  (⟨v % 2 ^ 32, v / 2 ^ 32 % 2 ^ 18, v / 2 ^ 50 % 4, v.testBit 52, v / 2 ^ 64 % 2 ^ 32⟩,
    v / 2 ^ 96 = crc32c (toBytes 12 v))

/-- A page as programmed: data, the parity of each codeword, the tag (R329, R366). -/
def makePage (data : Nat) (t : PageTag) : BitVec 73728 :=
  let par := (List.range 8).foldl (fun a k => a + bchParity (data / 2 ^ (8192 * k) % 2 ^ 8192) <<< (1008 * k)) 0
  BitVec.ofNat 73728 (data % 2 ^ 65536 + par * 2 ^ 65536 + packTag t * 2 ^ (65536 + 8064))

/-- The 8,192 data bytes of a page, as a number. -/
def pageData (raw : BitVec 73728) : Nat := (bits raw 0 65536).toNat

/-- The data bytes of a page. -/
def pageBytes (raw : BitVec 73728) : List Byte := toBytes 8192 (pageData raw)

/-! ## Keys and the stack map (R328, R331) -/

def pairKey (die q : Nat) : Nat := 64 * die + q
def blockKey (pk blk : Nat) : Nat := 256 * pk + blk
def sbKey (pk blk sb : Nat) : Nat := 24 * blockKey pk blk + sb
def lsbKey (pk n : Nat) : Nat := 8192 * pk + n
/-- A physical page of a plane: `page` is 1152 × block + page of the block. -/
def pageKey (die plane page : Nat) : Nat := (128 * die + plane) * (1152 * 256) + page

/-- The map entry of the logical sub-block of a logical page. -/
def mapOf (w : Stack) (pk lp : Nat) : Option MapEntry := amapGet w.map (lsbKey pk (lp / 48))

/-- The physical page of a logical page: 1152 × PBLK + 48 × PSB + LP mod 48 (R331). -/
def ppageOf (e : MapEntry) (lp : Nat) : Nat := 1152 * e.pblk + 48 * e.psb + lp % 48

/-- The stored page of a logical page of a plane, where it can be read (R331, R366). -/
def storedPage (w : Stack) (die plane lp : Nat) : Option (Nat × FlashPage) :=
  match mapOf w (pairKey die (plane / 2)) lp with
  | none => none
  | some e =>
    if lp % 48 < e.readable then (amapGet w.pages (pageKey die plane (ppageOf e lp))).map (fun p => (ppageOf e lp, p))
    else none

/-- Whether a logical page of a pair is mapped (R331). -/
def lpMapped (w : Stack) (pk lp : Nat) : Bool :=
  match mapOf w pk lp with
  | some e => lp % 48 < e.programmed
  | none => false

/-! ## Block pairs and the relocation pool (R366, R406, R410) -/

/-- The user blocks of a plane (R328; log entry 15). -/
def userBlocks : Nat := 240

def isRetired (w : Stack) (pk blk : Nat) : Bool := (amapGet w.retired (blockKey pk blk)).getD false
def isDirty (w : Stack) (pk blk : Nat) : Bool := (amapGet w.dirty (blockKey pk blk)).getD false
def pecOf (w : Stack) (pk blk : Nat) : Nat := (amapGet w.pec (blockKey pk blk)).getD 0

/-- Erased, unopened block pairs in service. -/
def erasedBlocks (w : Stack) (pk : Nat) : List Nat :=
  (List.range userBlocks).filter (fun b => !isRetired w pk b && !isDirty w pk b)

/-- The erased block pair with the fewest program/erase cycles, the lowest first. -/
def freshBlock (w : Stack) (pk : Nat) : Option Nat :=
  (erasedBlocks w pk).foldl (fun m b =>
    match m with
    | none => some b
    | some x => if pecOf w pk b < pecOf w pk x then some b else some x) none

/-- The sub-block pairs in a plane pair's relocation pool (R410). -/
def poolSize (w : Stack) (pk : Nat) : Nat :=
  24 * (erasedBlocks w pk).length +
  (match amapGet w.filling pk with
   | some (b, n) => if isRetired w pk b then 0 else 24 - n
   | none => 0)

/-- Allocate a fresh sub-block pair: the next of the block pair being filled, or the first of a fresh one (R366,
R406). -/
def allocSb (w : Stack) (pk : Nat) : Option (Stack × Nat × Nat) :=
  let open_ : Option (Stack × Nat × Nat) :=
    (freshBlock w pk).map (fun b =>
      ({ w with dirty := amapSet w.dirty (blockKey pk b) (some true), filling := amapSet w.filling pk (some (b, 1)) },
        b, 0))
  match amapGet w.filling pk with
  | some (b, n) =>
    if n < 24 && !isRetired w pk b then some ({ w with filling := amapSet w.filling pk (some (b, n + 1)) }, b, n)
    else open_
  | none => open_

/-- Whether a copy is on its way into a block pair. -/
def isTarget (w : Stack) (die q blk : Nat) : Bool :=
  w.relocs.any (fun r => r.die = die && r.q = q && (match r.dst with
    | some d => d.1 = blk
    | none => false))

/-- The logical sub-blocks of a pair mapped into a block pair: (number, entry). -/
def mappedIn (w : Stack) (pk blk : Nat) : List (Nat × MapEntry) :=
  (w.map.filter (fun m => m.1 / 8192 = pk && m.2.pblk = blk)).map (fun m => (m.1 % 8192, m.2))

/-! ## Relocation requests (R404, R405, R409) -/

/-- Rank of a relocation's work (R414). -/
def relocRank : RelocCause → Nat
  | .risk => 1
  | .hard => 2
  | .rebuild _ => 3
  | .retire => 3
  | .soft => 4
  | .compact => 5

/-- Whether a relocation is a `frebuild`'s. -/
def RelocCause.isRebuild : RelocCause → Bool
  | .rebuild _ => true
  | _ => false

/-- A relocation queued on tick t. -/
def newReloc (die q lsb : Nat) (c : RelocCause) (t : Nat) : Reloc := ⟨die, q, lsb, c, none, .toRead, 0, [], [], [], [], 0, false, t⟩

/-- Queue a relocation on tick t; one already queued for the sub-block keeps the higher rank. A rebuild is always queued. -/
def queueReloc (w : Stack) (die q lsb : Nat) (c : RelocCause) (t : Nat) : Stack :=
  let same (r : Reloc) : Bool := r.die = die && r.q = q && r.lsb = lsb && !r.cause.isRebuild
  if !c.isRebuild && w.relocs.any same then
    { w with relocs := w.relocs.map (fun r => if same r && relocRank c < relocRank r.cause then { r with cause := c } else r) }
  else { w with relocs := w.relocs ++ [newReloc die q lsb c t] }

/-! ## Disturb counters (R402 to R404) -/

/-- The weight of a pair sense at a die temperature (R403). -/
def disturbWeight (t : Nat) : Nat := if t ≤ 70 then 1 else if t ≤ 85 then 2 else 4

/-- DIST and its residue as one weighted count, saturating with DIST (R402). -/
def distTop : Nat := 4 * (2 ^ 24 - 1) + 3

def distOf (w : Stack) (pk blk sb : Nat) : Nat := (amapGet w.dist (sbKey pk blk sb)).getD 0

/-- The level a weighted count stands at (R404): 0 none, 1 SOFT, 2 HARD, 3 RISK. -/
def distLevel (d : Nat) : Nat := if 40000000 ≤ d then 3 else if 30000000 ≤ d then 2 else if 20000000 ≤ d then 1 else 0

/-- The level of a logical sub-block. -/
def levelOf (w : Stack) (pk lsb : Nat) : Nat := (amapGet w.level (lsbKey pk lsb)).getD 0

def levelCause : Nat → RelocCause
  | 3 => .risk
  | 2 => .hard
  | _ => .soft

/-- Raise a logical sub-block to a level, queueing its refresh (R404, R405). -/
def raiseLevel (w : Stack) (die q lsb lv t : Nat) : Stack :=
  let pk := pairKey die q
  if lv ≤ levelOf w pk lsb then w
  else queueReloc { w with level := amapSet w.level (lsbKey pk lsb) (some lv) } die q lsb (levelCause lv) t

/-- One pair sense of a page on tick t disturbs its sub-block pair (R403, R404). -/
def disturb (w : Stack) (die q lp ppage t : Nat) : Stack :=
  let pk := pairKey die q
  let blk := ppage / 1152
  let sb := ppage % 1152 / 48
  let d := Nat.min distTop (distOf w pk blk sb + disturbWeight (w.dieTemp.getD die 0))
  let w := { w with dist := amapSet w.dist (sbKey pk blk sb) (some d) }
  raiseLevel w die q (lp / 48) (distLevel d) t

/-! ## Logs and counters of a stack -/

/-- A flash error log entry of a decode that ends on tick `at_` (R356): 1,024 per stack. -/
def logFlash (s : State) (j : Fin 16) (lp plane die ppage cw kind nbits rrd : Nat) (ctx : Word) (at_ : Nat) : State :=
  let dw0 : Word := BitVec.ofNat 64 (lp % 2 ^ 18 + plane % 128 * 2 ^ 18 + die % 8 * 2 ^ 25 + j.val * 2 ^ 28
    + ppage / 1152 % 256 * 2 ^ 32 + ppage % 1152 * 2 ^ 40 + cw % 8 * 2 ^ 51 + kind % 16 * 2 ^ 54)
  let dw1 : Word := BitVec.ofNat 64 (nbits % 128 + rrd % 4 * 128)
  let s := { s with svc := { s.svc with
    flash := s.svc.flash.set j.val ((s.svc.flash.get j).push 1024 (logEntry dw0 dw1 ctx (BitVec.ofNat 64 at_))) j.isLt } }
  if kind = 1 then s else owl s (0x200 + j.val) ctx dw0

/-- Owl's record of an event of Badger's on a stack (R404, R407, R410, R411, R413, R473), by the service core; the
doubleword holds the stack, the event, the pair and the sub-block or block (log entry 16). -/
def owlBadger (s : State) (j : Fin 16) (evt pk n : Nat) : State :=
  owl s 0xFFF 0 (BitVec.ofNat 64 (j.val + evt * 2 ^ 4 + pk * 2 ^ 8 + n * 2 ^ 24))

/-- Charge a context with plane-senses at 171 nJ each (R431), and the stack's allowance (R373). -/
def chargeSenses (s : State) (j : Fin 16) (n : Nat) (ctx : Word) : State :=
  let w := s.stack j
  chargeEnergy (s.setStack j { w with used := w.used + n }) ctx (171 * n)

/-- A relocation that starts its copy again (R407). -/
def Reloc.again (r : Reloc) : Reloc :=
  { r with dst := none, wl := 0, wrote := [], buf := [], asks := [], due := 0, step := .toRead }

/-- A copy into a block pair that is retired starts again elsewhere, unless its switch has begun (R407, R411). -/
def restartInto (die q blk : Nat) (r : Reloc) : Reloc :=
  let into : Bool := match r.dst with
    | some d => d.1 = blk
    | none => false
  let begun : Bool := match r.step with
    | .moving | .switching _ => true
    | _ => false
  if r.die = die && r.q = q && into && !begun then r.again else r

/-- Retire a block pair (R411): its mapped sub-blocks are relocated, and copies into it start again elsewhere; RET rises;
Owl records it. -/
def retireBlock (s : State) (j : Fin 16) (die q blk : Nat) : State :=
  let w := s.stack j
  let pk := pairKey die q
  if isRetired w pk blk then s
  else
    let w := { w with
      retired := amapSet w.retired (blockKey pk blk) (some true)
      retCount := w.retCount + 1
      filling := match amapGet w.filling pk with
        | some (b, _) => if b = blk then amapSet w.filling pk none else w.filling
        | none => w.filling
      relocs := w.relocs.map (restartInto die q blk) }
    let w := (mappedIn w pk blk).foldl (fun w m => queueReloc w die q m.1 .retire s.stamp) w
    owlBadger (s.setStack j w) j 4 pk blk

/-- A pair sense disturbs its sub-block pair; Owl records an entry to RISK (R404). -/
def disturbAt (s : State) (j : Fin 16) (die q lp ppage : Nat) : State :=
  let pk := pairKey die q
  let w := s.stack j
  let u := disturb w die q lp ppage s.stamp
  let s := s.setStack j u
  if levelOf w pk (lp / 48) < 3 && levelOf u pk (lp / 48) = 3 then owlBadger s j 1 pk (lp / 48) else s

/-- Senses of a sub-block pair that is not mapped yet, such as a read-back's (R403, R406). -/
def disturbFresh (w : Stack) (die q blk sb n : Nat) : Stack :=
  let pk := pairKey die q
  let d := Nat.min distTop (distOf w pk blk sb + n * disturbWeight (w.dieTemp.getD die 0))
  { w with dist := amapSet w.dist (sbKey pk blk sb) (some d) }

/-- A page that was rebuilt and fails to decode again retires its block pair (R411). -/
def retireMended (s : State) (j : Fin 16) (die plane ppage : Nat) : State :=
  match amapGet (s.stack j).pages (pageKey die plane ppage) with
  | some g => if g.mended then retireBlock s j die (plane / 2) (ppage / 1152) else s
  | none => s

/-! ## Error injection (R475) -/

/-- The bits that injection inverts in a sense of a page (R475, KIND 4), with the slots used up. -/
def injectFlash (s : State) (j : Fin 16) (die plane lp : Nat) : State × List Nat :=
  let l := armedSlots s 4 (fun x => (bits x.target 0 4).toNat = j.val && (bits x.target 4 3).toNat = die
    && (bits x.target 7 7).toNat = plane && (bits x.target 14 18).toNat = lp && (bits x.dw0 16 14).toNat < 9200)
  (l.foldl (fun s p => useInjection s p.1) s, l.map (fun p => cwBit (bits p.2.loc 0 3).toNat (bits p.2.dw0 16 14).toNat))

end Sys2Proof.Machine
end

