-- ==== Sys2Proof/Machine/MatMath.lean ====
section
/-!
DEFINITION. The arithmetic of the matrix engine: element decoding at the array edge (R79), the accumulation chain
(R80, R81), the softmax row of `mattn` (R312), and the drain of one element (R82, R315). Tiles are bit images, row r
at bits 4096r, element c of a row at 32c (R293).
-/
namespace Sys2Proof.Machine

/-! ## Tiles (R293) -/

/-- Element (r, c) of a tile, an FP32 code. -/
def tileElt (t : Tile) (r c : Nat) : Nat := (bits t.elems (4096 * r + 32 * c) 32).toNat
def tileM (t : Tile) (r : Nat) : Nat := (bits t.m (32 * r) 32).toNat
def tileL (t : Tile) (r : Nat) : Nat := (bits t.l (32 * r) 32).toNat
def tileNaN (t : Tile) (r : Nat) : Bool := bit t.nan r

/-- FP32 codes packed from the lowest bits up. -/
def pack32 : List Nat → Nat
  | [] => 0
  | x :: r => x % 2 ^ 32 + 2 ^ 32 * pack32 r

/-- Replace elements 0 to n − 1 of a tile row by the codes of a list of length n. -/
def setTileRow (t : Tile) (r : Nat) (l : List Nat) : Tile :=
  { t with elems := putBits t.elems (4096 * r) (32 * l.length) (pack32 l) }

def setTileM (t : Tile) (r v : Nat) : Tile := { t with m := putBits t.m (32 * r) 32 v }
def setTileL (t : Tile) (r v : Nat) : Tile := { t with l := putBits t.l (32 * r) 32 v }

/-- Put a row into NaN-state (R308, R312). -/
def nanRow (t : Tile) (r : Nat) : Tile :=
  let t := setTileRow t r (List.replicate 128 nan32)
  let t := setTileL (setTileM t r nan32) r nan32
  { t with nan := putBits t.nan r 1 1 }

/-- Set the poison bit of a row; the mark already there stays. -/
def poisonRow (t : Tile) (r : Nat) (m : Mark) : Tile :=
  if (amapGet t.poison r).isSome then t else { t with poison := amapSet t.poison r (some m) }

/-- The tile in the `mzero` state, with the chain record it has (kept at enqueue, R294). -/
def clearTile (t : Tile) : Tile := { Tile.mzero with kind := t.kind, scaleId := t.scaleId }

def getTile (b : Bank) (i : Nat) : Tile := b.mat.tiles.get ⟨i % 8, Nat.mod_lt _ (by decide)⟩

def putTile (b : Bank) (i : Nat) (t : Tile) : Bank :=
  { b with mat := { b.mat with tiles := b.mat.tiles.set (i % 8) t (Nat.mod_lt _ (by decide)) } }

/-- Set or clear an XLIVE bit (R293). -/
def setLive (b : Bank) (i : Nat) (v : Bool) : Bank :=
  { b with xlive := putBits b.xlive (i % 8) 1 (if v then 1 else 0) }

/-! ## Operand formats (R79) -/

/-- The class of a format code: products per rounding G, or none outside the classes. -/
def classG (fc : Nat) : Option Nat :=
  match fc with
  | 1 | 2 | 7 => some 1
  | 3 | 4 | 6 => some 2
  | 5 => some 4
  | _ => none

/-- Element k of a stored row (R60), decoded exactly. -/
def rowElt (fc row k : Nat) : Val :=
  let w := fmtWidth fc
  decodeVal fc (row / 2 ^ (w * k) % 2 ^ w)

/-! ## The accumulation chain (R80, R81) -/

/-- A product of a chain, or none for an invalid one (R81). -/
def chainMul (p : Val × Val) : Option Val :=
  if p.1.isNaN || p.2.isNaN then none else Val.mul? p.1 p.2

/-- The exact sum of a group's products; none when it is invalid (R81). -/
def groupSum : List (Val × Val) → Option Val
  | [] => none
  | [p] => chainMul p
  | p :: r =>
    match chainMul p, groupSum r with
    | some x, some y => Val.add? x y
    | _, _ => none

/-- The products of one group, k ≥ K padded with +0 (R80). -/
def padGroup (g : Nat) (l : List (Val × Val)) : List (Val × Val) :=
  l ++ List.replicate (g - l.length) (.fin false 0 0, .fin false 0 0)

/-- A chain of R80 over operand pairs in ascending k, g to a rounding, from an FP32 accumulator, with `fuel` groups.
Once R81 makes the accumulator the default NaN it stays so. An accumulator that is a NaN when the chain starts (loaded by
`mld`) keeps its sign and payload, quieted (R70's rounding of a NaN; DEDUCED, log entry 71). -/
def chainRun (g : Nat) : Nat → List (Val × Val) → Nat → Nat
  | 0, _, acc => acc
  | f + 1, l, acc =>
    if l.isEmpty then acc
    else
      match groupSum (padGroup g (l.take g)) with
      | none => nan32
      | some s =>
        match decodeVal 0 acc with
        | .nan n x => chainRun g f (l.drop g) (r32 (.nan n x))
        | a =>
          match Val.add? a s with
          | none => nan32
          | some v => chainRun g f (l.drop g) (r32 v)

/-- A whole chain. -/
def chain (g : Nat) (l : List (Val × Val)) (acc : Nat) : Nat := chainRun g l.length l acc

/-! ## Latched operands (R298, R299, R309) -/

/-- The format code of a latch's rows: that of the entry that filled it. -/
def latchFC (l : Latch) (id : Nat) : Nat :=
  fmtFC (if id = 0 then l.entry.fxk else if id = 1 then l.entry.fxv else l.entry.fxs)

def latchTR (l : Latch) : Bool :=
  match l.entry.i with
  | .mlatch _ f => mxTR f
  | _ => false

/-- The stored row a latch cell lies in. -/
def latchRowOf (l : Latch) (red col : Nat) : Nat := if latchTR l then col else red

/-- Cell (reduction row, column) of a latch; an invalid row is marked by none (R311). -/
def latchElt (l : Latch) (id red col : Nat) : Option Val :=
  let j := latchRowOf l red col
  if l.invalid.getD j false then none
  else some (rowElt (latchFC l id) (l.rows.getD j 0) (if latchTR l then red else col))

/-- A factor pair; an invalid latched row contributes a +0 product (R311). -/
def factor (a : Val) (b : Option Val) : Val × Val :=
  match b with
  | some b => (a, b)
  | none => (.fin false 0 0, .fin false 0 0)

/-- The products of streamed row `a` (format fc) with column c of a latch, k from 0 to n − 1, the streamed element at
k + off. -/
def colPairs (fc a off : Nat) (l : Latch) (id n c : Nat) : List (Val × Val) :=
  (List.range n).map (fun k => factor (rowElt fc a (k + off)) (latchElt l id k c))

/-! ## The softmax row (R312, R313) -/

/-- The larger of two FP32 codes that are no NaN, −0 below +0 (R76). -/
def max32 (a b : Nat) : Nat := if zLt (decodeVal 0 a) (decodeVal 0 b) then b else a

/-- e^(a − b) as R312 forms it: two roundings, then Exp2. -/
def expDiff (a b : Nat) : Nat :=
  let d := (fSub 0 (decodeVal 0 a) (decodeVal 0 b)).1
  (expE (decodeVal 0 d)).1

/-- x × y and x + y of FP32 codes. -/
def mul32 (x y : Nat) : Nat := (fMul 0 (decodeVal 0 x) (decodeVal 0 y)).1
def add32 (x y : Nat) : Nat := (fAdd 0 (decodeVal 0 x) (decodeVal 0 y)).1

def negInf32 : Nat := 0xFF800000
def posInf32 : Nat := 0x7F800000

/-- Whether an FP32 code is a NaN. -/
def isNaN32 (x : Nat) : Bool := (decodeVal 0 x).isNaN

/-- P[j] of a score (R312), a BF16 code. -/
def softP (z mn : Nat) : Nat := if z = negInf32 then 0 else (roundIEEE (decodeVal 0 (expDiff z mn)) 1).1

/-- One row of `mattn` from its scores z (R312): the tile row afterwards. `vcol c` gives the V column of column c, row
by row; dv columns. -/
def softRow (t : Tile) (r : Nat) (z : List Nat) (vcol : Nat → List (Option Val)) (dv : Nat) : Tile :=
  if tileNaN t r then t
  else if z.any (fun x => isNaN32 x || x = posInf32) then nanRow t r
  else
    let mx := z.foldl max32 negInf32
    if mx = negInf32 then t
    else
      let mn := max32 (tileM t r) mx
      let a := expDiff (tileM t r) mn
      let ps := z.map (fun x => softP x mn)
      let l := ps.foldl (fun l p => add32 l (r32 (decodeVal 1 p))) (mul32 (tileL t r) a)
      let row := (List.range dv).map (fun c =>
        chain 1 ((ps.zip (vcol c)).map (fun q => factor (decodeVal 1 q.1) q.2)) (mul32 (tileElt t r c) a))
      setTileL (setTileM (setTileRow t r row) r mn) r l

/-! ## The drain (R64, R82, R315) -/

/-- d(r, c), the exact product of the recorded scales; a scale of −0 enters as +0, a NaN, infinite or negative scale
gives a NaN (R64, R82). -/
def scaleProduct (l : List ScaleCode) : Val :=
  l.foldl (fun d s =>
    let v := decodeVal s.fc s.code
    if d.isNaN || badScale v then .defNaN
    else (Val.mul? d (if v.isZero then .fin false 0 0 else v)).getD .defNaN) (.ofInt 1)

/-- Whether a value is exactly 1. -/
def isOne (v : Val) : Bool := Val.eqv v (.ofInt 1)

/-- Element (r, c) of a drained tile as FP32, before the conversion (R315). The product of a NaN element and a NaN scale
product is formed as any FP32 product of two NaNs (DEDUCED, log entry 71). -/
def drainVal (t : Tile) (r c : Nat) (div : Bool) : Nat :=
  let v := tileElt t r c
  let v := if div then
      (if tileL t r = 0 && !tileNaN t r then 0 else (fDiv 0 (decodeVal 0 v) (decodeVal 0 (tileL t r))).1) else v
  let d := scaleProduct ((amapGet t.rowScales r).getD [] ++ t.latScales)
  if isOne d then v else (fMul 0 (decodeVal 0 v) d).1

/-- The conversion to the output format: RoundIEEE, RoundTF, or ConvInt with RNE (R69 to R71). -/
def drainConv (fc v : Nat) : Nat := (convert 0 fc v false true).1

/-- Elements of width w packed into one little-endian number. -/
def packElts (w : Nat) : List Nat → Nat
  | [] => 0
  | x :: r => x % 2 ^ w + 2 ^ w * packElts w r

/-- The bytes of drained row r under a format entry: N elements, then zeros to the row's footprint (R86, R315). -/
def drainRow (t : Tile) (r : Nat) (div : Bool) (fx : Word) : List Byte :=
  let n := fmtROW fx
  let fc := fmtFC fx
  toBytes (rowBytes fx n) (packElts (fmtWidth fc) ((List.range n).map (fun c => drainConv fc (drainVal t r c div))))

end Sys2Proof.Machine
end

