-- ==== Sys2Proof/Machine/Matrix.lean ====
section
/-!
DEFINITION. The matrix instructions at the control core (R294 to R303, R306, R307, R314, R321, R325): captured
configuration, operand descriptors, the enqueue checks in the order of R307, latch shapes, chain records and
footprints. MATRIX_ENTRY_START gives each entry its effect (MatRun.lean).
-/
namespace Sys2Proof.Machine

/-! ## Captured configuration (R295, R296, R303) -/

/-- The format entry a field of MFX names, unchecked: FXS at 0, FXK at 8, FXV at 16, FXO at 24. -/
def mfxRaw (b : Bank) (sft : Nat) : Word :=
  match fmtIndex b (bits b.mat.mfx sft 6) (bit b.mat.mfx (sft + 6)) with
  | .ok i => b.fmt.get i
  | .error _ => 0

/-- The same entry with the checks of R87. -/
def mfxEntry (b : Bank) (sft : Nat) : Except Stop Word :=
  fmtRowEntry b (bits b.mat.mfx sft 6) (bit b.mat.mfx (sft + 6))

/-- The start stamp E0 and whether E had passed at enqueue (R303, R304 reason 6). -/
def matStamp (s : State) (h : Head) (f : LayA) : Option Nat × Bool :=
  if !schS h && f.c = 0#6 then (none, false)
  else
    let t := (startStamp s h (getReg s.bk f.c)).1
    (some t, t + s.bk.mat.h < s.stamp)

/-- The entry of a matrix instruction with everything R296 captures. -/
def matEntry (s : State) (i : Instr) (h : Head) (f : LayA) : Entry :=
  let b := s.bk
  { jobEntry b i h f with
    stamp := (matStamp s h f).1
    late := (matStamp s h f).2
    fxs := mfxRaw b 0, fxk := mfxRaw b 8, fxv := mfxRaw b 16, fxo := mfxRaw b 24 }

/-! ## Descriptors and operand A (R297, R298) -/

/-- A matrix operand descriptor as read. -/
structure MDesc where
  base : Nat
  pitch : Nat
  n : Nat
  row0 : Nat
  ntab : Nat
  scb : Nat
  bad : Bool
  deriving DecidableEq, Repr

/-- The fields of the four doublewords; `bad` says that a reserved field is set, or BASE or PITCH is malformed. -/
def mDesc (ws : List Word) : MDesc :=
  let w0 := ws.getD 0 0
  let w1 := ws.getD 1 0
  let w2 := ws.getD 2 0
  let w3 := ws.getD 3 0
  { base := (bits w0 0 28).toNat, pitch := (bits w1 0 17).toNat, n := (bits w1 17 7).toNat + 1
    row0 := (bits w2 0 32).toNat, ntab := (bits w2 32 32).toNat, scb := (bits w3 0 28).toNat
    bad := bits w0 28 36 != 0 || bits w1 24 40 != 0 || bits w3 28 36 != 0
      || (bits w0 0 28).toNat % 32 != 0 || (bits w1 0 17).toNat % 32 != 0 }

/-- The bytes the first n rows of a descriptor span: (start, length). -/
def MDesc.span (d : MDesc) (n fp : Nat) : Nat × Nat := (d.base, if n = 0 then 0 else (n - 1) * d.pitch + fp)

/-- The band-scale entries rows 0 to n − 1 use (R297): (start, length). -/
def MDesc.scaleSpan (d : MDesc) (n : Nat) : Nat × Nat :=
  (d.scb + 2 * (d.row0 / 64), 2 * ((d.row0 + n - 1) / 64 - d.row0 / 64 + 1))

/-- The lowest offending address of an on-chip range with the rights (R307, step 2), if any. -/
def rangeBad (s : State) (a n : Nat) (r w : Bool) : Option Nat :=
  if n = 0 then none
  else
    match findSeg (s.segsOf s.bk) a with
    | none => some a
    | some (_, g) =>
      if g.tier != 0 || (r && !g.r) || (w && !g.w) then some a
      else if g.vbase + g.len < a + n then some (g.vbase + g.len) else none

/-- SEGV with the lowest offending address of a list of checks. -/
def segvAll (l : List (Option Nat)) : Except Stop Unit :=
  match l.filterMap id with
  | [] => .ok ()
  | a :: r => enqFault .segv (BitVec.ofNat 64 (r.foldl Nat.min a))

/-- An operand A as enqueue finds it: n rows of fp bytes, where it comes from, and what R307 says of it. -/
structure OpA where
  words : List Word
  n : Nat
  elems : Nat
  ptr : Word
  ill : Bool
  regions : List Region
  scale : Option (Nat × Nat)
  deriving DecidableEq, Repr

/-- A descriptor's address, checked, read and its row ranges checked; `more` are the other address checks. -/
def readDesc (s : State) (ptr : Word) (more : List (Option Nat)) (rows : MDesc → List (Option Nat)) :
    Except Stop (State × List Word) := do
  match rangeBad s ptr.toNat 32 true false with
  | some a => segvAll (some a :: more)
  | none => .ok ()
  let s ← enqRead s ptr ptr 32
  let ws := onWords s ptr 4
  segvAll (more ++ rows (mDesc ws))
  .ok (s, ws)

/-- Operand A of `mlatch`, `mmul` and `mattn` (R298, R307): steps 1 and 2, and what step 3 will say. -/
def operandA (s : State) (f : LayA) (ol vb : Bool) (fx : Word) (more : Nat → List (Option Nat)) :
    Except Stop (State × OpA) := do
  let fp := rowBytes fx (fmtROW fx)
  if ol then
    let sh := s.bk.mat.shapeO.getD ⟨0, 0, false, none, false, 0⟩
    segvAll (more sh.red)
    .ok (s, ⟨[], sh.red, sh.cols, 0, s.bk.mat.shapeO.isNone, [], sh.scale⟩)
  else if f.ka then
    let c := getChan s.bk f.a
    let extra := if vb then 32 else 0
    let g := (c.slot - extra) / fp
    let bad := c.slot < extra || fp = 0 || (c.slot - extra) % fp != 0 || g = 0 || 128 < g
    segvAll ((if c.set then none else some 0) :: (if bad then [] else more g))
    .ok (s, ⟨[], g, fmtROW fx, 0, bad, [], none⟩)
  else
    let ptr := getReg s.bk f.a
    need (ptr.toNat % 32 = 0) (enqFault .align ptr)
    let bnd := fmtBND fx
    let (s, ws) ← readDesc s ptr [] (fun d =>
      rangeBad s (d.span d.n fp).1 (d.span d.n fp).2 true false ::
      (if bnd then [rangeBad s (d.scaleSpan d.n).1 (d.scaleSpan d.n).2 true false] else []) ++ more d.n)
    let d := mDesc ws
    let sc := if bnd then [memRegion (d.scaleSpan d.n).1 (d.scaleSpan d.n).2] else []
    .ok (s, ⟨ws, d.n, fmtROW fx, ptr, d.bad || d.ntab != 0 || d.pitch < fp,
      memRegion (d.span d.n fp).1 (d.span d.n fp).2 :: sc, if bnd then some (d.scb, d.row0) else none⟩)

/-- A tile as a footprint region (R116). -/
def tileRegion (t : Nat) : Region := ⟨.tile, t, t + 1⟩

/-- Update the matrix state of the current bank. -/
def State.setMat (s : State) (g : MatState → MatState) : State := s.setBk { s.bk with mat := g s.bk.mat }

/-- The tile's chain record (R294). -/
def setKind (s : State) (t : Nat) (k : ChainKind) (sc : Option ScaleId) : State :=
  s.setBk (putTile s.bk t { getTile s.bk t with kind := k, scaleId := sc })

/-- Enqueue a matrix job of entry e and operand words (R13, R296). -/
def matEnqueue (s : State) (e : Entry) (dst : Reg) (ws : List Word) (n : Nat) (reads writes : List Region) : State :=
  enqueueJob (touchBands s s.cur e s.stamp) .matrix { e with maps := [ws], vd := n } dst reads writes

/-! ## Latching and gathering (R299, R309, R310) -/

/-- The band-scale identity of a latched operand: SCB and the band of its rows, and whether they span two (R302). -/
def latchScale (o : OpA) : Option (Nat × Nat) × Bool :=
  match o.scale with
  | some (scb, row0) => (some (scb, row0 / 64), row0 / 64 != (row0 + o.n - 1) / 64)
  | none => (none, false)

/-- R309: `mlatch`. Its rows are in a format of R79's classes; E2M1 rows are refused with either scale: a latched operand
carries none (R83, R302; log entry 30). -/
def execMlatch (h : Head) (f : LayA) (s : State) : Out :=
  let e := matEntry s (.mlatch h f) h f
  let v := mxARR f
  let fx := if v then e.fxv else e.fxk
  finish s (do
    engineReady s .matrix false
    let (s1, o) ← operandA s f false (mxVB f) fx (fun _ => [])
    let tr := mxTR f
    let red := if tr then o.elems else o.n
    let cols := if tr then o.n else o.elems
    need (!o.ill && red ≤ 32 * bandCount e.mash && cols ≤ 128) (enqFault .ill o.ptr)
    let w ← mfxEntry s1.bk (if v then 16 else 8)
    need (fmtFC w != 5 && (classG (fmtFC w)).isSome) (enqFault .fmte 0)
    let s2 := matEnqueue s1 e h.dst o.words o.n o.regions []
    let shape : Shape := ⟨red, cols, tr, (latchScale o).1, (latchScale o).2, w⟩
    .ok (s2.setMat (fun m => if v then { m with shapeV := some shape } else { m with shapeS := some shape })))

/-- R310: `mgath`. Its rows are in a format of R79's classes; block-scaled rows are refused (R83; log entry 30). -/
def execMgath (h : Head) (f : LayA) (s : State) : Out :=
  let e := matEntry s (.mgath h f) h f
  let n := mxN f
  let fp := rowBytes e.fxs (fmtROW e.fxs)
  finish s (do
    engineReady s .matrix false
    need (e.xa.toNat % 32 = 0) (enqFault .align e.xa)
    need (e.xb.toNat % 4 = 0) (enqFault .align e.xb)
    let (s1, ws) ← readDesc s e.xa [rangeBad s e.xb.toNat (4 * n) true false] (fun d =>
      [rangeBad s (d.span d.ntab fp).1 (d.span d.ntab fp).2 true false])
    let d := mDesc ws
    need (!d.bad && fp ≤ d.pitch) (enqFault .ill e.xa)
    let w ← mfxEntry s1.bk 0
    need ((classG (fmtFC w)).isSome && (fmtFC w != 5 || fmtRSC w)) (enqFault .fmte 0)
    let reads := [memRegion (d.span d.ntab fp).1 (d.span d.ntab fp).2, memRegion e.xb.toNat (4 * n)]
    let s2 := matEnqueue s1 e h.dst ws n reads []
    let sc := if fmtBND e.fxs then some (d.scb, d.row0) else none
    .ok (s2.setMat (fun m => { m with shapeO := some ⟨n, fmtROW e.fxs, false, sc, false, w⟩ })))

/-! ## Products and attention (R302, R311, R312) -/

/-- The formats of an `mmul`: one class, no block scales, no row scales on a latched operand (R302). -/
def mmulFormats (fxs : Word) (latched : List Word) : Bool :=
  match classG (fmtFC fxs) with
  | none => false
  | some g =>
    latched.all (fun w => classG (fmtFC w) = some g && !fmtRSC w && (fmtFC w != 5 || fmtRSC w))
      && (fmtFC fxs != 5 || fmtRSC fxs)

/-- The band-scale identity of a latched operand of an `mmul`, as its fill recorded it (R302). -/
def latchIdentity (sh : Option Shape) : Option (Nat × Nat) := sh.bind Shape.scale

/-- A latched operand whose rows carry band scales and span two bands (R302). -/
def latchSpans (sh : Option Shape) : Bool :=
  match sh with
  | some x => x.spans
  | none => false

/-- The format entry the rows of a latch are stored under, or the captured entry while none is recorded (R79, R302; log
entry 71). -/
def latchEntry (sh : Option Shape) (fx : Word) : Word :=
  match sh with
  | some x => x.fx
  | none => fx

/-- The entry the streamed rows are stored under: with OL = 1 that of the last `mgath` (R298). -/
def streamEntry (m : MatState) (f : LayA) (fx : Word) : Word := if mxOL f then latchEntry m.shapeO fx else fx

/-- R311: `mmul`. -/
def execMmul (h : Head) (f : LayA) (s : State) : Out :=
  let e := matEntry s (.mmul h f) h f
  let two := mxTWO f
  let t := mxT f
  finish s (do
    engineReady s .matrix false
    let (s1, o) ← operandA s f (mxOL f) false e.fxs (fun _ => [])
    let m := s1.bk.mat
    let nb := bandCount e.mash
    let shapeOk := match m.shapeS with
      | none => true
      | some x =>
        !x.tr && x.red ≤ 32 * nb &&
        (match m.shapeV with
         | none => two || o.elems = x.red
         | some y => if two then y.cols = x.cols && y.red ≤ 32 * nb && o.elems = x.red + y.red else o.elems = x.red)
    need (!o.ill && shapeOk) (enqFault .ill o.ptr)
    let tile := getTile s1.bk t
    need (tile.kind != .attn) (enqFault .fmte 0)
    let fxs ← mfxEntry s1.bk 0
    let fxk ← mfxEntry s1.bk 8
    let fxv ← (if two then mfxEntry s1.bk 16 else .ok fxk)
    let sx := streamEntry m f fxs
    let lk := latchEntry m.shapeS fxk
    need (mmulFormats fxs [fxk, fxv] && mmulFormats sx [lk, if two then latchEntry m.shapeV fxv else lk]
      && !latchSpans m.shapeS && (!two || !latchSpans m.shapeV)) (enqFault .fmte 0)
    let idK := latchIdentity m.shapeS
    need (!two || latchIdentity m.shapeV = idK) (enqFault .fmte 0)
    let sid : ScaleId := ⟨idK, fmtRSC sx, o.scale⟩
    need (tile.kind = .none || (tile.scaleId = some sid && !fmtRSC sx)) (enqFault .fmte 0)
    let s2 := matEnqueue s1 { e with fxs := if mxOL f then sx else e.fxs } h.dst o.words o.n (o.regions ++ [tileRegion t]) [tileRegion t]
    .ok (setKind s2 t .plain (some sid)))

/-- The bitmap rows of an `mattn` with BMP = 1 (R313). -/
def bitmapSpan (e : Entry) (n : Nat) : Nat × Nat := ((bits e.mbmp 0 28).toNat, 16 * n)

/-- The formats of an `mattn`: no scales, Q and K in one class, V in a 16-bit or 8-bit one (R302). -/
def mattnFormats (fxs fxk fxv : Word) : Bool :=
  [fxs, fxk, fxv].all (fun w => !fmtBND w && fmtFC w != 5 && (classG (fmtFC w)).isSome)
    && classG (fmtFC fxs) = classG (fmtFC fxk)

/-- R312: `mattn`; sP holds the positions. -/
def execMattn (h : Head) (f : LayA) (s : State) : Out :=
  let e := matEntry s (.mattn h f) h f
  let t := mxT f
  let bmp := bit e.mmsk 2
  finish s (do
    engineReady s .matrix false
    let (s1, o) ← operandA s f (mxOL f) false e.fxs (fun n =>
      if bmp then [rangeBad s (bitmapSpan e n).1 (bitmapSpan e n).2 true false] else [])
    let m := s1.bk.mat
    let nb := bandCount e.mash
    let okS := match m.shapeS with
      | none => true
      | some x => x.tr && x.red ≤ 32 * nb && o.elems = x.red
    let okV := match m.shapeV with
      | none => true
      | some y => y.red ≤ 32 * nb && (match m.shapeS with
        | some x => x.cols = y.red
        | none => true)
    need (!o.ill && okS && okV) (enqFault .ill o.ptr)
    let tile := getTile s1.bk t
    need (tile.kind != .plain) (enqFault .fmte 0)
    let fxs ← mfxEntry s1.bk 0
    let fxk ← mfxEntry s1.bk 8
    let fxv ← mfxEntry s1.bk 16
    let sx := streamEntry m f fxs
    need (mattnFormats fxs fxk fxv && mattnFormats sx (latchEntry m.shapeS fxk) (latchEntry m.shapeV fxv))
      (enqFault .fmte 0)
    let bm := if bmp then [memRegion (bitmapSpan e o.n).1 (bitmapSpan e o.n).2] else []
    let s2 := matEnqueue s1 { e with fxs := if mxOL f then sx else e.fxs } h.dst o.words o.n
      (o.regions ++ bm ++ [tileRegion t]) [tileRegion t]
    .ok (setKind s2 t .attn none))

/-! ## Pairs (R321) -/

/-- The partner core of an `mpair`. -/
def pairPartner (e : Entry) : Fin 16 := ⟨e.xa.toNat % 16, Nat.mod_lt _ (by decide)⟩

/-- Whether a tile's chain carries scales (R321). -/
def chainScaled (t : Tile) : Bool :=
  match t.scaleId with
  | some i => i.latched.isSome || i.rowScaled || i.streamed.isSome
  | none => false

/-- R321: `mpair.lead` and `mpair.foll`. -/
def execMpair (h : Head) (f : LayA) (s : State) : Out :=
  let e := matEntry s (.mpair h f) h f
  let t := mxT f
  let inU := match s.launchOf s.bk with
    | some l => bit l.hdr.cormask (e.xa.toNat % 16)
    | none => false
  finish s (do
    engineReady s .matrix false
    need (bits e.xa 4 60 = 0 && inU && e.xa.toNat / 4 != s.cur.val / 4) (enqFault .ill e.xa)
    let tile := getTile s.bk t
    need (tile.kind != .attn && !chainScaled tile) (enqFault .fmte 0)
    .ok (matEnqueue s e h.dst [] (mxN f) [tileRegion t] (if mxROLE f then [] else [tileRegion t])))

/-! ## Draining, loading, clearing, status (R308, R314 to R317, R320) -/

/-- R315: `mdrain`. -/
def execMdrain (h : Head) (f : LayA) (s : State) : Out :=
  let e := matEntry s (.mdrain h f) h f
  let t := mxT f
  let fp := rowBytes e.fxo (fmtROW e.fxo)
  let flags := f.b != 0#6
  finish s (do
    engineReady s .matrix false
    need (e.xa.toNat % 32 = 0) (enqFault .align e.xa)
    need (!flags || e.xb.toNat % 32 = 0) (enqFault .align e.xb)
    let more := if flags then [rangeBad s e.xb.toNat 16 false true] else []
    let (s1, ws) ← readDesc s e.xa more (fun d => [rangeBad s (d.span d.n fp).1 (d.span d.n fp).2 false true])
    let d := mDesc ws
    need (!d.bad && d.ntab = 0 && fp ≤ d.pitch && (!flags || mxDIV f)) (enqFault .ill e.xa)
    let fxo ← mfxEntry s1.bk 24
    need (fmtFC fxo != 5 && fmtFC fxo != 9 && fmtROW fxo ≤ 128) (enqFault .fmte 0)
    let writes := [memRegion (d.span d.n fp).1 (d.span d.n fp).2]
      ++ (if flags then [memRegion e.xb.toNat 16] else []) ++ (if mxFREE f then [tileRegion t] else [])
    let s2 := matEnqueue s1 e h.dst ws d.n [tileRegion t] writes
    .ok (if mxFREE f then setKind s2 t .none none else s2))

/-- R308: `mld`. -/
def execMld (h : Head) (f : LayA) (s : State) : Out :=
  let e := matEntry s (.mld h f) h f
  let t := mxT f
  let md := f.b != 0#6
  finish s (do
    engineReady s .matrix false
    need (e.xa.toNat % 32 = 0) (enqFault .align e.xa)
    need (!md || e.xb.toNat % 8 = 0) (enqFault .align e.xb)
    let (s1, ws) ← readDesc s e.xa [] (fun d =>
      rangeBad s (d.span d.n 512).1 (d.span d.n 512).2 true false ::
      (if md then [rangeBad s e.xb.toNat (8 * d.n) true false] else []))
    let d := mDesc ws
    need (!d.bad && d.ntab = 0 && 512 ≤ d.pitch) (enqFault .ill e.xa)
    let reads := [memRegion (d.span d.n 512).1 (d.span d.n 512).2]
      ++ (if md then [memRegion e.xb.toNat (8 * d.n)] else [])
    let s2 := matEnqueue s1 e h.dst ws d.n reads [tileRegion t]
    .ok (setKind s2 t (if md then .attn else .none) none))

/-- The tiles of an `mzero` mask. -/
def zeroTiles (f : LayA) : List Nat := (List.range 8).filter (fun i => bit f.m i)

/-- R308: `mzero`. -/
def execMzero (h : Head) (f : LayA) (s : State) : Out :=
  let e := matEntry s (.mzero h f) h f
  finish s (do
    engineReady s .matrix false
    let s1 := matEnqueue s e h.dst [] 0 [] ((zeroTiles f).map tileRegion)
    .ok ((zeroTiles f).foldl (fun s t => setKind s t .none none) s1))

/-- R314: `mmask` writes items 0x103 and 0x104 of the shadow set at enqueue. -/
def execMmask (h : Head) (f : LayA) (s : State) : Out :=
  let e := matEntry s (.mmask h f) h f
  finish s (do
    engineReady s .matrix false
    need (itemValid 0x103 e.xa) (enqFault .ill 0x103)
    need (itemValid 0x104 e.xb) (enqFault .ill 0x104)
    let s1 := matEnqueue s { e with stamp := none, late := false } h.dst [] 0 [] []
    .ok (s1.setMat (fun m => { m with mmsk := e.xa, mbmp := e.xb })))

/-- R316: `mstat`. -/
def execMstat (h : Head) (f : LayA) (s : State) : Out :=
  let e := matEntry s (.mstat h f) h f
  let n := mxN f
  finish s (do
    engineReady s .matrix false
    need (e.xa.toNat % 32 = 0) (enqFault .align e.xa)
    segvAll [rangeBad s e.xa.toNat (8 * n) false true]
    .ok (matEnqueue s e h.dst [] n [tileRegion (mxT f)] [memRegion e.xa.toNat (8 * n)]))

/-- R320: `mtest`. -/
def execMtest (h : Head) (f : LayA) (s : State) : Out :=
  let e := matEntry s (.mtest h f) h f
  finish s (do
    engineReady s .matrix false
    .ok (matEnqueue s e h.dst [] 0 [] []))

/-- R317: `mwait`. -/
def execMwait (h : Head) (f : LayA) (s : State) : Out :=
  let e := matEntry s (.mwait h f) h f
  finish s (do
    engineReady s .matrix false
    .ok (matEnqueue s e h.dst [] 0 [] []))

end Sys2Proof.Machine
end

