-- ==== Sys2Proof/Machine/MatRun.lean ====
section
/-!
DEFINITION. What matrix entries do when they start (R298 to R301, R305, R308 to R320): operand reads, latch fills and
refills, products, attention, drains, and band tests. Operands are read and results written when the entry starts; its
token follows at its completion tick (R305).
-/
namespace Sys2Proof.Machine

/-- What an entry's effect comes to: the new state, its C of R305, whether it wrote poison, and its fault if any: code,
address, DETAIL and the 32-byte sectors its destination traversal had written (R16). -/
structure MatRes where
  s : State
  cycles : Nat
  psn : Bool
  fault : Option (FaultCode × Nat × Word × Nat)
  deriving DecidableEq, Repr

def matOk (s : State) (c : Nat) : MatRes := ⟨s, c, false, none⟩
def matFault (s : State) (c : FaultCode) (a : Nat) (d : Word) : MatRes := ⟨s, 0, false, some (c, a, d, 0)⟩

/-- A fault after n sectors of the destination traversal (R16, R326). -/
def matStop (s : State) (c : FaultCode) (a n : Nat) : MatRes := ⟨s, 0, false, some (c, a, 0, n)⟩

/-! ## Operand rows (R297, R298, R309, R310) -/

/-- Rows as read: each row's stored image, validity, poison and band scale. -/
structure Rows where
  rows : List Nat
  invalid : List Bool
  marks : List (Option Mark)
  scales : List (Option Nat)
  deriving DecidableEq, Repr

/-- The band scale of a stored row, read with it when the entry has BND = 1; its poison poisons the row. -/
def readScale (s : State) (w : Who) (bnd : Bool) (scb band : Nat) :
    Except (FaultCode × Nat) (State × Option Nat × Option Mark) :=
  if !bnd then .ok (s, none, none)
  else
    match engineRead s w (scb + 2 * band) 2 with
    | .error e => .error e
    | .ok (s, r) => .ok (s, some (ofBytes r.bytes), r.poison)

/-- Read stored rows by their indexes in a table of a descriptor. -/
def readRowList (w : Who) (d : MDesc) (fp : Nat) (bnd : Bool) : List Nat → State →
    Except (FaultCode × Nat) (State × Rows)
  | [], s => .ok (s, ⟨[], [], [], []⟩)
  | i :: t, s =>
    match engineRead s w (d.base + i * d.pitch) fp with
    | .error e => .error e
    | .ok (s, r) =>
      match readScale s w bnd d.scb ((d.row0 + i) / 64) with
      | .error e => .error e
      | .ok (s, sc, m) =>
        match readRowList w d fp bnd t s with
        | .error e => .error e
        | .ok (s, q) =>
          .ok (s, ⟨ofBytes r.bytes :: q.rows, false :: q.invalid, r.poison.or m :: q.marks, sc :: q.scales⟩)

/-- Bytes an entry reads of a ring slot: g rows of fp bytes, and with `vb` the validity bitmap after them (R298). -/
def slotBytes (g fp : Nat) (vb : Bool) : Nat := g * fp + (if vb then 16 else 0)

/-- The rows of one ring slot (R298): g rows of fp bytes, and with `vb` the validity bitmap after them. A poisoned bitmap
poisons every row (R326). -/
def ringRows (s : State) (c : Chan) (slot g fp : Nat) (vb : Bool) : Rows :=
  let a := c.base + c.slot * (slot % c.count)
  let bm := s.natAt (onKey (a + g * fp)) 16
  { rows := (List.range g).map (fun j => s.natAt (onKey (a + j * fp)) fp)
    invalid := (List.range g).map (fun j => vb && !bm.testBit j)
    marks := (List.range g).map (fun j =>
      (s.poisonIn (onKey (a + j * fp)) fp).or (if vb then s.poisonIn (onKey (a + g * fp)) 16 else none))
    scales := (List.range g).map (fun _ => none) }

/-- Ring slots of channel n that latches of this bank hold (R298, R300). -/
def heldSlots (m : MatState) (n : Fin 16) : Nat :=
  ([m.latchS, m.latchV, m.latchO].filter (fun l => match l with
    | some ⟨.ring ch _ _, _, _, _, _, _⟩ => ch = n.val
    | _ => false)).length

/-- The wait of a channel operand (R298). -/
def operandReady (c : Chan) (h n : Nat) : Bool := Nat.max n 1 + h ≤ c.filled

/-- The rows of operand A as an entry of a bank starts (R298); the slot read, for a latch. -/
def fetchOperand (s : State) (k : Fin 16) (loc : Loc) (b : Bank) (e : Entry) (f : LayA) (fx : Word) (vb ol : Bool) :
    Except (FaultCode × Nat) (State × Rows × LatchSrc) :=
  let fp := rowBytes fx (fmtROW fx)
  if ol then
    match b.mat.latchO with
    | some l => .ok (s, ⟨l.rows, l.invalid, l.poisoned, l.scales⟩, .gather)
    | none => .ok (s, ⟨[], [], [], []⟩, .gather)
  else if f.ka then
    match s.chanHome k b loc (ix16 f.a) with
    | none => .error (.segv, (getChan b f.a).base)
    | some (_, _, c) =>
      let h := heldSlots b.mat (ix16 f.a)
      let slot := (c.tail + h) % c.count
      let hd := (headOf e.i).getD ⟨0, 0, 0⟩
      let adv := if schAA hd then Nat.max (schWA hd) 1 else 0
      let s := s.probe (onKey (c.base + c.slot * (slot % c.count))) (slotBytes e.vd fp vb) (ctxidOf s b.slot)
      .ok (s, ringRows s c slot e.vd fp vb, .ring (ix16 f.a).val slot adv)
  else
    match readRowList (s.whoOf b.slot k true) (mDesc (e.maps.getD 0 [])) fp (fmtBND fx) (List.range e.vd) s with
    | .error x => .error x
    | .ok (s, r) => .ok (s, r, .desc)

/-- Update the bank at a place. -/
def State.onBank (s : State) (k : Fin 16) (loc : Loc) (g : Bank → Bank) : State :=
  match s.locBank k loc with
  | some b => s.setLocBank k loc (g b)
  | none => s

/-- The advance after a streamed channel operand (R298); none when the home refuses it (R19). -/
def streamAdvance (s : State) (k : Fin 16) (loc : Loc) (b : Bank) (e : Entry) (f : LayA) : Option State :=
  let hd := (headOf e.i).getD ⟨0, 0, 0⟩
  if f.ka && schAA hd then s.advance k b loc (ix16 f.a) false (schWA hd) else some s

/-- The end of a streaming entry: its advance, whose refusal is a job fault SEGV with ADDR := BASE (R19). -/
def streamEnd (s : State) (k : Fin 16) (loc : Loc) (b : Bank) (e : Entry) (f : LayA) (cycles : Nat) : MatRes :=
  match streamAdvance s k loc b e f with
  | some s => matOk s cycles
  | none => matFault s .segv (getChan b f.a).base 0

/-! ## Bands (R292, R319) -/

/-- Rows 0 to n − 1 as a bit set. -/
def rowSet (n : Nat) : BitVec 128 := BitVec.ofNat 128 (2 ^ n - 1)

/-- Record that a job's bands have fed rows 0 to n − 1 of a tile (R319). -/
def contribute (t : Tile) (bands : List (Fin 4)) (n : Nat) : Tile :=
  { t with contrib := bands.foldl (fun c i => c.set i.val (c.get i ||| rowSet n) i.isLt) t.contrib }

/-- The poison bits of the rows a set names. -/
def poisonRows (t : Tile) (rs : BitVec 128) (m : Mark) : Tile :=
  (List.range 128).foldl (fun t r => if bit rs r then poisonRow t r m else t) t

/-- Apply a change to every tile a core holds, in its banks and in the saved banks of its contexts. -/
def State.mapTiles (s : State) (k : Fin 16) (g : Tile → Tile) : State :=
  allLocs.foldl (fun s loc => s.onBank k loc (fun b => { b with mat := { b.mat with tiles := b.mat.tiles.map g } })) s

/-- A mismatch fences a band (R319): ADEF, the logs, and the poison of every tile row the band has fed since its last
passing test. -/
def fenceBand (s : State) (k : Fin 16) (i : Fin 4) : State :=
  let s := touchQueue (touchQueue s k (s.bankAt k false)) k (s.bankAt k true)
  let c := s.core k
  let s := s.setCore k { c with adef := c.adef ||| (1#4 <<< i.val) }
  let s := logArray s k i.val 3 4 0 (ctxidOf s (s.active k).slot)
  s.mapTiles k (fun t => poisonRows t (t.contrib.get i) .due)

/-- A passing test starts the record of what a band has fed afresh (R319). -/
def passBand (s : State) (k : Fin 16) (i : Fin 4) : State :=
  s.mapTiles k (fun t => { t with contrib := t.contrib.set i.val 0 i.isLt })

/-- Whether island BD(c, b) is on and awake (R438); a wake begun is in wakeAt, 0 when none. -/
def bandOn (s : State) (k : Fin 16) (i : Fin 4) : Bool :=
  let n := 4 * (k.val / 4) + i.val
  !bit s.pow.bandOff n && s.pow.wakeAt.getD n 0 ≤ s.stamp

/-! ## Filling latches (R301, R309, R310) -/

/-- The format entry and record bit of a latch. -/
def latchFmt (e : Entry) (l : LatchId) : Word :=
  match l with
  | .s => e.fxk
  | .v => e.fxv
  | .o => e.fxs

/-- The indexes of a gather, in order: the first bad one stops it with its fault (R310). -/
def readIndexes (w : Who) (si ntab : Nat) : List Nat → State → Except (FaultCode × Nat × Word) (State × List Nat)
  | [], s => .ok (s, [])
  | i :: t, s =>
    match engineRead s w (si + 4 * i) 4 with
    | .error (c, a) => .error (c, a, 0)
    | .ok (s, r) =>
      match r.poison with
      | some m => .error (markCode m, si + 4 * i, BitVec.ofNat 64 i)
      | none =>
        let x := ofBytes r.bytes
        if ntab ≤ x then .error (.segv, si + 4 * i, BitVec.ofNat 64 i)
        else
          match readIndexes w si ntab t s with
          | .error e => .error e
          | .ok (s, l) => .ok (s, x :: l)

/-- The rows a gather places in the operand latch. -/
def gatherRows (s : State) (w : Who) (e : Entry) : Except (FaultCode × Nat × Word) (State × Rows) :=
  let d := mDesc (e.maps.getD 0 [])
  match readIndexes w e.xb.toNat d.ntab (List.range e.vd) s with
  | .error x => .error x
  | .ok (s, is) =>
    match readRowList w d (rowBytes e.fxs (fmtROW e.fxs)) (fmtBND e.fxs) is s with
    | .error (c, a) => .error (c, a, 0)
    | .ok (s, r) => .ok (s, r)

/-- A latch from rows. -/
def latchOf (src : LatchSrc) (e : Entry) (r : Rows) : Latch := ⟨src, e, r.rows, r.invalid, r.marks, r.scales⟩

/-- `mlatch` starts: the previous latch of the array is released and the array filled (R300, R309). -/
def runMlatch (s : State) (k : Fin 16) (loc : Loc) (b : Bank) (j : Job) (f : LayA) : MatRes :=
  let id : LatchId := if mxARR f then .v else .s
  match fetchOperand s k loc b j.e f (latchFmt j.e id) (mxVB f) false with
  | .error (c, a) => matFault (releaseLatch s k loc id) c a 0
  | .ok (s, r, src) =>
    match releaseRefused s k loc id with
    | some a => matFault (releaseLatch s k loc id) .segv a 0
    | none =>
      let s := releaseLatch s k loc id
      matOk (s.onBank k loc (fun b => { b with mat := setLatch b.mat id (some (latchOf src j.e r)) })) (2 * j.e.vd + 16)

/-- `mgath` starts (R310). -/
def runMgath (s : State) (k : Fin 16) (loc : Loc) (b : Bank) (j : Job) : MatRes :=
  let s := releaseLatch s k loc .o
  match gatherRows s (s.whoOf b.slot k true) j.e with
  | .error (c, a, d) => matFault s c a d
  | .ok (s, r) =>
    matOk (s.onBank k loc (fun b => { b with mat := setLatch b.mat .o (some (latchOf .gather j.e r)) }))
      (4 * j.e.vd + 16)

/-- C of the instruction that filled a latch (R305). -/
def fillCycles (l : LatchId) (x : Latch) : Nat := (if l = .o then 4 else 2) * x.entry.vd + 16

/-- R301: a latch that is not EMPTY is read again from its source after a bank switch; a refill takes no tags. -/
def refillLatch (s : State) (k : Fin 16) (loc : Loc) (id : LatchId) : State :=
  match s.locBank k loc with
  | none => s
  | some b =>
    match getLatch b.mat id with
    | none => s
    | some l =>
      let f := entryLay l.entry
      let fx := latchFmt l.entry id
      let fp := rowBytes fx (fmtROW fx)
      let w := s.whoOf b.slot k false
      let put (s : State) (r : Rows) : State := s.setLocBank k loc { b with mat :=
        { setLatch b.mat id (some (latchOf l.src l.entry r)) with refill := b.mat.refill + fillCycles id l } }
      match l.src with
      | .ring ch slot _ =>
        match s.chanHome k b loc ⟨ch % 16, Nat.mod_lt _ (by decide)⟩ with
        | some (_, _, c) =>
          let s := s.probe (onKey (c.base + c.slot * (slot % c.count))) (slotBytes l.entry.vd fp (mxVB f)) w.ctx
          put s (ringRows s c slot l.entry.vd fp (mxVB f))
        | none => s
      | .desc =>
        match readRowList w (mDesc (l.entry.maps.getD 0 [])) fp (fmtBND fx) (List.range l.entry.vd) s with
        | .ok (s, r) => put s r
        | .error _ => s
      | .gather =>
        match gatherRows s w l.entry with
        | .ok (s, r) => put s r
        | .error _ => s

/-! ## Products (R311) -/

/-- Reduction rows and columns of a filled latch (R299). -/
def latchRed (l : Latch) (id : LatchId) : Nat :=
  if latchTR l then fmtROW (latchFmt l.entry id) else l.rows.length
def latchCols (l : Latch) (id : LatchId) : Nat :=
  if latchTR l then l.rows.length else fmtROW (latchFmt l.entry id)

/-- The first poison of a latch's rows. -/
def latchPoison (l : Latch) : Option Mark := l.poisoned.findSome? id

/-- The scales of a streamed row: its row scale, then its band scale (R64, R302). -/
def streamScales (fx : Word) (row : Nat) (band : Option Nat) : List ScaleCode :=
  (if fmtRSC fx then [⟨fmtSF fx, row / 2 ^ (8 * elemBytes (fmtFC fx) (fmtROW fx)) % 256⟩] else [])
    ++ (match band with
        | some c => [⟨1, c⟩]
        | none => [])

/-- The band scale of a latched operand, one for all its rows (R302). -/
def latchScales (l : Latch) : List ScaleCode :=
  match l.scales.findSome? id with
  | some c => [⟨1, c⟩]
  | none => []

/-- Row r of an `mmul` (R311). With TWO = 1 the pairs of both latches form one list, so that a group of R80 may span the
boundary at K1 (DESIGN CHOICE where K1 is no multiple of G: R80 and R311 do not say; log entry 71). -/
def mmulRow (t : Tile) (r : Nat) (fxs : Word) (row : Nat) (ls : Latch) (lv : Option Latch) : Tile :=
  let fc := fmtFC fxs
  let g := (classG fc).getD 1
  let k1 := latchRed ls .s
  let acc (c : Nat) : Nat :=
    let p := colPairs fc row 0 ls 0 k1 c
    let q := match lv with
      | some l => colPairs fc row k1 l 1 (latchRed l .v) c
      | none => []
    chain g (p ++ q) (tileElt t r c)
  setTileRow t r ((List.range (latchCols ls .s)).map acc)

/-- The rows of an `mmul` in injection order, with their scales and poison. -/
def mmulRows (fxs : Word) (ls : Latch) (lv : Option Latch) : List (Nat × Option Mark × Option Nat) → Nat → Tile → Tile
  | [], _, t => t
  | (row, m, band) :: rest, r, t =>
    let t := mmulRow t r fxs row ls lv
    let rs := match streamScales fxs row band with
      | [] => amapGet t.rowScales r
      | l => some l
    let t := { t with rowScales := amapSet t.rowScales r rs }
    let bad := (m.or (latchPoison ls)).or (lv.bind latchPoison)
    let t := match bad with
      | some x => poisonRow t r x
      | none => t
    mmulRows fxs ls lv rest (r + 1) t

/-- Rows paired with their poison and band scales. -/
def Rows.list (r : Rows) : List (Nat × Option Mark × Option Nat) := r.rows.zip (r.marks.zip r.scales)

/-- CAD for a core's cluster and a bank's context (R424), at least 1. -/
def cadFor (s : State) (b : Bank) (k : Fin 16) : Nat := Nat.max (cadOf s b k) 1

/-- `mmul` starts. A latched operand's band scale is recorded for the whole tile, also for rows and columns no product of
the chain reaches (DEDUCED, log entry 71). -/
def runMmul (s : State) (k : Fin 16) (loc : Loc) (b : Bank) (j : Job) (f : LayA) (ls : Latch) (lv : Option Latch) :
    MatRes :=
  match fetchOperand s k loc b j.e f j.e.fxs false (mxOL f) with
  | .error (c, a) => matFault s c a 0
  | .ok (s, r, _) =>
    let n := r.rows.length
    let t := mmulRows j.e.fxs ls lv r.list 0 (getTile b (mxT f))
    -- the latched operand's band scale is recorded for the whole tile (log entry 71)
    let t := { t with latScales := latchScales ls }
    let t := contribute t (mappedBands (s.core k) (bandCount j.e.mash)) n
    let s := s.onBank k loc (fun b => setLive (putTile b (mxT f) t) (mxT f) true)
    streamEnd s k loc b j.e f ((n - 1) * cadFor s b k + 160 + (if mxTWO f then 128 else 0))

/-! ## Attention (R312, R313) -/

/-- Masked(r, j) (R313), `bm` the bitmap row. -/
def masked (e : Entry) (ls lv : Latch) (bm r j : Nat) : Bool :=
  let q := (bits e.xb 0 32).toNat + r
  let kp := (bits e.xb 32 32).toNat + j
  let w := (bits e.mmsk 32 32).toNat
  ls.invalid.getD j false || lv.invalid.getD j false
    || (bit e.mmsk 0 && q < kp) || (bit e.mmsk 1 && kp + w ≤ q) || (bit e.mmsk 2 && bm.testBit j)

/-- One row of `mattn`. -/
def mattnRow (t : Tile) (r : Nat) (e : Entry) (row bm : Nat) (ls lv : Latch) : Tile :=
  let fc := fmtFC e.fxs
  let g := (classG fc).getD 1
  let msc := (bits e.msc 0 32).toNat
  let nk := latchCols ls .s
  let z := (List.range nk).map (fun j =>
    if masked e ls lv bm r j then negInf32
    else mul32 (chain g (colPairs fc row 0 ls 0 (latchRed ls .s) j) 0) msc)
  softRow t r z (fun c => (List.range nk).map (fun j => latchElt lv 1 j c)) (latchCols lv .v)

/-- The bitmap rows of an `mattn`, with their poison. -/
def readBitmaps (w : Who) (e : Entry) : List Nat → State → Except (FaultCode × Nat) (State × List (Nat × Option Mark))
  | [], s => .ok (s, [])
  | r :: t, s =>
    if !bit e.mmsk 2 then
      match readBitmaps w e t s with
      | .error x => .error x
      | .ok (s, l) => .ok (s, (0, none) :: l)
    else
      match engineRead s w ((bits e.mbmp 0 28).toNat + 16 * r) 16 with
      | .error x => .error x
      | .ok (s, q) =>
        match readBitmaps w e t s with
        | .error x => .error x
        | .ok (s, l) => .ok (s, (ofBytes q.bytes, q.poison) :: l)

/-- The query rows in stream order. -/
def mattnRows (e : Entry) (ls lv : Latch) : List ((Nat × Option Mark) × (Nat × Option Mark)) → Nat → Tile → Tile
  | [], _, t => t
  | ((row, m), (bm, m')) :: rest, r, t =>
    let t := mattnRow t r e row bm ls lv
    let t := match ((m.or m').or (latchPoison ls)).or (latchPoison lv) with
      | some x => poisonRow t r x
      | none => t
    mattnRows e ls lv rest (r + 1) t

/-- `mattn` starts. -/
def runMattn (s : State) (k : Fin 16) (loc : Loc) (b : Bank) (j : Job) (f : LayA) (ls lv : Latch) : MatRes :=
  match fetchOperand s k loc b j.e f j.e.fxs false (mxOL f) with
  | .error (c, a) => matFault s c a 0
  | .ok (s, r, _) =>
    let n := r.rows.length
    match readBitmaps (s.whoOf b.slot k true) j.e (List.range n) s with
    | .error (c, a) => matFault s c a 0
    | .ok (s, bms) =>
      let t := mattnRows j.e ls lv ((r.rows.zip r.marks).zip bms) 0 (getTile b (mxT f))
      let t := contribute t (mappedBands (s.core k) (bandCount j.e.mash)) n
      let s := s.onBank k loc (fun b => setLive (putTile b (mxT f) t) (mxT f) true)
      streamEnd s k loc b j.e f ((n - 1) * cadFor s b k + 320)

/-! ## Drain, load, status, clear, test (R308, R315, R316, R320) -/

/-- Marks for every sector part of a written range. -/
def sameMarks (va n : Nat) (m : Option Mark) : List (Option Mark) := (parts va n).map (fun _ => m)

/-- Drained rows, written in ascending order (R315); a fault comes with the sectors written before it. -/
def drainRows (w : Who) (t : Tile) (d : MDesc) (div : Bool) (fx : Word) : List Nat → State →
    State × Option (FaultCode × Nat × Nat)
  | [], s => (s, none)
  | r :: rest, s =>
    let bs := drainRow t r div fx
    let va := d.base + r * d.pitch
    match engineWrite s w va bs (sameMarks va bs.length (amapGet t.poison r)) with
    | (s, some (c, a)) => (s, some (c, a, r * (bs.length / 32) + (a - va) / 32))
    | (s, none) => drainRows w t d div fx rest s

/-- The flag bitmap of a divided drain (R315). -/
def drainFlags (t : Tile) (n : Nat) : Nat :=
  (List.range n).foldl (fun a r => if tileL t r = 0 && !tileNaN t r then a + 2 ^ r else a) 0

/-- `mdrain` starts. -/
def runMdrain (s : State) (k : Fin 16) (loc : Loc) (b : Bank) (j : Job) (f : LayA) : MatRes :=
  let t := getTile b (mxT f)
  let n := j.e.vd
  let w := s.whoOf b.slot k true
  let psn := (List.range n).any (fun r => (amapGet t.poison r).isSome)
  match drainRows w t (mDesc (j.e.maps.getD 0 [])) (mxDIV f) j.e.fxo (List.range n) s with
  | (s, some (c, a, n)) => matStop s c a n
  | (s, none) =>
    let (s, fl) :=
      if f.b != 0#6 then engineWrite s w j.e.xb.toNat (toBytes 16 (drainFlags t n)) [] else (s, none)
    match fl with
    | some (c, a) => matStop s c a (n * (rowBytes j.e.fxo (fmtROW j.e.fxo) / 32))
    | none =>
      let s := if mxFREE f then
          s.onBank k loc (fun b => setLive (putTile b (mxT f) (clearTile (getTile b (mxT f)))) (mxT f) false) else s
      ⟨s, 4 * n, psn, none⟩

/-- The rows an `mld` reads, with the metadata words, each with its poison. -/
def loadRows (w : Who) (d : MDesc) (sm : Option Nat) : List Nat → State →
    Except (FaultCode × Nat) (State × List (Nat × Nat × Nat × Option Mark))
  | [], s => .ok (s, [])
  | r :: rest, s =>
    match engineRead s w (d.base + r * d.pitch) 512 with
    | .error e => .error e
    | .ok (s, q) =>
      let meta_ : Except (FaultCode × Nat) (State × Nat × Nat × Option Mark) :=
        match sm with
        | none => .ok (s, negInf32, 0, none)
        | some a =>
          match engineRead s w (a + 8 * r) 8 with
          | .error e => .error e
          | .ok (s, x) => .ok (s, ofBytes (x.bytes.take 4), ofBytes (x.bytes.drop 4), x.poison)
      match meta_ with
      | .error e => .error e
      | .ok (s, m, l, p) =>
        match loadRows w d sm rest s with
        | .error e => .error e
        | .ok (s, t) => .ok (s, (ofBytes q.bytes, m, l, q.poison.or p) :: t)

/-- Put loaded rows into a tile (R308). -/
def putLoaded : List (Nat × Nat × Nat × Option Mark) → Nat → Tile → Tile
  | [], _, t => t
  | (row, m, l, p) :: rest, r, t =>
    let t := { t with elems := putBits t.elems (4096 * r) 4096 row }
    let t := setTileL (setTileM t r m) r l
    let t := if isNaN32 m || m = posInf32 || isNaN32 l then nanRow t r else t
    let t := match p with
      | some x => poisonRow t r x
      | none => t
    putLoaded rest (r + 1) t

/-- `mld` starts. -/
def runMld (s : State) (k : Fin 16) (loc : Loc) (b : Bank) (j : Job) (f : LayA) : MatRes :=
  let sm := if f.b != 0#6 then some j.e.xb.toNat else none
  match loadRows (s.whoOf b.slot k true) (mDesc (j.e.maps.getD 0 [])) sm (List.range j.e.vd) s with
  | .error (c, a) => matFault s c a 0
  | .ok (s, rows) =>
    let t := putLoaded rows 0 (clearTile (getTile b (mxT f)))
    matOk (s.onBank k loc (fun b => setLive (putTile b (mxT f) t) (mxT f) true)) (4 * j.e.vd + 16)

/-- `mzero` starts. -/
def runMzero (s : State) (k : Fin 16) (loc : Loc) (f : LayA) : MatRes :=
  matOk (s.onBank k loc (fun b =>
    (zeroTiles f).foldl (fun b t => setLive (putTile b t (clearTile (getTile b t))) t false) b)) 16

/-- The m and l words of rows 0 to n − 1 (R316). -/
def statBytes (t : Tile) (n : Nat) : List Byte :=
  (List.range n).flatMap (fun r =>
    if tileNaN t r then toBytes 4 nan32 ++ toBytes 4 nan32 else toBytes 4 (tileM t r) ++ toBytes 4 (tileL t r))

/-- The poison of the sectors `mstat` writes: each holds four rows. -/
def statMarks (t : Tile) (n : Nat) : List (Option Mark) :=
  (List.range ((n + 3) / 4)).map (fun i =>
    (List.range 4).findSome? (fun x => if 4 * i + x < n then amapGet t.poison (4 * i + x) else none))

/-- `mstat` starts. -/
def runMstat (s : State) (k : Fin 16) (b : Bank) (j : Job) (f : LayA) : MatRes :=
  let t := getTile b (mxT f)
  let n := j.e.vd
  match engineWrite s (s.whoOf b.slot k true) j.e.xa.toNat (statBytes t n) (statMarks t n) with
  | (s, some (c, a)) => matStop s c a ((a - j.e.xa.toNat) / 32)
  | (s, none) => ⟨s, 2 * n + 16, (statMarks t n).any Option.isSome, none⟩

/-- The bands an `mtest` tests: unfenced and powered ones of its mask (R320). -/
def testedBands (s : State) (k : Fin 16) (f : LayA) : List (Fin 4) :=
  (unfenced (s.core k)).filter (fun i => bit f.m i.val && bandOn s k i)

/-- `mtest` starts: whether a band passes is the hardware's, a free value (log entry 10). -/
def runMtest (s : State) (k : Fin 16) (f : LayA) : MatRes :=
  let bs := testedBands s k f
  let s' := bs.foldl (fun s i =>
    let s1 := { s with fresh := s.fresh + 1 }
    if bit (Config.freeValue s.fresh) 0 then fenceBand s1 k i else passBand s1 k i) s
  matOk s' (32 * bs.length)

end Sys2Proof.Machine
end

