-- ==== Sys2Proof/Machine/MatStart.lean ====
section
/-!
DEFINITION. When matrix entries start (R22, R292, R303, R304, R435 to R437), self-tests (R318, R319), and paired
clusters (R321 to R324).
-/
namespace Sys2Proof.Machine

/-! ## Readiness (R303, R304) -/

/-- The matrix entries of a bank that have not started, in queue order. -/
def matWaiting (b : Bank) : List Job :=
  b.jobs.filter (fun j => j.eng = .matrix && (j.phase = .queued || j.phase = .dispatched))

/-- The effective tick E of a stamped entry (R303). -/
def effTick (b : Bank) (j : Job) : Option Nat := j.e.stamp.map (fun t => t + b.mat.h)

/-- Whether an earlier entry of the engine is still running at tick t (R304 reason 3). -/
def engineBusy (s : State) (k : Fin 16) (loc : Loc) (t : Nat) : Bool :=
  [Loc.bank false, .bank true].any (fun l =>
    match s.locBank k l with
    | none => false
    | some b => b.jobs.any (fun x => x.eng = .matrix &&
        ((x.phase = .running && l = loc) || ((x.phase = .ended || (x.phase = .done && l = loc)) && t < x.due))))

/-- Reason 2: the wait of a channel operand is not satisfied (R298, R304); a refused view is not a wait. -/
def channelShort (s : State) (k : Fin 16) (loc : Loc) (b : Bank) (e : Entry) : Bool :=
  let f := entryLay e
  f.ka && (match s.chanHome k b loc (ix16 f.a) with
    | some (_, _, c) => !operandReady c (heldSlots b.mat (ix16 f.a)) (schWA ((headOf e.i).getD ⟨0, 0, 0⟩))
    | none => false)

/-- Whether a channel view of an entry is refused (R194, R326). -/
def viewRefused (s : State) (k : Fin 16) (loc : Loc) (b : Bank) (e : Entry) : Bool :=
  (entryLay e).ka && (s.chanHome k b loc (ix16 (entryLay e).a)).isNone

/-- Reason 4: a latch the entry needs is EMPTY (R304). -/
def latchMissing (b : Bank) (e : Entry) : Bool :=
  match e.i with
  | .mmul _ f =>
    b.mat.latchS.isNone || (mxTWO f && b.mat.latchV.isNone) || (mxOL f && b.mat.latchO.isNone)
  | .mattn _ f => b.mat.latchS.isNone || b.mat.latchV.isNone || (mxOL f && b.mat.latchO.isNone)
  | _ => false

/-- The first of reasons 1 to 3 that holds at tick t, or 0. -/
def waitReason (s : State) (k : Fin 16) (loc : Loc) (b : Bank) (j : Job) (t : Nat) : Nat :=
  if edgesLate b j t then 1
  else if channelShort s k loc b j.e then 2
  else if engineBusy s k loc t then 3 else 0

/-- An entry takes SMISS (R304); an `mpair` tells its partner (R323). -/
def smiss (s : State) (k : Fin 16) (loc : Loc) (j : Job) (r : Nat) : State :=
  let slot := (s.locBank k loc).bind Bank.slot
  let s := emptySlot (leaveQueue (s.setJob k loc (faultJob j .smiss 0 (BitVec.ofNat 64 r) 0)) k loc j) k loc j.e
  if 1 ≤ r && r ≤ 4 then sendAbort s k slot j.e else s

/-- Stamped entries behind the head whose tick has passed miss it: the entry before them has not completed (R304). -/
def sweepMissed (k : Fin 16) (loc : Loc) (b : Bank) : List Job → State → State
  | [], s => s
  | j :: r, s =>
    sweepMissed k loc b r
      (match effTick b j with
       | some t =>
         if !j.e.late && !edgeFailed b j && t < s.stamp then
           smiss s k loc j (if edgesLate b j t then 1 else if channelShort s k loc b j.e then 2 else 3)
         else s
       | none => s)

/-! ## The limiter's side of a start (R433, R435, R436) -/

/-- w, the active band-units a job needs (R433). -/
def bandUnits (s : State) (k : Fin 16) (e : Entry) : Nat :=
  match e.i with
  | .mmul _ f => (if mxTWO f then 2 else 1) * bandCount e.mash
  | .mattn _ _ => 2 * bandCount e.mash
  | .mtest _ f => (testedBands s k f).length
  | _ => 0

/-- Whether an array holds only filler: its job has completed (R436). -/
def fillerOnly (h : LimHeld) (t : Nat) : Bool :=
  match h.doneTick with
  | some d => d ≤ t
  | none => false

/-- The tick a grant allows the start on, if granted: the core's own tick when its filler covers the job (R436). -/
def grantTick (s : State) (k : Fin 16) (seq : BitVec 16) (w ready : Nat) : Option Nat :=
  match s.pow.granted.find? (fun g => g.1 = k && g.2.1 = seq) with
  | some g => some g.2.2
  | none =>
    let h := s.pow.held.get k
    if s.pow.reqs.any (fun r => r.core = k && r.seq = seq) then none
    else if fillerOnly h s.stamp && w ≤ h.units then some ready else none

/-- Make the request, of the difference over the filler held (R436). -/
def requestGrant (s : State) (k : Fin 16) (seq : BitVec 16) (w ready : Nat) : State :=
  if s.pow.reqs.any (fun r => r.core = k && r.seq = seq) then s
  else
    let h := s.pow.held.get k
    let have_ := if fillerOnly h s.stamp then h.units else 0
    { s with pow := { s.pow with reqs := s.pow.reqs ++ [⟨k, seq, w - have_, ready⟩] } }

/-- Close, at tick t, the span in which an array of core k has held the units it holds, for the energy charges (R431). -/
def closeSpan (s : State) (k : Fin 16) (t : Nat) : State :=
  let h := s.pow.held.get k
  let c := s.core k
  let s := { s with pow := { s.pow with held := s.pow.held.set k.val { h with since := Nat.max t h.since } k.isLt } }
  if h.units = 0 || t ≤ h.since then s
  else s.setCore k { c with bandUse := c.bandUse ++ [⟨h.bands, h.units, h.since, t⟩] }

/-- The array runs a job from tick t until `due`, on some bands; the units it held for the job before, and does not need,
are left over from that job's completion (R435, R436). -/
def holdUnits (s : State) (k : Fin 16) (seq : BitVec 16) (bands : List (Fin 4)) (w t due : Nat) : State :=
  let s := closeSpan s k t
  let h := s.pow.held.get k
  { s with pow := { s.pow with
    granted := s.pow.granted.filter (fun g => !(g.1 = k && g.2.1 = seq))
    held := s.pow.held.set k.val { h with
      need := w, doneTick := some due, prev := h.doneTick
      bands := bands.foldl (fun v i => v ||| (1#4 <<< i.val)) 0 } k.isLt } }

/-- The physical bands a job runs on as it starts (R292, R320). -/
def jobBands (s : State) (k : Fin 16) (e : Entry) : List (Fin 4) :=
  match e.i with
  | .mtest _ f => testedBands s k f
  | i => if onArrays i then mappedBands (s.core k) (bandCount e.mash) else []

/-- The elements of its tile that an entry reads: the tile, rows from row 0 and columns from column 0 (R311 to R314, R322).
`mstat` reads the row metadata alone, which ARR 1 is taken not to address (log entry 66). -/
def tileReads (b : Bank) (e : Entry) : Option (Nat × Nat × Nat) :=
  let rows (f : LayA) : Nat := match b.mat.latchO with
    | some l => if mxOL f then l.rows.length else e.vd
    | none => e.vd
  match e.i with
  | .mmul _ f => some (mxT f, rows f, (b.mat.latchS.map (fun l => latchCols l .s)).getD 0)
  | .mattn _ f => some (mxT f, rows f, (b.mat.latchV.map (fun l => latchCols l .v)).getD 0)
  | .mdrain _ f => some (mxT f, e.vd, fmtROW e.fxo)
  | .mpair _ f => some (mxT f, e.vd, 128)
  | _ => none

/-- The reads of a tile meet the armed injection slots on the words of the accumulator store that they read (R475, ARR 1):
a word is two elements of a row. -/
def probeTile (s : State) (k : Fin 16) (loc : Loc) (b : Bank) (e : Entry) : State :=
  match tileReads b e with
  | none => s
  | some (t, rows, cols) =>
    probeArray s k 1 (fun w => w / 8192 = t && w % 8192 / 64 < rows && w % 64 * 2 < cols) (ctxidOf s b.slot)
      (fun s o m =>
        s.onBank k loc (fun b => putTile b (o / 65536) (poisonRow (getTile b (o / 65536)) (o % 65536 / 512) m)))

/-! ## Pairs (R322) -/

/-- The rows of a pair member's tile, as FP32 row images. -/
def tileRows (t : Tile) (n : Nat) : List Nat := (List.range n).map (fun r => (bits t.elems (4096 * r) 4096).toNat)

/-- An `mpair` starts on tick t (R322): a follower writes its half to the leader's slot; a leader discards a held half
that is not its follower's or is too old. -/
def startPair (s : State) (k : Fin 16) (loc : Loc) (b : Bank) (j : Job) (f : LayA) (t : Nat) : State :=
  let p := pairPartner j.e
  let s := s.setJob k loc { j with phase := .running }
  if mxROLE f then
    let tile := getTile b (mxT f)
    let half : PairSlot := ⟨t, k.val, j.e.vd, tileRows tile j.e.vd, tile.poison.filter (fun x => x.1 < j.e.vd)⟩
    let s := match b.slot.bind (s.locOf p) with
      | some pl => s.onBank p pl (fun pb => { pb with mat := { pb.mat with slot := some half } })
      | none => s
    s.onBank k loc (fun b => { b with mat := { b.mat with pair := .followerWait j.seq t, inbox := none } })
  else
    s.onBank k loc (fun b =>
      let keep := b.mat.slot.filter (fun h => h.follower = p.val && t ≤ h.f + 256)
      { b with mat := { b.mat with pair := .leaderWait j.seq t, slot := keep, inbox := none } })

/-! ## Starting (R296, R301, R305, R437) -/

/-- The effect of a non-pair entry. -/
def matEffect (s : State) (k : Fin 16) (loc : Loc) (b : Bank) (j : Job) : MatRes :=
  match j.e.i with
  | .mlatch _ f => runMlatch s k loc b j f
  | .mgath _ _ => runMgath s k loc b j
  | .mmul _ f =>
    match b.mat.latchS with
    | some ls => runMmul s k loc b j f ls (if mxTWO f then b.mat.latchV else none)
    | none => matOk s 0
  | .mattn _ f =>
    match b.mat.latchS, b.mat.latchV with
    | some ls, some lv => runMattn s k loc b j f ls lv
    | _, _ => matOk s 0
  | .mdrain _ f => runMdrain s k loc b j f
  | .mld _ f => runMld s k loc b j f
  | .mzero _ f => runMzero s k loc f
  | .mstat _ f => runMstat s k b j f
  | .mtest _ f => runMtest s k f
  | _ => matOk s 0

/-- An entry starts on tick t, `delay` ticks after its own tick. -/
def beginEntry (s : State) (k : Fin 16) (loc : Loc) (j : Job) (t delay w : Nat) : State :=
  let s := s.onBank k loc (fun b =>
    { b with
      ashp := j.e.mash
      slip := if w != 0 || delay != 0 then BitVec.ofNat 64 delay else b.slip
      mat := { b.mat with h := b.mat.h + delay } })
  match s.locBank k loc with
  | none => s
  | some b =>
    let extra := b.mat.refill
    let s := probeTile s k loc b j.e
    match j.e.i with
    | .mpair _ f => startPair s k loc ((s.locBank k loc).getD b) j f t
    | _ =>
      let s := s.onBank k loc (fun b => { b with mat := { b.mat with refill := 0 } })
      let b := (s.locBank k loc).getD b
      let bands := jobBands s k j.e
      let r := matEffect s k loc b j
      let due := t + (r.cycles + extra + 1) / 2
      let s := if w = 0 then r.s else holdUnits r.s k j.seq bands w t due
      let s := useBands k due bands s
      match r.fault with
      | none => s.setJob k loc { endJob j due with psn := r.psn }
      | some (c, a, d, n) => s.setJob k loc (faultJob j c (BitVec.ofNat 64 a) d n)

/-- An entry whose own tick has come, with its conditions met at it: it starts when its bands are awake, its grant is
there, and a stall of its cluster's clocks is over (R435, R438, R441). -/
def tryStart (s : State) (k : Fin 16) (loc : Loc) (j : Job) : State :=
  let ready := j.result.toNat
  let bands := if onArrays j.e.i then mappedBands (s.core k) (bandCount j.e.mash) else []
  let stall := s.pow.stallUntil.get (clIsland k)
  let awake := bands.foldl (fun m i => Nat.max m (s.pow.wakeAt.getD (4 * (k.val / 4) + i.val) 0)) stall
  let w := bandUnits s k j.e
  if w = 0 then
    if bands.all (bandOn s k) then
      let t := Nat.max ready awake
      beginEntry s k loc j t (t - ready) 0
    else s
  else
    match grantTick s k j.seq w ready with
    | none => requestGrant s k j.seq w ready
    | some g =>
      if bands.all (bandOn s k) then
        let t := Nat.max g awake
        beginEntry s k loc j t (t - ready) w
      else s

/-- The head entry's own tick t has come and reasons 1 to 3 do not hold: reason 4, BAND, or the start (R292, R304). -/
def passEntry (s : State) (k : Fin 16) (loc : Loc) (b : Bank) (j : Job) (t : Nat) : State :=
  let c := s.core k
  if latchMissing b j.e then smiss s k loc j 4
  else if onArrays j.e.i && (unfenced c).length < bandCount j.e.mash then
    leaveQueue (s.setJob k loc (faultJob j .band 0 (c.adef.setWidth 64) 0)) k loc j
  else
    let j := { j with phase := .dispatched, result := BitVec.ofNat 64 t }
    tryStart (s.setJob k loc j) k loc j

/-- Whether a self-test holds back an unstamped entry (R318). -/
def testRuns (s : State) (k : Fin 16) : Bool :=
  match (s.core k).testing with
  | some (_, t) => s.stamp < t
  | none => false

/-- The head of the matrix queue (R304). -/
def headEntry (s : State) (k : Fin 16) (loc : Loc) (b : Bank) (j : Job) : State :=
  if j.phase = .dispatched then tryStart s k loc j
  else if edgeFailed b j then s
  else if j.e.late then (if engineBusy s k loc s.stamp then s else smiss s k loc j 6)
  else
    match effTick b j with
    | none =>
      if edgesLate b j s.stamp || channelShort s k loc b j.e || engineBusy s k loc s.stamp || testRuns s k then s
      else if viewRefused s k loc b j.e then
        leaveQueue (s.setJob k loc (faultJob j .segv (chanBaseW (getChan b (entryLay j.e).a)) 0 0)) k loc j
      else passEntry s k loc b j s.stamp
    | some t =>
      if s.stamp < t then s
      else
        match waitReason s k loc b j t with
        | 0 =>
          if viewRefused s k loc b j.e then
            leaveQueue (s.setJob k loc (faultJob j .segv (chanBaseW (getChan b (entryLay j.e).a)) 0 0)) k loc j
          else passEntry s k loc b j t
        | r => smiss s k loc j r

/-- R304: the matrix engine of core k decides the head entry of its queue, and the entries behind it whose tick has
passed. -/
def execMatrixEntryStart (k : Fin 16) (s : State) : Out :=
  .next (
    let loc := s.activeLoc k
    if (s.active k).slot.isNone || (s.active k).stoppedAt.isSome || clStalled s k then s
    else
      let s := endMatrixState s k loc
      let b := s.active k
      match matWaiting b with
      | [] => s
      | j :: r =>
        let s := whenOpen s (j.reads ++ j.writes ++ ringRegions s k b loc j.e.i) (fun s => headEntry s k loc b j)
        let b := s.active k
        -- entries behind a head that has passed its own tick move with its delay (R437)
        match matWaiting b with
        | h :: _ => if h.seq = j.seq && h.phase = .queued then sweepMissed k loc b r s else s
        | [] => s)

/-! ## Self-test (R318, R319) -/

/-- Whether the engine may run a self-test now (R318). -/
def mayTest (s : State) (k : Fin 16) : Bool :=
  let b := s.active k
  let loc := s.activeLoc k
  !engineBusy s k loc s.stamp &&
  (match matWaiting b with
   | [] => true
   | j :: _ =>
     j.phase = .queued && !j.e.late &&
     (match effTick b j with
      | some t => s.stamp + 16 ≤ t
      | none => edgesLate b j s.stamp || channelShort s k loc b j.e))

/-- The band whose turn it is: the first from `testBand` on that is neither fenced nor off (R318). -/
def nextTestBand (s : State) (k : Fin 16) : Option (Fin 4) :=
  let c := s.core k
  ((List.finRange 4).map (fun i => (⟨(c.testBand.val + i.val) % 4, Nat.mod_lt _ (by decide)⟩ : Fin 4))).find?
    (fun i => !bit c.adef i.val && bandOn s k i)

/-- R318: core k begins the test of the band whose turn it is; 16 ticks later a second such step ends it, `pass` being what
the hardware finds. -/
def execSelfTest (k : Fin 16) (b : Fin 4) (pass : Bool) (s : State) : Out :=
  .next (
    if clStalled s k then s else
    match (s.core k).testing with
    | some (i, t) =>
      if i = b && t ≤ s.stamp then
        let s := if pass then passBand s k b else fenceBand s k b
        s.setCore k { s.core k with testing := none, testBand := ⟨(b.val + 1) % 4, Nat.mod_lt _ (by decide)⟩ }
      else s
    | none =>
      if mayTest s k && nextTestBand s k = some b then
        s.setCore k { s.core k with testing := some (b, s.stamp + 16) }
      else s)

/-! ## Pair events (R322, R323) -/

/-- A step of the running pair member on core k, whose clocks run (R440). -/
def onPair (k : Fin 16) (s : State) (g : Loc → Bank → State) : Out :=
  .next (
    let b := s.active k
    if b.slot.isSome && b.stoppedAt.isNone && !clStalled s k then g (s.activeLoc k) b else s)

/-- Finish a pair member's job: the wait is over, a leader's slot is emptied, the job ends; a refill's time was part of
it (R305). -/
def endPair (s : State) (k : Fin 16) (loc : Loc) (seq : BitVec 16) (g : Job → Job) : State :=
  let s := s.onBank k loc (fun b =>
    let slot := match b.mat.pair with
      | .followerWait _ _ => b.mat.slot
      | _ => none
    { b with mat := { b.mat with pair := .idle, slot := slot, inbox := none, refill := 0 } })
  match s.findJob k seq with
  | some (l, j) => s.setJob k l (g j)
  | none => s

/-- The partner of a waiting member's job. -/
def partnerOf (b : Bank) (seq : BitVec 16) : Option (Fin 16) :=
  (b.jobs.find? (fun j => j.seq = seq && j.phase = .running)).map (fun j => pairPartner j.e)

/-- Deliver a verdict of the leader on core k to its follower, if that waits for it. -/
def sendVerdict (s : State) (k : Fin 16) (slot : Option (Fin 16)) (p : Fin 16) (m : PairMsg) : State :=
  match slot.bind (s.locOf p) with
  | none => s
  | some loc =>
    s.onBank p loc (fun b =>
      match b.mat.pair with
      | .followerWait _ _ => if pairedWith b k then { b with mat := { b.mat with inbox := some m } } else b
      | _ => b)

/-- The tick the last data of a half arrives: its header arrives within 16 ticks of F, at the latest now, and n rows of 512
bytes follow it at 64 bytes a cycle (R322; DEDUCED: the rows begin as the header arrives; log entry 87). -/
def halfArrives (h : PairSlot) (now : Nat) : Nat := Nat.max now (Nat.min now (h.f + 16) + 4 * h.n)

/-- R322: the leader on core k finds a header in its slot within the windows: verdict OK, and the merge follows, 8n + 32
cycles after the last data has arrived. -/
def execPairHeaderArrival (k : Fin 16) (s : State) : Out :=
  onPair k s (fun loc b =>
    match b.mat.pair, b.mat.slot with
    | .leaderWait seq l, some h =>
      match partnerOf b seq with
      | some p =>
        if h.follower = p.val && l ≤ h.f + 256 && h.f ≤ l + 256 then
          let s := s.onBank k loc (fun b =>
            { b with mat := { b.mat with
              pair := .merging seq (halfArrives h s.stamp + 4 * h.n + 16 + (b.mat.refill + 1) / 2) } })
          sendVerdict s k b.slot p .ok
        else s
      | none => s
    | _, _ => s)

/-- The merged tile of a pair: leader + follower, rounded, and the OR of the poison (R322). -/
def mergeRows : List Nat → Nat → Tile → Tile
  | [], _, t => t
  | row :: rest, r, t =>
    mergeRows rest (r + 1)
      (setTileRow t r ((List.range 128).map (fun c => add32 (tileElt t r c) (row / 2 ^ (32 * c) % 2 ^ 32))))

/-- R322: the leader on core k adds the halves; a member that merges no longer waits, so a drain lets it complete
(R155, R324). -/
def execPairMerge (k : Fin 16) (s : State) : Out :=
  .next (
    let b := s.active k
    let loc := s.activeLoc k
    match b.mat.pair, b.mat.slot with
    | .merging seq due, some h =>
      if due ≤ s.stamp && !clStalled s k then
        match b.jobs.find? (fun j => j.seq = seq && j.phase = .running) with
        | none => s
        | some j =>
          let i := mxT (entryLay j.e)
          let n := Nat.min j.e.vd h.n
          let t := mergeRows (h.rows.take n) 0 (getTile b i)
          let t := (h.poison.filter (fun x => x.1 < n)).foldl (fun t x => poisonRow t x.1 x.2) t
          let s := s.onBank k loc (fun b => setLive (putTile b i t) i true)
          endPair s k loc seq (fun j => endJob j due)
      else s
    | _, _ => s)

/-- R322: the follower on core k receives its verdict. -/
def execPairVerdict (k : Fin 16) (s : State) : Out :=
  onPair k s (fun loc b =>
    match b.mat.pair, b.mat.inbox with
    | .followerWait seq _, some .ok => endPair s k loc seq (fun j => endJob j (s.stamp + (b.mat.refill + 1) / 2))
    | .followerWait seq _, some .reject => endPair s k loc seq (fun j => faultJob j .smiss 0 5 0)
    | _, _ => s)

/-- Whether the leader on core k has its follower's header, inside both windows, in its slot (R322). -/
def headerInTime (b : Bank) (p : Fin 16) (l : Nat) : Bool :=
  match b.mat.slot with
  | some h => h.follower = p.val && l ≤ h.f + 256 && h.f ≤ l + 256
  | none => false

/-- R322: the window of the member on core k expires; a leader that has its header does not reject. -/
def execPairWindowExpiry (k : Fin 16) (s : State) : Out :=
  onPair k s (fun loc b =>
    match b.mat.pair with
    | .leaderWait seq l =>
      if l + 272 ≤ s.stamp && !((partnerOf b seq).any (fun p => headerInTime b p l)) then
        let s' := match partnerOf b seq with
          | some p => sendVerdict s k b.slot p .reject
          | none => s
        endPair s' k loc seq (fun j => faultJob j .smiss 0 5 0)
      else s
    | .followerWait seq f =>
      if f + 288 ≤ s.stamp && b.mat.inbox.isNone then endPair s k loc seq (fun j => faultJob j .smiss 0 5 0) else s
    | _ => s)

/-- R323: the waiting member on core k receives ABORT. -/
def execPairAbort (k : Fin 16) (s : State) : Out :=
  onPair k s (fun loc b =>
    match b.mat.inbox with
    | some (.abort p) =>
      let fail (seq : BitVec 16) : State := endPair s k loc seq (fun j => faultJob j .pab 0 (BitVec.ofNat 64 p) 0)
      match b.mat.pair with
      | .leaderWait seq _ => fail seq
      | .followerWait seq _ => fail seq
      | _ => s
    | _ => s)

end Sys2Proof.Machine
end

