-- ==== Sys2Proof/Machine/Kv.lean ====
section
/-!
DEFINITION. The KV page engine (R270 to R290): its structures in memory, the enqueue checks of its seven instructions,
what their jobs do when they start, and the running of streams (R283 to R286, R398, R399).
-/
namespace Sys2Proof.Machine

/-! ## Enqueue (R276, R277) -/

/-- A descriptor address: a multiple of 64 (ALIGN), inside a tier-0 or tier-1 segment with R and W (SEGV) (R277). -/
def kvDescAligned (a : Word) : Except Stop Unit := need (a.toNat % 64 = 0) (enqFault .align a)

def kvDescSeg (s : State) (a : Word) : Except Stop Unit :=
  match findSeg (s.segsOf s.bk) a.toNat with
  | some (_, g) => need (g.tier ≤ 1 && g.r && g.w && a.toNat + 64 ≤ g.vbase + g.len) (enqFault .segv a)
  | none => enqFault .segv a

/-- n bytes inside a tier-0 segment with the rights named (R277). -/
def tier0Span (s : State) (a : Word) (n : Nat) (r w : Bool) : Except Stop Unit :=
  match findSeg (s.segsOf s.bk) a.toNat with
  | some (_, g) =>
    need (g.tier = 0 && a.toNat + n ≤ g.vbase + g.len && (!r || g.r) && (!w || g.w)) (enqFault .segv a)
  | none => enqFault .segv a

def kvAligned32 (a : Word) : Except Stop Unit := need (a.toNat % 32 = 0) (enqFault .align a)

/-- The regions of a descriptor head: its bookkeeping fields STC, CLS and APB, bytes 0x24 to 0x26, lie in no footprint
(R272, R275). -/
def headRegions (a : Word) : List Region := [memRegion a.toNat 0x24, memRegion (a.toNat + 0x27) 0x19]

/-- NSLOT of a row footprint (R271). -/
def slotsPerPage (f : Nat) : Nat := Nat.min 512 (65536 / (2 * f))

/-- R276 to R278: `kvopen`. The entry of FX travels in `fxs`. -/
def execKvopen (h : Head) (f : LayA) (s : State) : Out :=
  let e := jobEntry s.bk (.kvopen h f) h f
  finish s (do
    engineReady s .kv false
    kvDescAligned e.xa
    kvDescSeg s e.xa
    let w ← fmtRowEntry s.bk (mHi f) (mL f)
    need (e.xc != 0 && e.xc.toNat ≤ 65535) (enqFault .ill e.xa)
    .ok (enqueueJob s .kv { e with fxs := w } h.dst [] (headRegions e.xa)))

/-- R276, R277, R279: `kvseek`. -/
def execKvseek (h : Head) (f : LayA) (s : State) : Out :=
  let e := jobEntry s.bk (.kvseek h f) h f
  finish s (do
    engineReady s .kv false
    kvDescAligned e.xa
    kvAligned32 e.xc
    kvDescSeg s e.xa
    tier0Span s e.xc 32 false true
    .ok (enqueueJob s .kv e h.dst (headRegions e.xa) [memRegion e.xc.toNat 32]))

/-- R276, R277, R283: `kvstrm`. The stream block's doublewords travel in `maps`. -/
def execKvstrm (h : Head) (f : LayA) (s : State) : Out :=
  let i : Instr := .kvstrm h f
  let e := jobEntry s.bk i h f
  let sb := getReg s.bk f.c
  finish s (do
    engineReady s .kv false
    kvAligned32 sb
    let s1 ← enqRead s sb sb 32
    let ws := onWords s1 sb 4
    let d := ws.getD 0 0
    let desc : Word := (bits d 0 56).setWidth 64
    kvDescAligned desc
    kvDescSeg s1 desc
    chanSet s1.bk i
    need (ix16 f.a != ix16 f.b && (ws.getD 1 0).ult (ws.getD 2 0) && bits d 56 8 = 0 && ws.getD 3 0 = 0)
      (enqFault .ill sb)
    .ok (enqueueJob s1 .kv { e with maps := [ws] } h.dst (memRegion sb.toNat 32 :: headRegions desc) []))

/-- R276, R277, R280: `kvapp`. -/
def execKvapp (h : Head) (f : LayA) (s : State) : Out :=
  let e := jobEntry s.bk (.kvapp h f) h f
  let rsv := bit f.m 0
  finish s (do
    engineReady s .kv false
    kvDescAligned e.xa
    kvAligned32 e.xb
    kvDescSeg s e.xa
    let len := match fmtRowEntry s.bk (mHi f) (mL f) with
      | .ok w => 2 * rowBytes w (fmtROW w)
      | .error _ => 0
    if !rsv then tier0Span s e.xb len true false
    let w ← fmtRowEntry s.bk (mHi f) (mL f)
    .ok (enqueueJob s .kv { e with fxs := w } h.dst (if rsv then [] else [memRegion e.xb.toNat len])
      (headRegions e.xa)))

/-- R276, R277, R281: `kvref`. -/
def execKvref (h : Head) (f : LayA) (s : State) : Out :=
  let e := jobEntry s.bk (.kvref h f) h f
  finish s (do
    engineReady s .kv false
    kvDescAligned e.xa
    kvDescSeg s e.xa
    need (e.xb != 0 && e.xb.toNat ≤ 255) (enqFault .ill e.xa)
    .ok (enqueueJob s .kv e h.dst [] (headRegions e.xa)))

/-- R276, R277, R287: `kvfree`. -/
def execKvfree (h : Head) (f : LayA) (s : State) : Out :=
  let e := jobEntry s.bk (.kvfree h f) h f
  finish s (do
    engineReady s .kv false
    kvDescAligned e.xa
    kvDescSeg s e.xa
    .ok (enqueueJob s .kv e h.dst [] (headRegions e.xa)))

/-- R276, R277, R281: `kvstat`. -/
def execKvstat (h : Head) (f : LayA) (s : State) : Out :=
  let e := jobEntry s.bk (.kvstat h f) h f
  finish s (do
    engineReady s .kv false
    kvDescAligned e.xa
    kvAligned32 e.xb
    kvDescSeg s e.xa
    tier0Span s e.xb 64 false true
    .ok (enqueueJob s .kv e h.dst (headRegions e.xa) [memRegion e.xb.toNat 64]))

/-! ## Running: state, faults, accesses -/

/-- A job fault of the KV engine: its code, FADDR, reason and header address (R289), and whether a write met it. -/
structure KvFault where
  code : FaultCode
  addr : Nat
  reason : Nat
  hdr : Nat
  write : Bool
  deriving DecidableEq, Repr

/-- The stream of a job that is none. -/
def Stream.none : Stream :=
  { desc := 0, pool := 0, p0 := 0, p1 := 0, rowF := 0, g := 0, nslot := 0, wait := false, m := 0, row := 0, valid := 0,
    pins := [], first := true, waitSince := Option.none, lastFetch := 0, poisoned := false }

/-- The module and the stream a KV job works on. -/
structure KvSt where
  s : State
  st : Stream
  deriving DecidableEq, Repr

/-- A step of a KV job: a fault keeps what was done before it. -/
abbrev KvM (α : Type) := EStateM KvFault KvSt α

/-- A fault with a reason (R289). -/
def kvStop {α : Type} (reason hdr addr : Nat) : KvM α := throw ⟨.segv, addr, reason, hdr, false⟩

/-- R270, R272: the engine's structures lie in segments with R and W. -/
def kvRights (w : Who) (va n : Nat) : Bool :=
  match findSeg w.segs va with
  | some (_, g) => g.r && g.w && va + n ≤ g.vbase + g.len
  | none => false

/-- Read n bytes of a structure; poison is consumed (R109, R289). `hdr` is the header DETAIL names. -/
def kvRead (w : Who) (va n hdr : Nat) : KvM (List Byte) := fun x =>
  if !kvRights w va n then .error ⟨.segv, va, 0, hdr, false⟩ x
  else
    match engineRead x.s w va n with
    | .error (c, a) => .error ⟨c, a, 0, hdr, false⟩ x
    | .ok (s, r) =>
      match r.poison with
      | some m => .error ⟨markCode m, va, 0, hdr, false⟩ { x with s := s }
      | none => .ok r.bytes { x with s := s }

/-- Write bytes of a structure. -/
def kvWrite (w : Who) (va hdr : Nat) (bs : List Byte) : KvM Unit := fun x =>
  if !kvRights w va bs.length then .error ⟨.segv, va, 0, hdr, true⟩ x
  else
    match engineWrite x.s w va bs [] with
    | (s, some (c, a)) => .error ⟨c, a, 0, hdr, true⟩ { x with s := s }
    | (s, none) => .ok () { x with s := s }

/-- Write bytes where a result or a ring row goes: the segment's W is all it needs (R277, R285). -/
def kvOut (w : Who) (va hdr : Nat) (bs : List Byte) : KvM Unit := fun x =>
  match engineWrite x.s w va bs [] with
  | (s, some (c, a)) => .error ⟨c, a, 0, hdr, true⟩ { x with s := s }
  | (s, none) => .ok () { x with s := s }

def kvWord (w : Who) (va hdr : Nat) : KvM Word := do
  let bs ← kvRead w va 8 hdr
  return BitVec.ofNat 64 (ofBytes bs)

def kvPut (w : Who) (va hdr : Nat) (v : Word) : KvM Unit := kvWrite w va hdr (toBytes 8 v.toNat)

/-- A count of n bits moved by d; outside its range the spec gives no value (log entry 11). -/
def kvCount (v : Nat) (d : Int) (n : Nat) : KvM Nat := fun x =>
  let r : Int := v + d
  if 0 ≤ r && r < (2 : Int) ^ n then .ok r.toNat x
  else
    let (f, s) := x.s.draw
    .ok (f.toNat % 2 ^ n) { x with s := s }

/-! ## Descriptors, pools and page headers (R270, R272, R273) -/

/-- A sequence descriptor's head. -/
structure KvDesc where
  len : Nat
  pool : Nat
  last : Nat
  npg : Nat
  nslot : Nat
  f : Nat
  acap : Nat
  stc : Nat
  cls : Bool
  apb : Bool
  deriving DecidableEq, Repr

def kvDesc (ws : List Word) : KvDesc :=
  let a := ws.getD 3 0
  let b := ws.getD 4 0
  { len := (ws.getD 0 0).toNat, pool := (bits (ws.getD 1 0) 0 56).toNat, last := (bits (ws.getD 2 0) 0 56).toNat
    npg := (bits a 0 32).toNat, nslot := (bits a 32 10).toNat, f := (bits b 0 16).toNat
    acap := (bits b 16 16).toNat, stc := (bits b 32 16).toNat, cls := bit b 48, apb := bit b 49 }

/-- Doublewords of a byte string. -/
def wordsOfBytes (bs : List Byte) (n : Nat) : List Word :=
  (List.range n).map (fun i => BitVec.ofNat 64 (ofBytes ((bs.drop (8 * i)).take 8)))

/-- Read a descriptor's head. -/
def kvHead (w : Who) (d : Nat) : KvM KvDesc := do
  let bs ← kvRead w d 64 0
  return kvDesc (wordsOfBytes bs 8)

/-- The doubleword that holds F, ACAP, STC, CLS and APB. -/
def packBook (d : KvDesc) : Word :=
  BitVec.ofNat 64 (d.f + d.acap * 2 ^ 16 + d.stc * 2 ^ 32 + (if d.cls then 2 ^ 48 else 0) + (if d.apb then 2 ^ 49 else 0))

/-- Change STC, CLS or APB, which share one doubleword (R274). -/
def kvBook (w : Who) (d : Nat) (g : KvDesc → KvDesc) : KvM Unit := do
  let h ← kvHead w d
  kvPut w (d + 0x20) 0 (packBook (g h))

/-- STC moved by one. -/
def kvStc (w : Who) (d : Nat) (up : Bool) : KvM Unit := do
  let h ← kvHead w d
  let n ← kvCount h.stc (if up then 1 else -1) 16
  kvBook w d (fun h => { h with stc := n })

/-- A page header (R270). -/
structure KvHdr where
  succ : Nat
  data : Nat
  first : Nat
  nslot : Nat
  pst : Nat
  cw : Bool
  ref : Nat
  pin : Nat
  states : BitVec 1024
  reserved : Bool
  deriving DecidableEq, Repr

/-- Whether some slot's STATE is 11. -/
def badStates (v : BitVec 1024) : Bool := (v &&& (v >>> 1) &&& BitVec.ofNat 1024 ((2 ^ 1024 - 1) / 3)) != 0

def kvHdr (bs : List Byte) : KvHdr :=
  let ws := wordsOfBytes bs 4
  let c := ws.getD 3 0
  { succ := (bits (ws.getD 0 0) 0 56).toNat, data := (bits (ws.getD 1 0) 0 56).toNat, first := (ws.getD 2 0).toNat
    nslot := (bits c 0 10).toNat, pst := (bits c 10 2).toNat, cw := bit c 12, ref := (bits c 16 16).toNat
    pin := (bits c 32 16).toNat, states := BitVec.ofNat 1024 (ofBytes (bs.drop 128))
    reserved := bits (ws.getD 0 0) 56 8 != 0 || bits (ws.getD 1 0) 56 8 != 0 || bits c 13 3 != 0 || bits c 48 16 != 0
      || ((bs.drop 32).take 96).any (fun b => b != 0) }

/-- STATE of slot i (R270). -/
def stateOf (v : BitVec 1024) (i : Nat) : Nat := (bits v (2 * i) 2).toNat

def kvHeader (w : Who) (h : Nat) : KvM KvHdr := do
  let bs ← kvRead w h 256 h
  return kvHdr bs

/-- The doubleword of NSLOT, PST, CW, REF and PIN. -/
def packCtl (h : KvHdr) : Word :=
  BitVec.ofNat 64 (h.nslot + h.pst * 2 ^ 10 + (if h.cw then 2 ^ 12 else 0) + h.ref * 2 ^ 16 + h.pin * 2 ^ 32)

/-- Change REF, PIN, PST or CW (R274). -/
def kvCtl (w : Who) (a : Nat) (h : KvHdr) : KvM Unit := kvPut w (a + 0x18) a (packCtl h)

/-- What a header fetch finds bad (R282). -/
def hdrBad (h : KvHdr) (page nslot : Nat) : Bool :=
  h.reserved || badStates h.states || 1 < h.pst || h.nslot != nslot || h.first != page * nslot

/-- A header fetch (R282), pinning or not. -/
def kvFetch (w : Who) (a page nslot : Nat) (pin : Bool) : KvM KvHdr := do
  let h ← kvHeader w a
  if hdrBad h page nslot then kvStop 3 a a
  if pin then
    let n ← kvCount h.pin 1 16
    kvCtl w a { h with pin := n }
  return h

/-- The header address of a page: the anchor, then SUCC of the pages up to it, each a fetch (R279). -/
def kvFollow (w : Who) (nslot : Nat) : Nat → Nat → Nat → KvM Nat
  | 0, a, _ => pure a
  | n + 1, a, page => do
    let h ← kvFetch w a page nslot false
    kvFollow w nslot n h.succ (page + 1)

def kvPage (w : Who) (desc : Nat) (d : KvDesc) (page : Nat) : KvM Nat := do
  let a ← kvWord w (desc + 0x40 + 8 * (page / 64)) 0
  kvFollow w d.nslot (page % 64) (bits a 0 56).toNat (page / 64 * 64)

/-- A descriptor whose NSLOT or F no `kvopen` writes matches no page (R271, R289; log entry 12). -/
def kvShape (d : KvDesc) : KvM Unit := if d.nslot = 0 || 512 < d.nslot || d.f = 0 then kvStop 3 0 0 else pure ()

/-! ## Pools and the release of pages (R273, R287, R288) -/

/-- Pop the first free page (R273); reason 2 when there is none. -/
def kvPop (w : Who) (pool : Nat) : KvM Nat := do
  let bs ← kvRead w pool 32 0
  let ws := wordsOfBytes bs 2
  let a := (bits (ws.getD 0 0) 0 56).toNat
  if a = 0 then kvStop 2 0 pool
  let h ← kvHeader w a
  let n ← kvCount (bits (ws.getD 1 0) 0 32).toNat (-1) 32
  kvPut w pool 0 (BitVec.ofNat 64 h.succ)
  kvPut w (pool + 8) 0 (BitVec.ofNat 64 n)
  return a

/-- Push a page: FREE, CW 0, SUCC the old FREEH (R273, R287). -/
def kvPush (w : Who) (pool a : Nat) (h : KvHdr) : KvM Unit := do
  let bs ← kvRead w pool 32 0
  let ws := wordsOfBytes bs 2
  let n ← kvCount (bits (ws.getD 1 0) 0 32).toNat 1 32
  kvCtl w a { h with pst := 2, cw := false }
  kvPut w a a (BitVec.ofNat 64 (bits (ws.getD 0 0) 0 56).toNat)
  kvPut w pool 0 (BitVec.ofNat 64 a)
  kvPut w (pool + 8) 0 (BitVec.ofNat 64 n)

/-- The release walk from a page (R287). -/
def kvWalk (w : Who) (pool : Nat) : Nat → Nat → KvM Unit
  | 0, _ => pure ()
  | n + 1, a => do
    if a = 0 then return
    let h ← kvHeader w a
    let r ← kvCount h.ref (-1) 16
    if r != 0 then
      kvCtl w a { h with ref := r }
      kvWalk w pool n h.succ
    else if h.pin = 0 then
      kvPush w pool a { h with ref := 0 }
      kvWalk w pool n h.succ
    else kvCtl w a { h with ref := 0, pst := 1, cw := true }

/-- The most pages a sequence has: 64 for each anchor (R272). -/
def maxPages : Nat := 64 * 65535

/-- Release one pin (R284, R288): a RETIRING page with no pin left goes to the free list, and with CW the walk goes
on. -/
def kvUnpin (w : Who) (pool a : Nat) : KvM Unit := do
  let h ← kvHeader w a
  let n ← kvCount h.pin (-1) 16
  let h := { h with pin := n }
  if h.pst = 1 && n = 0 then
    kvPush w pool a h
    if h.cw then kvWalk w pool maxPages h.succ
  else kvCtl w a h

/-! ## The jobs other than streams (R278 to R281, R287) -/

/-- R278. -/
def runKvopen (w : Who) (e : Entry) : KvM Unit :=
  let f := rowBytes e.fxs (fmtROW e.fxs)
  let ws : List Nat := [0, e.xb.toNat % 2 ^ 56, 0, slotsPerPage f * 2 ^ 32, f + e.xc.toNat * 2 ^ 16, 0, 0, 0]
  kvWrite w e.xa.toNat 0 (ws.flatMap (toBytes 8))

/-- R279. -/
def runKvseek (w : Who) (e : Entry) : KvM Unit := do
  let desc := e.xa.toNat
  let p := e.xb.toNat
  let d ← kvHead w desc
  if d.len ≤ p then kvStop 1 0 0
  kvShape d
  let a ← kvPage w desc d (p / d.nslot)
  let h ← kvFetch w a (p / d.nslot) d.nslot false
  let i := p % d.nslot
  let k := h.data + 2 * d.f * i
  kvOut w e.xc.toNat 0 ([a, k, k + d.f, stateOf h.states i].flatMap (toBytes 8))

/-- Copy a row block: bytes with their poison (R109). -/
def kvCopy (w : Who) (src dst n hdr : Nat) : KvM Bool := fun x =>
  let runs (a : Nat) : List (Int × Nat) := (parts a n).map (fun p => ((p.1 : Int), p.2))
  match readRuns w (runs src) x.s with
  | .error (c, a) => .error ⟨c, a, 0, hdr, false⟩ x
  | .ok (s, bs) =>
    match writeRuns w (runs dst) bs s with
    | (s, some (c, a)) => .error ⟨c, a, 0, hdr, true⟩ { x with s := s }
    | (s, none) => .ok (bs.any (fun b => b.2.isSome)) { x with s := s }

/-- n bytes of a data block lie in a segment with R and W (R270, R289). -/
def kvBlock (w : Who) (a n hdr : Nat) (write : Bool) : KvM Unit := fun x =>
  if kvRights w a n then .ok () x else .error ⟨.segv, a, 0, hdr, write⟩ x

/-- Set STATE of a slot (R270, R274). -/
def kvFlip (w : Who) (a i st : Nat) : KvM Unit := do
  let at_ := a + 0x80 + i / 4
  let bs ← kvRead w at_ 1 a
  let sh := 2 * (i % 4)
  let b := (bs.headD 0 &&& ~~~(3#8 <<< sh)) ||| (BitVec.ofNat 8 st <<< sh)
  kvWrite w at_ a [b]

/-- Take a new last page for position p (R280). -/
def kvGrow (w : Who) (desc : Nat) (d : KvDesc) (p : Nat) : KvM Nat := do
  if d.npg = 64 * d.acap then kvStop 8 0 desc
  let a ← kvPop w d.pool
  kvPut w a a 0
  kvPut w (a + 0x10) a (BitVec.ofNat 64 p)
  kvPut w (a + 0x18) a (BitVec.ofNat 64 (d.nslot + 2 ^ 16))
  kvWrite w (a + 0x80) a (List.replicate 128 0)
  if d.npg != 0 then kvPut w d.last d.last (BitVec.ofNat 64 a)
  if d.npg % 64 = 0 then kvPut w (desc + 0x40 + 8 * (d.npg / 64)) 0 (BitVec.ofNat 64 a)
  let n ← kvCount d.npg 1 32
  kvPut w (desc + 0x10) 0 (BitVec.ofNat 64 a)
  kvPut w (desc + 0x18) 0 (BitVec.ofNat 64 (n + d.nslot * 2 ^ 32))
  return a

/-- The body of `kvapp` once APB is set (R280); the answer says whether a poisoned row was stored. -/
def runAppend (w : Who) (e : Entry) (rsv : Bool) : KvM Bool := do
  let desc := e.xa.toNat
  let d ← kvHead w desc
  let f := rowBytes e.fxs (fmtROW e.fxs)
  if d.cls then kvStop 5 0 desc
  if d.f != f || d.nslot != slotsPerPage f then kvStop 3 0 desc
  let p := d.len
  let i := p % d.nslot
  let a ← if i = 0 then kvGrow w desc d p else do
    let h ← kvHeader w d.last
    if 1 < h.ref then kvStop 7 d.last d.last
    pure d.last
  let psn ← if rsv then pure false else do
    let h ← kvHeader w a
    kvBlock w (h.data + 2 * f * i) (2 * f) a true
    let psn ← kvCopy w e.xb.toNat (h.data + 2 * f * i) (2 * f) a
    kvFlip w a i 2
    pure psn
  kvPut w desc 0 (BitVec.ofNat 64 (p + 1))
  kvBook w desc (fun h => { h with apb := false })
  return psn

/-- R280: APB first; any later fault clears it. -/
def runKvapp (w : Who) (e : Entry) (rsv : Bool) : KvM Bool := fun x =>
  let desc := e.xa.toNat
  let setApb : KvM Unit := do
    let d ← kvHead w desc
    if d.apb then kvStop 6 0 desc
    kvBook w desc (fun h => { h with apb := true })
  match setApb x with
  | .error f x => .error f x
  | .ok _ x =>
    match runAppend w e rsv x with
    | .ok r x => .ok r x
    | .error f x =>
      match kvBook w desc (fun h => { h with apb := false }) x with
      | .ok _ x => .error f x
      | .error _ x => .error f x

/-- REF of the pages from one on raised (R281). -/
def kvRefWalk (w : Who) (n : Nat) : Nat → Nat → Nat → KvM Unit
  | 0, _, _ => pure ()
  | k + 1, a, last => do
    let h ← kvHeader w a
    if 65535 < h.ref + n then kvStop 9 a a
    kvCtl w a { h with ref := h.ref + n }
    if a = last || h.succ = 0 then return
    kvRefWalk w n k h.succ last

/-- R281. -/
def runKvref (w : Who) (e : Entry) : KvM Unit := do
  let desc := e.xa.toNat
  let d ← kvHead w desc
  if d.npg = 0 then return
  let a ← kvWord w (desc + 0x40) 0
  kvRefWalk w e.xb.toNat d.npg (bits a 0 56).toNat d.last

/-- R281: with no page, LAST's REF and PIN have no value the spec gives (log entry 13). -/
def runKvstat (w : Who) (e : Entry) : KvM Unit := do
  let d ← kvHead w e.xa.toNat
  let bs ← kvRead w d.pool 32 0
  let nfree := (bits ((wordsOfBytes bs 2).getD 1 0) 0 32).toNat
  let (r, p) ← if d.npg = 0 then (fun x : KvSt =>
      let (r, s) := x.s.draw
      let (p, s) := s.draw
      .ok (r.toNat, p.toNat) { x with s := s }) else do
    let h ← kvHeader w d.last
    pure (h.ref, h.pin)
  kvOut w e.xb.toNat 0 ([d.len, d.npg, d.nslot, d.f, nfree, d.last, r, p].flatMap (toBytes 8))

/-- R287: CLS is set and no stream that has not pinned is left: the walk, then LEN, NPG and LAST. The answer is false
while STC is not 0. -/
def runKvfree (w : Who) (e : Entry) : KvM Bool := do
  let desc := e.xa.toNat
  kvBook w desc (fun h => { h with cls := true })
  let d ← kvHead w desc
  if d.stc != 0 then return false
  if d.npg != 0 then
    let a ← kvWord w (desc + 0x40) 0
    kvWalk w d.pool maxPages (bits a 0 56).toNat
  kvPut w desc 0 0
  kvPut w (desc + 0x10) 0 0
  kvPut w (desc + 0x18) 0 (BitVec.ofNat 64 (d.nslot * 2 ^ 32))
  return true

/-! ## Streams (R282 to R286, R398, R399) -/

def getStream : KvM Stream := fun x => .ok x.st x
def setStream (st : Stream) : KvM Unit := fun x => .ok () { x with st := st }

/-- The position a stream is at. -/
def Stream.pos (st : Stream) : Nat := st.p0 + st.g * st.m + st.row

/-- The page of a position. -/
def Stream.pageOf (st : Stream) (p : Nat) : Nat := p / st.nslot

/-- Pin successors up to four past page i, never past the page of P1 − 1 (R284). -/
def kvPrefetch (w : Who) : Nat → Nat → KvM Unit
  | 0, _ => pure ()
  | n + 1, i => do
    let st ← getStream
    match st.pins.getLast? with
    | none => pure ()
    | some l =>
      if l.page < Nat.min (i + 4) (st.pageOf (st.p1 - 1)) then
        let h ← kvHeader w l.hdr
        let g ← kvFetch w h.succ (l.page + 1) st.nslot true
        let st ← getStream
        setStream { st with pins := st.pins ++ [⟨l.page + 1, h.succ, g.states⟩] }
        kvPrefetch w n i

/-- Release the pins of the pages before page i (R284). -/
def kvPassTo (w : Who) : Nat → Nat → KvM Unit
  | 0, _ => pure ()
  | n + 1, i => do
    let st ← getStream
    match st.pins with
    | [] => pure ()
    | p :: r =>
      if p.page < i then
        setStream { st with pins := r }
        kvUnpin w st.pool p.hdr
        kvPassTo w n i

/-- Hold the page of position p: earlier pins released, its successors fetched. -/
def kvHold (w : Who) (p : Nat) : KvM (Option Pin) := do
  let st ← getStream
  let i := st.pageOf p
  match st.pins with
  | q :: _ => if q.page = i then kvPrefetch w 4 i else do
      kvPrefetch w 4 (i - 1)
      kvPassTo w 5 i
      kvPrefetch w 4 i
  | [] => pure ()
  let st ← getStream
  return st.pins.find? (fun q => q.page = i)

/-- Start of a stream (R283): the head, STC, the ring geometry, P0, the first pins. -/
def streamStart (w : Who) (e : Entry) (ks vs : Nat) (wait : Bool) : KvM Unit := fun x =>
  let ws := e.maps.getD 0 []
  let desc := (bits (ws.getD 0 0) 0 56).toNat
  let p0 := (ws.getD 1 0).toNat
  let p1 := (ws.getD 2 0).toNat
  let first : KvM KvDesc := do
    let d ← kvHead w desc
    if d.cls then kvStop 5 0 desc
    if d.len < p1 then kvStop 1 0 desc
    kvStc w desc true
    return d
  match first x with
  | .error f x => .error f x
  | .ok d x =>
    let rest : KvM Unit := do
      kvShape d
      let g := (ks - 32) / d.f
      if ks != vs || ks != g * d.f + 32 || g = 0 || 128 < g then kvStop 4 0 desc
      let page := p0 / d.nslot
      let a ← kvPage w desc d page
      let h ← kvFetch w a page d.nslot true
      setStream { Stream.none with
        desc := desc, pool := d.pool, p0 := p0, p1 := p1, rowF := d.f, g := g, nslot := d.nslot, wait := wait
        pins := [⟨page, a, h.states⟩], first := true }
      kvStc w desc false
      kvPrefetch w 4 page
    match rest x with
    | .ok _ x => .ok () x
    | .error f x =>
      if x.st.pins.isEmpty then
        match kvStc w desc false x with
        | .ok _ x => .error f x
        | .error _ x => .error f x
      else .error f x

/-- Release every pin a stream holds (R286); a release that itself faults is passed over. -/
def kvUnpinAll (w : Who) (pool : Nat) : List Pin → KvSt → KvSt
  | [], x => x
  | p :: r, x =>
    match kvUnpin w pool p.hdr x with
    | .ok _ x => kvUnpinAll w pool r x
    | .error _ x => kvUnpinAll w pool r x

/-- The rings of a stream: where row r of the next slot of each goes. -/
structure Rings where
  k : Chan
  v : Chan
  deriving DecidableEq, Repr

def Rings.at (r : Rings) (v : Bool) : Nat := if v then r.v.base + r.v.slot * r.v.head else r.k.base + r.k.slot * r.k.head

/-- What a stream does with a row (R285). -/
inductive RowFate where
  | copy (data : Nat) (slot : Nat)
  | zero
  | wait (hdr : Nat)
  deriving DecidableEq, Repr

/-- The fate of position p: copied, zeroed, or waited for, in WAIT or under a horizon (R285, R398). -/
def rowFate (w : Who) (bf : BfCtx) (p : Nat) : KvM RowFate := do
  let st ← getStream
  if st.p1 ≤ p then return .zero
  match ← kvHold w p with
  | none => return .zero
  | some q =>
    let i := p % st.nslot
    match stateOf q.states i with
    | 2 =>
      let h ← kvHeader w q.hdr
      return .copy (h.data + 2 * st.rowF * i) i
    | 1 => if st.wait || (bf.hv && p ≤ bf.hz.toNat) then return .wait q.hdr else return .zero
    | _ => return .zero

/-- Write zeros to a ring row. -/
def zeroRow (w : Who) (a n : Nat) : KvM Unit := kvOut w a 0 (List.replicate n 0)

/-- The rows of a slot from the stream's own row on; true when the slot is full, false when a PENDING row must be
waited for (R285). -/
def fillRows (w : Who) (bf : BfCtx) (r : Rings) (now clk : Nat) : Nat → KvM Bool
  | 0 => pure true
  | n + 1 => do
    let st ← getStream
    if st.g ≤ st.row then return true
    let p := st.p0 + st.g * st.m + st.row
    let ka := r.at false + st.row * st.rowF
    let va := r.at true + st.row * st.rowF
    match ← rowFate w bf p with
    | .wait _ =>
      let st ← getStream
      setStream (if st.waitSince.isSome then st else { st with waitSince := some now, lastFetch := clk })
      return false
    | .zero =>
      zeroRow w ka st.rowF
      zeroRow w va st.rowF
      let st ← getStream
      setStream { st with row := st.row + 1, waitSince := none }
    | .copy d _ =>
      kvBlock w d (2 * st.rowF) 0 false
      let pk ← kvCopy w d ka st.rowF 0
      let pv ← kvCopy w (d + st.rowF) va st.rowF 0
      let st ← getStream
      setStream { st with
        row := st.row + 1, valid := st.valid + 2 ^ st.row, waitSince := none, poisoned := st.poisoned || pk || pv }
    fillRows w bf r now clk n

/-- The bitmap and the zero bytes after the rows (R285). -/
def writeBitmaps (w : Who) (r : Rings) : KvM Unit := do
  let st ← getStream
  let bs := toBytes 16 st.valid ++ List.replicate 16 0
  kvOut w (r.at false + st.g * st.rowF) 0 bs
  kvOut w (r.at true + st.g * st.rowF) 0 bs

/-- DETAIL of a KV job's fault record (R289). -/
def kvDetail (f : KvFault) : Word := BitVec.ofNat 64 (f.reason * 2 ^ 56 + f.hdr % 2 ^ 56)

/-- A KV job stops with a fault; a stream releases its pins and reports the slots it advanced (R286, R289). -/
def kvFail (x : KvSt) (k : Fin 16) (loc : Loc) (slot : Option (Fin 16)) (w : Who) (j : Job) (f : KvFault) : State :=
  let x := kvUnpinAll w x.st.pool x.st.pins x
  let prog := x.st.m * ((x.st.g * x.st.rowF + 32) / 32)
  stopJob x.s k loc slot { j with stream := none, psn := x.st.poisoned } f.code f.addr (kvDetail f) prog f.write

/-- The backfill engine's record of a bank's launch (R383). -/
def bfOf (s : State) (slot : Option (Fin 16)) : BfCtx :=
  match slot.bind s.launch with
  | some l => l.bf
  | none => ⟨1, false, 0, 2000⟩

/-- The mode of a `kvstrm` at its start (R285, R384). -/
def strmWaits (bf : BfCtx) (f : LayA) : Bool :=
  if bits f.m 0 2 = 2#2 then true else if bits f.m 0 2 = 1#2 then false else bf.mode = 2#2

/-- A dispatched KV job of core k starts (R278 to R283, R287). A `kvfree` that waits for STC starts again. -/
def startKv (s : State) (k : Fin 16) (loc : Loc) (b : Bank) (j : Job) : State :=
  let w := s.whoOf b.slot k false
  let x : KvSt := ⟨s, Stream.none⟩
  let done (r : EStateM.Result KvFault KvSt Unit) : State :=
    match r with
    | .ok _ x => x.s.setJob k loc (endJob j x.s.stamp)
    | .error f x => kvFail x k loc b.slot w j f
  if !edgesMet b j then s
  else
    match j.e.i with
    | .kvopen _ _ => done (runKvopen w j.e x)
    | .kvseek _ _ => done (runKvseek w j.e x)
    | .kvref _ _ => done (runKvref w j.e x)
    | .kvstat _ _ => done (runKvstat w j.e x)
    | .kvapp _ f =>
      match runKvapp w j.e (bit f.m 0) x with
      | .ok psn x => x.s.setJob k loc { endJob j x.s.stamp with psn := psn }
      | .error f x => kvFail x k loc b.slot w j f
    | .kvfree _ _ =>
      match runKvfree w j.e x with
      | .ok true x => x.s.setJob k loc (endJob j x.s.stamp)
      | .ok false x => x.s.setJob k loc { j with phase := .running }
      | .error f x => kvFail x k loc b.slot w j f
    | .kvstrm _ f =>
      match s.chanHome k b loc (ix16 f.a), s.chanHome k b loc (ix16 f.b) with
      | some (_, _, ck), some (_, _, cv) =>
        match streamStart w j.e ck.slot cv.slot (strmWaits (bfOf s b.slot) f) x with
        | .ok _ x => x.s.setJob k loc { j with phase := .running, stream := some x.st }
        | .error f x => kvFail x k loc b.slot w j f
      | none, _ => s.setJob k loc (faultJob j .segv (chanBaseW (getChan b f.a)) 0 0)
      | _, none => s.setJob k loc (faultJob j .segv (chanBaseW (getChan b f.b)) 0 0)
    | _ => s

/-- A running stream of core k; it goes on when its context is pre-empted or evicted (R290). -/
def runningStream (s : State) (k : Fin 16) (seq : BitVec 16) : Option (Loc × Bank × Job × Stream) :=
  match s.findJob k seq with
  | some (loc, j) =>
    if j.phase = .running then j.stream.bind (fun st => (s.locBank k loc).map (fun b => (loc, b, j, st))) else none
  | _ => none

/-- A stream at its next ring slot. -/
def Stream.next (st : Stream) : Stream := { st with m := st.m + 1, row := 0, valid := 0 }

/-- Advance one ring of a job by n slots as its producer or consumer; refused, the answer is the ring's BASE (R19). -/
def jobAdvance (s : State) (k : Fin 16) (loc : Loc) (ch : Fin 16) (producer : Bool) (n : Nat) : Except Nat State :=
  match s.locBank k loc with
  | none => .ok s
  | some b =>
    match s.advance k b loc ch producer n with
    | some s => .ok s
    | none => .error (chanAt b ch).base

/-- Both channels of a stream advance by one slot (R285). -/
def advanceRings (s : State) (k : Fin 16) (loc : Loc) (f : LayA) : Except Nat State :=
  match jobAdvance s k loc (ix16 f.a) true 1 with
  | .ok s => jobAdvance s k loc (ix16 f.b) true 1
  | .error a => .error a

/-- R285: a stream of core k fills the next ring slot once both rings have room, then advances both channels; after
the last slot it releases its pins and its job's accesses are over (R286). Else it goes on to the page of its next
position: the pages before are released, and the next ones fetched (R284). -/
def execStreamSlotFill (k : Fin 16) (seq : BitVec 16) (s : State) : Out :=
  .next (match runningStream s k seq with
    | none => s
    | some (loc, b, j, st) =>
      let f := entryLay j.e
      let w := s.whoOf b.slot k false
      match s.chanHome k b loc (ix16 f.a), s.chanHome k b loc (ix16 f.b) with
      | some (_, _, ck), some (_, _, cv) =>
        if streamBlocked s k loc b j then s
        else whenOpen s (j.reads ++ j.writes ++ ringRegions s k b loc j.e.i) (fun s =>
          let body : KvM Bool := do
            let full ← fillRows w (bfOf s b.slot) ⟨ck, cv⟩ s.stamp s.clk (st.g + 1)
            if full then writeBitmaps w ⟨ck, cv⟩
            return full
          match body ⟨s, { st with first := false }⟩ with
          | .error e x => kvFail x k loc b.slot w j e
          | .ok false x => x.s.setJob k loc { j with stream := some x.st }
          | .ok true x =>
            match advanceRings x.s k loc f with
            | .error a => kvFail x k loc b.slot w j ⟨.segv, a, 0, 0, true⟩
            | .ok s1 =>
            let st := x.st.next
            if st.p1 ≤ st.p0 + st.g * st.m then
              let y := kvUnpinAll w st.pool st.pins ⟨s1, st⟩
              y.s.setJob k loc { endJob j y.s.stamp with psn := st.poisoned, stream := none }
            else
              match kvHold w st.pos ⟨s1, st⟩ with
              | .error e x => kvFail x k loc b.slot w j e
              | .ok _ x => x.s.setJob k loc { j with stream := some x.st })
      | none, _ => kvFail ⟨s, st⟩ k loc b.slot w j ⟨.segv, (getChan b f.a).base, 0, 0, false⟩
      | _, none => kvFail ⟨s, st⟩ k loc b.slot w j ⟨.segv, (getChan b f.b).base, 0, 0, false⟩)

/-- The page a waiting stream is at, as pinned. -/
def Stream.here (st : Stream) : Option Pin := st.pins.find? (fun q => q.page = st.pageOf st.pos)

/-- A header fetch without a further pin: the state of the waited slot is sampled again (R285). -/
def refetch (w : Who) (q : Pin) : KvM Unit := do
  let st ← getStream
  let h ← kvFetch w q.hdr q.page st.nslot false
  let i := st.pos % st.nslot
  let m : BitVec 1024 := 3#1024 <<< (2 * i)
  let upd (p : Pin) : Pin :=
    if p.page = q.page then { p with states := (p.states &&& ~~~m) ||| (h.states &&& m) } else p
  setStream { st with pins := st.pins.map upd }

/-- R285: every 256 cycles a stream of core k that waits on a PENDING slot fetches its header again. -/
def execPendingRefetch (k : Fin 16) (seq : BitVec 16) (s : State) : Out :=
  .next (match runningStream s k seq with
    | none => s
    | some (loc, b, j, st) =>
      match st.here with
      | none => s
      | some q =>
        if st.waitSince.isNone || s.clk < st.lastFetch + 256 then s
        else
          let w := s.whoOf b.slot k false
          match refetch w q ⟨s, { st with lastFetch := s.clk }⟩ with
          | .error e x => kvFail x k loc b.slot w j e
          | .ok _ x => x.s.setJob k loc { j with stream := some x.st })

/-- Whether a record of the pending table covers a slot (R399). -/
def slotCovered (s : State) (desc pos : Nat) : Bool :=
  s.bf.recs.any (fun r => r.pos = pos && r.layers.any (fun l => !l.final && !l.dropped && l.desc = desc))

/-- R399: after each 60,000 ticks of a wait, a stream of core k asks whether its PENDING slot is covered; when it is
not, and one more header fetch still shows PENDING, the stream stops with reason 12. -/
def execCoverageQuery (k : Fin 16) (seq : BitVec 16) (s : State) : Out :=
  .next (match runningStream s k seq with
    | none => s
    | some (loc, b, j, st) =>
      match st.here, st.waitSince with
      | some q, some t =>
        if s.stamp < t + 60000 then s
        else if slotCovered s st.desc st.pos then
          s.setJob k loc { j with stream := some { st with waitSince := some (t + 60000) } }
        else
          let w := s.whoOf b.slot k false
          match refetch w q ⟨s, st⟩ with
          | .error e x => kvFail x k loc b.slot w j e
          | .ok _ x =>
            match x.st.here with
            | some q' =>
              if stateOf q'.states (st.pos % st.nslot) = 1 then
                kvFail x k loc b.slot w j ⟨.segv, q.hdr, 12, q.hdr, false⟩
              else x.s.setJob k loc { j with stream := some x.st }
            | none => x.s.setJob k loc { j with stream := some x.st }
      | _, _ => s)

end Sys2Proof.Machine
end

