-- ==== Sys2Proof/Machine/Stack.lean ====
section
/-!
DEFINITION. The weight stack engine at enqueue (R339 to R344, R350): sense descriptors, broadcast words, the checks of
its twelve instructions, and their footprints.
-/
namespace Sys2Proof.Machine

/-! ## The sense descriptor (R339 to R341) -/

/-- A sense descriptor's fields. -/
structure SDesc where
  smask : Nat
  die : Nat
  lp : Nat
  cls : Nat
  lay : Nat
  rgs : Nat
  omode : Nat
  oacc : Bool
  bfa : Bool
  nr : Nat
  planes : List Nat
  aoff : Nat
  astr : Nat
  nv : Nat
  pmap : Nat
  aux : Word
  deriving DecidableEq, Repr

/-- The selected planes of a mask, ascending. -/
def maskPlanes (lo hi : Word) : List Nat :=
  (List.range 128).filter (fun p => if p < 64 then bit lo p else bit hi (p - 64))

def sDesc (ws : List Word) : SDesc :=
  let a := ws.getD 0 0
  let d := ws.getD 3 0
  { smask := (bits a 0 16).toNat, die := (bits a 16 3).toNat, lp := (bits a 24 18).toNat, cls := (bits a 42 2).toNat
    lay := (bits a 44 4).toNat, rgs := (bits a 48 3).toNat, omode := (bits a 51 2).toNat, oacc := bit a 53
    bfa := bit a 54, nr := (bits a 55 7).toNat + 1, planes := maskPlanes (ws.getD 1 0) (ws.getD 2 0)
    aoff := (bits d 0 19).toNat, astr := (bits d 19 12).toNat, nv := (bits d 31 4).toNat + 1
    pmap := (bits (ws.getD 4 0) 0 28).toNat, aux := ws.getD 5 0 }

/-- The stacks of a mask, ascending. -/
def maskStacks (m : Nat) : List (Fin 16) := (List.finRange 16).filter (fun j => m.testBit j.val)

/-- Planes of a reduce group (R336). -/
def SDesc.gsize (d : SDesc) : Nat := 2 ^ d.rgs
/-- NG (R339). -/
def SDesc.ng (d : SDesc) : Nat := d.planes.length / d.gsize
/-- NOUT (R339). -/
def SDesc.nout (d : SDesc) : Nat := (maskStacks d.smask).length * d.nv * d.ng * d.nr

/-- ROWS and COLS of a layout, and whether its elements are INT4 (R333). -/
def layRows (l : Nat) : Nat := match l with
  | 0 => 32 | 1 => 32 | 2 => 64 | 3 => 16 | 4 => 128 | _ => 8
def layCols (l : Nat) : Nat := match l with
  | 0 => 512 | 1 => 256 | 2 => 256 | 3 => 512 | 4 => 128 | _ => 1024
def layInt4 (l : Nat) : Bool := l = 0 || l = 2 || l = 4

/-- Bytes of activation one vector spans: 2^RGS × COLS. -/
def SDesc.vecLen (d : SDesc) : Nat := d.gsize * layCols d.lay

/-- One plane of a pair selected without the other (R335). -/
def SDesc.splitPair (d : SDesc) : Bool := d.planes.any (fun p => !d.planes.contains (if p % 2 = 0 then p + 1 else p - 1))

/-- Every group is wholly selected or not at all (R336). -/
def SDesc.groupsWhole (d : SDesc) : Bool :=
  d.planes.all (fun p => (List.range d.gsize).all (fun i => d.planes.contains (p / d.gsize * d.gsize + i)))

/-- The bits of doublewords 0, 3, 4 and 5 an instruction reads (R340, R341); the plane masks are always read. -/
def readMask : Instr → Word × Word × Word × Word
  | .fsa _ _ => (0x3FBFFFFFFF07FFFF, 0x7FFFFFFF, 0xFFFFFFF, 0)
  | .fsav _ _ => (0x3FFFFFFFFF07FFFF, 0x7FFFFFFFF, 0xFFFFFFF, 0)
  | .fsense _ _ => (0x00000FFFFF07FFFF, 0, 0xFFFFFFF, 0)
  | .fscal _ _ => (0x00000FFFFF07FFFF, 0, 0, 0x3FFFF)
  | .frebuild _ _ => (0x00000FFFFF07FFFF, 0, 0, 0x3)
  | .fmap _ _ => (0x000003FFFF07FFFF, 0, 0, 0)
  | .fprog _ _ => (0x000003FFFF07FFFF, 0, 0, 0x7FFFFFFFF)
  | .ferase _ _ => (0x000000000007FFFF, 0, 0, 0x1FFF1FFF)
  | _ => (0, 0, 0, 0)

/-- A reserved or unread field is nonzero (R340, R341). -/
def unreadSet (i : Instr) (ws : List Word) : Bool :=
  let (a, d, e, f) := readMask i
  ws.getD 0 0 &&& ~~~a != 0 || ws.getD 3 0 &&& ~~~d != 0 || ws.getD 4 0 &&& ~~~e != 0 || ws.getD 5 0 &&& ~~~f != 0

/-- Bytes of activation SRAM (R337). -/
def actBytes : Nat := 524288

/-- One stack and one pair selected. -/
def SDesc.onePair (d : SDesc) : Bool := (maskStacks d.smask).length = 1 && d.planes.length = 2

/-- The ILL conditions on a captured descriptor (R340, R341, R344 step 4); `span` is s of R345 and R347 with the
channel's COUNT. -/
def descIll (i : Instr) (ws : List Word) (chan : Option (Nat × Nat)) : Bool :=
  let d := sDesc ws
  let common := unreadSet i ws || d.smask = 0 || 1 < d.cls || d.planes.isEmpty
  let sense := 5 < d.lay || 6 < d.rgs || d.omode = 3 || !d.groupsWhole || layRows d.lay < d.nr
    || d.aoff % 512 != 0 || actBytes < d.aoff + (d.nv - 1) * d.astr * 512 + d.vecLen
    || (match chan with
        | some (span, count) => d.oacc || count < span
        | none => false)
  common ||
  match i with
  | .fsa _ _ => sense
  | .fsav _ _ => sense || (1 < d.nv && d.astr = 0)
  | .fsense _ _ | .fmap _ _ => !d.onePair
  | .fscal _ _ => d.aux.toNat % 16 != 0
  | .frebuild _ _ => !d.onePair || d.aux = 0
  | .fprog _ _ => !d.onePair || bits d.aux 32 2 = 3
  | .ferase _ _ =>
    let lsb0 := (bits d.aux 0 13).toNat
    let nsb := (bits d.aux 16 13).toNat
    (maskStacks d.smask).length != 1 || nsb = 0 || 5462 < lsb0 + nsb
  | _ => false

/-! ## Step 2 of R344 -/

/-- The lowest address of [a, a + n) that no suitable tier-0 segment holds with the rest, if any. -/
def lowestOffending (s : State) (a n : Nat) (r w : Bool) : Option Nat :=
  match findSeg (s.segsOf s.bk) a with
  | some (_, g) =>
    if g.tier != 0 || (r && !g.r) || (w && !g.w) then some a
    else if g.vbase + g.len < a + n then some (g.vbase + g.len) else none
  | none => some a

/-- SEGV with FLTA := the lowest offending address (R344). -/
def areasOk (s : State) (l : List (Nat × Nat × Bool × Bool)) : Except Stop Unit :=
  let bad := l.filterMap (fun x => lowestOffending s x.1 x.2.1 x.2.2.1 x.2.2.2)
  match bad with
  | [] => .ok ()
  | a :: r => enqFault .segv (BitVec.ofNat 64 (r.foldl Nat.min a))

def aligned (a : Word) (n : Nat) : Except Stop Unit := need (a.toNat % n = 0) (enqFault .align a)

/-- The descriptor, read and captured: doublewords 0x00 to 0x28 (R339). One outside a tier-0 segment with R gives SEGV,
whose FLTA is the lowest offending address among it and `areas`, the areas that are known without it (R344). -/
def readSDesc (s : State) (x : Word) (areas : List (Nat × Nat × Bool × Bool)) : Except Stop (State × List Word) := do
  let own := (x.toNat, 64, true, false)
  areasOk s (if (lowestOffending s x.toNat 64 true false).isSome then own :: areas else [])
  let s ← enqRead s x x 48
  .ok (s, onWords s x 6)

/-! ## Footprints (R337, R350) -/

def stackSpan : Nat := 0x1000000

def actRegion (lo hi : Nat) : Region := ⟨.act, lo, hi⟩

/-- The lowest and highest stacks of a mask. -/
def lowStack (m : Nat) : Nat := ((maskStacks m).headD 0).val
def highStack (m : Nat) : Nat := ((maskStacks m).getLastD 0).val

/-- The scale-buffer bound of a descriptor. -/
def scaleBound (d : SDesc) : Region :=
  actRegion (lowStack d.smask * stackSpan + 0x800000 + 0x2000 * (128 * d.die + d.planes.headD 0))
    (highStack d.smask * stackSpan + 0x800000 + 0x2000 * (128 * d.die + d.planes.getLastD 0 + 1))

/-- The activation bound of a descriptor. -/
def actBound (d : SDesc) : Region :=
  actRegion (lowStack d.smask * stackSpan + d.aoff)
    (highStack d.smask * stackSpan + d.aoff + (d.nv - 1) * d.astr * 512 + d.vecLen)

/-- Poison-map bytes of NOUT elements (R349). -/
def pmapBytes (n : Nat) : Nat := (n + 255) / 256 * 32

/-- Slots a packed string of n bytes spans. -/
def slotSpan (c : Chan) (n : Nat) : Nat := if c.slot = 0 then 0 else (n + c.slot - 1) / c.slot

/-! ## The twelve instructions at enqueue -/

/-- R345: `fact`. -/
def execFact (h : Head) (f : LayA) (s : State) : Out :=
  let i : Instr := .fact h f
  let e := jobEntry s.bk i h f
  let w := e.xb
  let smask := (bits w 0 16).toNat
  let aoff := (bits w 16 19).toNat
  let len := (bits w 35 20).toNat
  let c := getChan s.bk f.a
  let span := if f.ka then slotSpan c len else 0
  finish s (do
    engineReady s .stack false
    if !f.ka then aligned e.xa 32
    if !f.ka then areasOk s [(e.xa.toNat, Nat.max len 1, true, false)]
    chanSet s.bk i
    need (smask != 0 && bits w 55 9 = 0 && aoff % 32 = 0 && 32 ≤ len && len % 32 = 0 && aoff + len ≤ actBytes
      && (!f.ka || span ≤ c.count)) (enqFault .ill w)
    .ok (enqueueJob s .stack { e with vd := span } h.dst (if f.ka then [] else [memRegion e.xa.toNat len])
      [actRegion (lowStack smask * stackSpan + aoff) (highStack smask * stackSpan + aoff + len)]))

/-- The shared enqueue of `fsa` and `fsav` (R344, R350): of the addresses step 2 finds, that of an unset channel, 0, is the
lowest (R199). -/
def enqueueSense (i : Instr) (h : Head) (f : LayA) (s : State) : Out :=
  let e := jobEntry s.bk i h f
  let c := getChan s.bk f.a
  finish s (do
    engineReady s .stack false
    aligned e.xb 64
    if !f.ka then aligned e.xa 32
    if (lowestOffending s e.xb.toNat 64 true false).isSome then chanSet s.bk i
    let (s1, ws) ← readSDesc s e.xb (if f.ka then [] else [(e.xa.toNat, 1, false, true)])
    let d := sDesc ws
    aligned (BitVec.ofNat 64 d.pmap) 32
    let b := 4 * d.nout
    let span := if f.ka then slotSpan c b else 0
    chanSet s1.bk i
    areasOk s1 ((if f.ka then [] else [(e.xa.toNat, Nat.max b 1, false, true)]) ++
      (if d.pmap = 0 then [] else [(d.pmap, Nat.max (pmapBytes d.nout) 1, false, true)]))
    need (!d.splitPair) (enqFault .lerr e.xb)
    need (!descIll i ws (if f.ka then some (span, c.count) else none)) (enqFault .ill e.xb)
    let reads := [actBound d] ++ (if d.omode = 2 then [scaleBound d] else [])
      ++ (if d.oacc then [memRegion e.xa.toNat b] else [])
    let writes := (if f.ka then [] else [memRegion e.xa.toNat b])
      ++ (if d.pmap = 0 then [] else [memRegion d.pmap (pmapBytes d.nout)])
    .ok (enqueueJob s1 .stack { e with maps := [ws], vd := span } h.dst reads writes))

/-- R346: `fsa`. -/
def execFsa (h : Head) (f : LayA) (s : State) : Out := enqueueSense (.fsa h f) h f s

/-- R346, R348: `fsav`. -/
def execFsav (h : Head) (f : LayA) (s : State) : Out := enqueueSense (.fsav h f) h f s

/-- The shared enqueue of an instruction with a descriptor and at most one area in a tier-0 segment: `n` bytes at sA,
read or written, and the poison map when the instruction has one (R344). -/
def enqueueDesc (i : Instr) (h : Head) (f : LayA) (priv : Bool) (n : Nat) (rd : Bool)
    (regions : SDesc → Nat → List Region × List Region) (s : State) : Out :=
  let e := jobEntry s.bk i h f
  let hasPmap := match i with
    | .fsense _ _ => true
    | _ => false
  finish s (do
    engineReady s .stack priv
    aligned e.xb 64
    if n != 0 then aligned e.xa 32
    let area := if n = 0 then [] else [(e.xa.toNat, n, rd, !rd)]
    let (s1, ws) ← readSDesc s e.xb area
    let d := sDesc ws
    if hasPmap then aligned (BitVec.ofNat 64 d.pmap) 32
    areasOk s1 (area ++
      (if hasPmap && d.pmap != 0 then [(d.pmap, 32, false, true)] else []))
    need (!d.splitPair) (enqFault .lerr e.xb)
    need (!descIll i ws none) (enqFault .ill e.xb)
    let r := regions d e.xa.toNat
    .ok (enqueueJob s1 .stack { e with maps := [ws] } h.dst r.1 r.2))

/-- R359: `fsense`. -/
def execFsense (h : Head) (f : LayA) (s : State) : Out :=
  enqueueDesc (.fsense h f) h f false 16416 false (fun d a =>
    ([], [memRegion a 16416] ++ (if d.pmap = 0 then [] else [memRegion d.pmap 32]))) s

/-- R358: `fscal`. -/
def execFscal (h : Head) (f : LayA) (s : State) : Out :=
  enqueueDesc (.fscal h f) h f false 0 false (fun d _ => ([], [scaleBound d])) s

/-- R360: `frebuild`. -/
def execFrebuild (h : Head) (f : LayA) (s : State) : Out :=
  enqueueDesc (.frebuild h f) h f false 0 false (fun _ _ => ([], [])) s

/-- R362: `fmap`. -/
def execFmap (h : Head) (f : LayA) (s : State) : Out :=
  enqueueDesc (.fmap h f) h f false 32 false (fun _ a => ([], [memRegion a 32])) s

/-- R366: `fprog`. -/
def execFprog (h : Head) (f : LayA) (s : State) : Out :=
  enqueueDesc (.fprog h f) h f true 16384 true (fun _ a => ([memRegion a 16384], [])) s

/-- R367: `ferase`. -/
def execFerase (h : Head) (f : LayA) (s : State) : Out :=
  enqueueDesc (.ferase h f) h f true 0 false (fun _ _ => ([], [])) s

/-- R363: `fstat`. -/
def execFstat (h : Head) (f : LayA) (s : State) : Out :=
  let e := jobEntry s.bk (.fstat h f) h f
  let n := 64 * (maskStacks (e.xb.toNat % 65536)).length
  finish s (do
    engineReady s .stack false
    aligned e.xa 32
    areasOk s [(e.xa.toNat, Nat.max n 1, false, true)]
    need (e.xb != 0 && e.xb.toNat < 65536) (enqFault .ill e.xb)
    .ok (enqueueJob s .stack e h.dst [] [memRegion e.xa.toNat n]))

/-- R364: `fsync`. -/
def execFsync (h : Head) (f : LayA) (s : State) : Out :=
  let e := jobEntry s.bk (.fsync h f) h f
  finish s (do
    engineReady s .stack false
    need (e.xb != 0 && e.xb.toNat < 65536) (enqFault .ill e.xb)
    .ok (enqueueJob s .stack e h.dst [] [actRegion 0 (16 * stackSpan)]))

/-- R371: `fduty`. -/
def execFduty (h : Head) (f : LayA) (s : State) : Out :=
  let e := jobEntry s.bk (.fduty h f) h f
  let n := (bits e.xb 20 5).toNat
  finish s (do
    engineReady s .stack true
    need (bits e.xb 0 16 != 0 && 1 ≤ n && n ≤ 16 && bits e.xb 25 39 = 0) (enqFault .ill e.xb)
    .ok (enqueueJob s .stack e h.dst [] []))

end Sys2Proof.Machine
end

