-- ==== Sys2Proof/Machine/Pairs.lean ====
section
/-!
DEFINITION. Plane pairs of a stack (R368 to R373, R414 to R417, R422): which work holds or waits for a pair, what Badger
may take it for, and what beginning a sense charges.
-/
namespace Sys2Proof.Machine

/-! ## Commands in a stack -/

/-- The command class of CLASS (R339, R368). -/
def classOf (cls : Nat) : CmdClass := if cls = 1 then .urgent else .foreground

/-- Whether page work still occupies its pair's sense latch (R351, R354). -/
def PlaneStep.holdsPair : PlaneStep → Bool
  | .softRead _ | .sensing | .sensed | .reread _ => true
  | _ => false

/-- The page work of a command on a pair. -/
def StackCmd.onPair (c : StackCmd) (die q : Nat) : List PlaneWork :=
  c.planes.filter (fun p => p.die = die && p.plane / 2 = q)

/-- A command that has arrived, may sense, is not over, and waits for the pair. The pages of a job that has stopped
after it sensed are still sensed (R353). -/
def StackCmd.waitsFor (c : StackCmd) (die q : Nat) : Bool :=
  c.arrived && c.clear && !c.isOver && (c.onPair die q).any (fun p => p.step = .waiting)

/-- The map entry a command's page is read by: the stack map's, or that of the copy it reads back (R331, R406). -/
def placeOf (w : Stack) (c : StackCmd) (die q lp : Nat) : Option MapEntry :=
  match c.place with
  | some (b, sb) => some ⟨b, sb, 48, 48, false⟩
  | none => mapOf w (pairKey die q) lp

/-- The commands a relocation waits for. -/
def Reloc.cids (r : Reloc) : List Nat :=
  (match r.step with
   | .reading c | .verifying c => [c]
   | _ => []) ++ r.asks.map (fun a => a.1)

/-- Whether Badger still wants what one of its commands reads. -/
def badgerWants (w : Stack) (cid : Nat) : Bool :=
  w.relocs.any (fun r => r.cids.contains cid) || w.scrub.any (fun x => x.cur = some cid)

/-- Older by arrival, then by the order of sending (R368). -/
def StackCmd.older (a b : StackCmd) : Bool := a.arrive < b.arrive || (a.arrive = b.arrive && a.id < b.id)

/-- The oldest of a list of commands. -/
def oldestCmd : List StackCmd → Option StackCmd
  | [] => none
  | c :: r =>
    match oldestCmd r with
    | none => some c
    | some x => if x.older c then some x else some c

/-- The pages of a command taken by the next pair sense: those of the lowest logical page waiting on the pair. -/
def nextPages (c : StackCmd) (die q : Nat) : List PlaneWork :=
  let l := (c.onPair die q).filter (fun p => p.step = .waiting)
  let lp := l.foldl (fun m p => Nat.min m p.lp) 262144
  l.filter (fun p => p.lp = lp)

/-- Whether a logical sub-block an `fprog` or `ferase` addresses on a pair is under relocation, from the beginning of its
copy to the end of its switch (R409). -/
def underRelocation (w : Stack) (c : StackCmd) (die q : Nat) : Bool :=
  let d := sDesc c.dw
  let hit (n : Nat) : Bool := match c.i with
    | .fprog _ _ => n = d.lp / 48
    | .ferase _ _ =>
      let lsb0 := (bits d.aux 0 13).toNat
      lsb0 ≤ n && n < lsb0 + (bits d.aux 16 13).toNat
    | _ => false
  w.relocs.any (fun r => r.die = die && r.q = q && hit r.lsb && r.begun)

/-- Whether an earlier `frebuild` of the sub-block of a page is in progress: a sense of the sub-block waits for its map
change (R361; log entry 73). -/
def beingRebuilt (w : Stack) (c : StackCmd) (die q lp : Nat) : Bool :=
  c.owner != .badger && w.cmds.any (fun x => x.arrived && !x.isOver && x.older c && (match x.i with
    | .frebuild _ _ =>
      let d := sDesc x.dw
      d.die = die && d.planes.headD 0 / 2 = q && d.lp / 48 = lp / 48
    | _ => false))

/-- Whether a waiting command could begin on a pair now: a sense waits while the map entry of its sub-block changes
(R361), an `fprog` or `ferase` while its sub-block is relocated (R409). -/
def grantable (w : Stack) (c : StackCmd) (die q : Nat) : Bool :=
  match c.i with
  | .fprog _ _ | .ferase _ _ => !underRelocation w c die q
  | _ => (c.owner != .badger || badgerWants w c.id) && !(nextPages c die q).any (fun p =>
      beingRebuilt w c die q p.lp || (match mapOf w (pairKey die q) p.lp with
        | some e => e.moving
        | none => false))

/-- Whether a command waits for a pair and nothing else: one that waits for a map entry, or for the end of a relocation,
does not wait for the pair. -/
def StackCmd.competes (w : Stack) (c : StackCmd) (die q : Nat) : Bool := c.waitsFor die q && grantable w c die q

/-- The commands of a class that wait for a pair and could begin on it. -/
def waitingOf (w : Stack) (die q : Nat) (cl : CmdClass) : List StackCmd :=
  w.cmds.filter (fun c => c.cls = cl && c.competes w die q)

/-- Whether a command other than of the maintenance class waits for the pair. -/
def othersWait (w : Stack) (die q : Nat) : Bool := w.cmds.any (fun c => c.cls != .maintenance && c.competes w die q)

/-- Whether an `fprog` or `ferase` that reached the stack by tick t waits for the pair: the oldest of the maintenance
class goes first, a step of Badger's being as old as its wait (R368; log entry 88). -/
def olderWaits (w : Stack) (die q t : Nat) : Bool :=
  w.cmds.any (fun c => c.cls = .maintenance && c.owner != .badger && c.arrive ≤ t && c.competes w die q)

/-- A pre-empting step is over (R415): the command that waited goes next. -/
def stepOver (w : Stack) (die q : Nat) : Stack :=
  let k := pairKey die q
  match amapGet w.lastPreempt k with
  | some false => { w with lastPreempt := amapSet w.lastPreempt k (if othersWait w die q then some true else none) }
  | _ => w

/-- Whether the clocks of stack j's page-logic die are stopped (R440, R442). -/
def plStalled (s : State) (j : Fin 16) : Bool := bit s.pow.stalled (plIsland j).val

/-- The tick from which work of stack j's page-logic die that is ready on tick t counts: its clocks' last stop is over
(R440). -/
def afterStall (s : State) (j : Fin 16) (t : Nat) : Nat := Nat.max t (s.pow.stallUntil.get (plIsland j))

/-- Whether a step of a relocation holds its pair (R406, R414). -/
def RelocStep.holdsPair : RelocStep → Bool
  | .reading _ | .verifying _ | .programming => true
  | _ => false

/-- Whether nothing is being sensed or read again on the pair, and no program or erase holds it. -/
def pairIdle (s : State) (w : Stack) (die q : Nat) : Bool :=
  w.mode = .ready && (amapGet w.held (pairKey die q)).getD 0 ≤ s.stamp
    && !w.cmds.any (fun c => (c.onPair die q).any (fun p => p.step.holdsPair))
    && !w.erasing.any (fun x => x.1 = pairKey die q)

/-- Whether the pair can begin something now: it is idle, and no step of a relocation holds it. -/
def pairFree (s : State) (w : Stack) (die q : Nat) : Bool :=
  pairIdle s w die q && !w.relocs.any (fun r => r.die = die && r.q = q && r.step.holdsPair)

/-! ## Duty cycling and the allowance (R371, R373) -/

/-- Whether the pair is outside its idle slots. -/
def dutyAllows (s : State) (w : Stack) (die q : Nat) : Bool :=
  match amapGet w.duty (pairKey die q) with
  | some d => d.idleUntil ≤ s.stamp
  | none => true

/-- The duty cycler's setting (K, N): in fallback, K = 0 becomes K = 1, N = 1 (R371, R443). -/
def dutyKN (s : State) (w : Stack) : Nat × Nat := if s.pow.fallback && w.dutyK = 0 then (1, 1) else (w.dutyK, w.dutyN)

/-- A pair's duty state after a sense of `reads` slots began on tick t: after N busy slots, K idle ones follow it (R371). -/
def DutyPair.begin_ (d : DutyPair) (dutyK dutyN t reads : Nat) : DutyPair :=
  let n := (if t / 8400 ≤ d.last / 8400 + 1 then d.busy else 0) + reads
  let last := t + 8400 * (reads - 1)
  if dutyN ≤ n then ⟨0, last, last + 8400 * (1 + dutyK)⟩ else ⟨n, last, 0⟩

/-- The duty state after a sense of `reads` reads, one slot each, began on this tick (R371). -/
def dutySense (s : State) (w : Stack) (die q reads : Nat) : Stack :=
  let (dutyK, dutyN) := dutyKN s w
  if !w.cycling || dutyK = 0 then w
  else
    let k := pairKey die q
    let d := ((amapGet w.duty k).getD ⟨0, 0, 0⟩).begin_ dutyK dutyN s.stamp reads
    { w with duty := amapSet w.duty k (some d) }

/-- Whether n more slots of a pair pass before its next idle slots (R371). -/
def dutyRoom (s : State) (w : Stack) (die q n : Nat) : Bool :=
  let (dutyK, dutyN) := dutyKN s w
  !w.cycling || dutyK = 0 || ((amapGet w.duty (pairKey die q)).getD ⟨0, 0, 0⟩).busy + n ≤ dutyN

/-- Whether n more plane-senses fit in the allowance of this tick's window, which has been granted (R373). -/
def allowanceFits (s : State) (w : Stack) (n : Nat) : Bool :=
  s.stamp / 60000 ≤ s.pow.allowWin && w.used + n ≤ w.allow

/-- The wall clock, in seconds, if the host has set it (R412, R469). -/
def wallClock (s : State) : Nat :=
  match s.svc.clock with
  | some (t, at_) => t + (s.stamp - at_) / 600000000
  | none => 0

/-- Fields of an extent's run: stack, die, pair, first LP, count (R469). -/
def runHolds (r : Word) (j die q lp : Nat) : Bool :=
  (bits r 0 4).toNat = j && (bits r 4 3).toNat = die && (bits r 7 6).toNat = q
    && (bits r 14 18).toNat ≤ lp && lp < (bits r 14 18).toNat + (bits r 32 18).toNat

/-- An extent seen on this tick (R412): while the clock is not set, the tick is kept until it is. -/
def Extent.seenNow (s : State) (x : Extent) : Extent :=
  if s.svc.clock.isSome then { x with lastSeen := wallClock s, seenTick := none } else { x with seenTick := some s.stamp }

/-- A sense of a page renews the time of its extent (R412). -/
def touchExtent (s : State) (j : Fin 16) (die q lp : Nat) : State :=
  let w := s.stack j
  s.setStack j { w with extents := w.extents.map (fun x =>
    if x.runs.any (fun r => runHolds r j.val die q lp) then x.seenNow s else x) }

/-! ## A sense begins (R369, R371, R373, R403, R412) -/

/-- One read of a page begins: it disturbs its sub-block pair (R403). -/
def disturbRead (s : State) (j : Fin 16) (c : StackCmd) (die q lp pg : Nat) : State :=
  if c.place.isSome then s.setStack j (disturbFresh (s.stack j) die q (pg / 1152) (pg % 1152 / 48) 1)
  else disturbAt s j die q lp pg

/-- A sense of `reads` reads of a page begins on its pair, of `n` plane-senses in all: it is charged, its first read
disturbs the sub-block pair, and the pair's duty state, its count of senses since one for the backfill engine, and the
extent's time follow. -/
def beginReads (s : State) (j : Fin 16) (c : StackCmd) (die q lp pg reads n : Nat) : State :=
  let pk := pairKey die q
  let s := disturbRead (chargeSenses s j n c.ctx) j c die q lp pg
  let w := dutySense s (s.stack j) die q reads
  let skipped := if c.cls = .backfill then 0 else (amapGet w.bfSkipped pk).getD 15 + reads
  touchExtent (s.setStack j { w with bfSkipped := amapSet w.bfSkipped pk (some skipped) }) j die q lp

/-! ## Badger's budget (R416) -/

/-- What a die has used of its budget in the window of this tick. -/
def budgetUsed (s : State) (w : Stack) (die : Nat) : Nat :=
  if s.pow.budgetWin < s.stamp / 60000000 then 0 else w.budget.getD die 0

/-- In a new window every die's budget is whole again. -/
def rollBudget (s : State) : State :=
  let n := s.stamp / 60000000
  if n ≤ s.pow.budgetWin then s
  else
    { s with
      pow := { s.pow with budgetWin := n }
      wstacks := s.wstacks.map (fun w => { w with budget := Vector.replicate 8 0 }) }

/-- Charge a die with ticks that a pre-empting step holds a pair. -/
def chargeBudget (s : State) (j : Fin 16) (die cost : Nat) : State :=
  let s := rollBudget s
  let w := s.stack j
  s.setStack j { w with budget := w.budget.setIfInBounds die (w.budget.getD die 0 + cost) }

/-! ## Badger's choice (R406, R409, R414 to R416, R422) -/

/-- The reads of a sense of a sub-block: four under RISK (R404). -/
def readsOf (w : Stack) (pk lsb : Nat) : Nat := if levelOf w pk lsb = 3 then 4 else 1

/-- The pair senses of the word line a relocation is at: three, but for the last page of a plane, which stands alone in
its word line (R331, R406). -/
def lineSenses (r : Reloc) : Nat := Nat.min 3 (262144 - (48 * r.lsb + 3 * (if r.dst.isSome then r.wl else 0)))

/-- Ticks of a relocation's next step, and the plane-senses it begins with (R414 to R417): a program step counts as
six, and each sense of a read step is counted as it begins. -/
def stepCost (w : Stack) (r : Reloc) : Nat × Nat :=
  let reads := readsOf w (pairKey r.die r.q) r.lsb
  match r.step with
  | .toProgram => (360000, 6)
  | .toVerify => (8400 * lineSenses r, 2)
  | _ => (8400 * reads * lineSenses r, 2 * reads)

/-- The most that a step may come to: ticks, plane-senses, and slots of its pair. -/
structure StepBound where
  ticks : Nat
  senses : Nat
  slots : Nat
  deriving DecidableEq, Repr

/-- The bound of a relocation's next step: of a pair sense, three re-reads of either plane, each after its decode (R351,
R354). -/
def stepBound (r : Reloc) : StepBound :=
  match r.step with
  | .toProgram => ⟨360000, 6, 0⟩
  | _ => ⟨94512 * lineSenses r, 8 * lineSenses r, 7 * lineSenses r⟩

/-- The bound of a sense of one plane: three re-reads, or the four reads of a soft-decision sense. -/
def askBound : StepBound := ⟨51456, 8, 4⟩

/-- A relocation R409 holds back before its copy begins: the last page of its sub-block is not programmed, or an `fprog`
to it waits or is in progress. -/
def relocBarred (w : Stack) (r : Reloc) : Bool :=
  let pk := pairKey r.die r.q
  !r.begun && (!lpMapped w pk (Nat.min (48 * r.lsb + 47) 262143) ||
    w.cmds.any (fun c => !c.isOver && c.arrived && (match c.i with
      | .fprog _ _ => c.planes.any (fun p => p.die = r.die && p.plane / 2 = r.q && p.lp / 48 = r.lsb)
      | _ => false)))

/-- Whether a relocation's next step takes its pair. -/
def RelocStep.wantsPair : RelocStep → Bool
  | .toRead | .toProgram | .toVerify => true
  | _ => false

/-- A relocation that could take a step on its pair: it needs the pair, what it programs is decoded, it is not barred,
and has or can get a destination. -/
def relocReady (s : State) (w : Stack) (r : Reloc) : Bool :=
  r.step.wantsPair && r.due ≤ s.stamp && !relocBarred w r
    && (r.dst.isSome || (allocSb w (pairKey r.die r.q)).isSome)

/-- The highest-ranked, oldest relocation ready on a pair (R414). -/
def bestReloc (s : State) (w : Stack) (die q : Nat) : Option Reloc :=
  (w.relocs.filter (fun r => r.die = die && r.q = q && relocReady s w r)).foldl (fun m r =>
    match m with
    | none => some r
    | some x => if relocRank r.cause < relocRank x.cause then some r else some x) none

/-- Whether a class may be pre-empted by work of a rank, inside or outside a granted hold window (R414, R422). -/
def mayPreempt (rank : Nat) (inHold : Bool) (c : CmdClass) : Bool :=
  match c with
  | .urgent => rank ≤ 2
  | .foreground | .backfill => rank ≤ 4 || inHold
  | .maintenance => true

/-- Whether the stack's hold covers this tick, and whether one is pending at all (R422). -/
def inHold (s : State) (w : Stack) : Bool :=
  match w.hold with
  | some h => h.t0 ≤ s.stamp && s.stamp < h.t1
  | none => false

/-- A pre-empting step is allowed by the hold rules (R422). Inside the window it begins only where it is sure to end by T1:
with all the re-reads it may need, none of which may wait for the allowance or for idle slots (DESIGN CHOICE, log entry
89). -/
def holdAllows (s : State) (w : Stack) (die q rank : Nat) (x : StepBound) : Bool :=
  match w.hold with
  | none => true
  | some h =>
    if rank ≤ 2 then true
    else if h.t0 ≤ s.stamp && s.stamp < h.t1 then
      s.stamp + x.ticks ≤ h.t1 && allowanceFits s w x.senses && dutyRoom s w die q x.slots
    else h.t1 ≤ s.stamp

/-- Whether Badger pre-empts the commands waiting for a pair with work of a rank and cost (R415, R416). -/
def preempts (s : State) (w : Stack) (die q rank cost : Nat) (x : StepBound) : Bool :=
  let hold := inHold s w
  othersWait w die q
    && !w.cmds.any (fun c => c.competes w die q && !mayPreempt rank hold c.cls)
    && budgetUsed s w die + cost ≤ 1200000
    && !((amapGet w.lastPreempt (pairKey die q)).getD false)
    && holdAllows s w die q rank x

/-- Whether a relocation's next step pre-empts the commands waiting for its pair. -/
def stepPreempts (s : State) (w : Stack) (r : Reloc) : Bool :=
  preempts s w r.die r.q (relocRank r.cause) (stepCost w r).1 (stepBound r)

/-- Whether Badger may take the pair of a relocation for its next step now: ahead of the commands that wait for it, or in
the maintenance class (R368, R414 to R417). -/
def canTake (s : State) (w : Stack) (r : Reloc) : Bool :=
  pairFree s w r.die r.q && allowanceFits s w (stepCost w r).2 && dutyAllows s w r.die r.q
    && (if othersWait w r.die r.q then stepPreempts s w r else !olderWaits w r.die r.q r.since)

/-- The rank of the work for which Badger senses a stripe: that of the relocation, or of the scrub (R407, R414). -/
def askRank (w : Stack) (cid : Nat) : Nat :=
  match w.relocs.find? (fun r => r.asks.any (fun a => a.1 = cid)) with
  | some r => relocRank r.cause
  | none => 7

/-- The ticks of Badger's next sense of a stripe on a pair. -/
def askCost (w : Stack) (c : StackCmd) (die q : Nat) : Nat :=
  8400 * readsOf w (pairKey die q)
    (((nextPages c die q).headD ⟨0, 0, 0, .waiting, 0, 0, 0, 0, 0, 0, [], false⟩).lp / 48)

/-- Whether Badger's sense of a stripe pre-empts the commands waiting for a pair (R407, R414, R415, R422). -/
def askPreempts (s : State) (w : Stack) (c : StackCmd) (die q : Nat) : Bool :=
  let rank := askRank w c.id
  preempts s w die q rank (askCost w c die q) askBound && (rank < 7 || inHold s w)

/-- Whether a sense of a stripe of Badger's could begin now on a pair it waits for. -/
def askReady (s : State) (w : Stack) (c : StackCmd) : Bool :=
  c.planes.any (fun p =>
    let q := p.plane / 2
    c.competes w p.die q && pairFree s w p.die q && dutyAllows s w p.die q && allowanceFits s w 2
      && (!othersWait w p.die q || askPreempts s w c p.die q))

/-- Whether a relocation could go on now: with a step, or with a sense of a stripe it has asked for. -/
def canGo (s : State) (w : Stack) (r : Reloc) : Bool :=
  (relocReady s w r && canTake s w r)
    || r.asks.any (fun a => w.cmds.any (fun c => c.id = a.1 && askReady s w c))

/-- Whether a relocation of a better rank on the stack, or one of the same rank among `older`, could go on now: it goes
first (R414). -/
def outranked (s : State) (w : Stack) (rank : Nat) (older : List Reloc) : Bool :=
  w.relocs.any (fun r => relocRank r.cause < rank && canGo s w r)
    || older.any (fun r => relocRank r.cause = rank && canGo s w r)

/-- The relocations queued before one. -/
def olderThan (w : Stack) (r : Reloc) : List Reloc := w.relocs.takeWhile (fun x => x != r)

/-- Whether Badger's best relocation goes ahead of every command waiting for the pair. -/
def badgerGoes (s : State) (w : Stack) (die q : Nat) : Bool :=
  match bestReloc s w die q with
  | some r => stepPreempts s w r && allowanceFits s w (stepCost w r).2 && dutyAllows s w die q
      && !outranked s w (relocRank r.cause) (olderThan w r)
  | none => false

/-- Whether work of Badger's that goes first can go elsewhere on the stack while it would sense a stripe (R414). -/
def askOutranked (s : State) (w : Stack) (c : StackCmd) : Bool :=
  outranked s w (askRank w c.id) (match w.relocs.find? (fun r => r.asks.any (fun a => a.1 = c.id)) with
    | some r => olderThan w r
    | none => [])

/-- Badger's senses of stripes that wait for a pair and may go now, by rank and age (R414). -/
def waitingAsks (s : State) (w : Stack) (die q : Nat) : List StackCmd :=
  w.cmds.filter (fun c => c.owner = .badger && c.competes w die q && !askOutranked s w c)

/-- Badger's sense of a stripe that pre-empts the commands waiting for a pair, with its cost, if there is one (R407,
R415). -/
def askFirst (s : State) (w : Stack) (die q : Nat) : Option (StackCmd × Nat) :=
  ((oldestCmd (waitingAsks s w die q)).filter (fun c => askPreempts s w c die q)).map (fun c => (c, askCost w c die q))

/-- Whether a step of a relocation that has waited longer than a command of the maintenance class takes the pair (R368). -/
def olderStep (s : State) (w : Stack) (die q t : Nat) : Bool :=
  match bestReloc s w die q with
  | some r => r.since < t && canTake s w r && !outranked s w (relocRank r.cause) (olderThan w r)
  | none => false

/-! ## The arbiter's choice (R368, R369) -/

/-- The age in ticks of the oldest pending exit record. -/
def oldestExitAge (s : State) : Nat := s.bf.recs.foldl (fun m r => Nat.max m (s.stamp - r.created)) 0

/-- Whether the backfill guarantee gives a pair's next sense to a waiting backfill command (R369). -/
def backfillDue (s : State) (w : Stack) (die q : Nat) : Bool :=
  3000000 < oldestExitAge s && 15 ≤ (amapGet w.bfSkipped (pairKey die q)).getD 15

/-- The command a pair's arbiter takes next. -/
def arbiterPick (s : State) (w : Stack) (die q : Nat) : Option StackCmd :=
  let of (c : CmdClass) : Option StackCmd := oldestCmd ((waitingOf w die q c).filter (fun x =>
    c != .maintenance || (if x.owner = .badger then !askOutranked s w x else !olderStep s w die q x.arrive)))
  let normal := (of .urgent).or ((of .foreground).or ((of .backfill).or (of .maintenance)))
  if backfillDue s w die q then (of .backfill).or normal else normal

end Sys2Proof.Machine
end

