-- ==== Sys2Proof/Machine/StackMath.lean ====
section
/-!
DEFINITION. The arithmetic of a sense (R333, R334, R346, R353, R355, R357): page elements, activations, group scales,
and an output element with its poison.
-/
namespace Sys2Proof.Machine

/-- The elements of row r of a page in a layout (R333, R60). -/
def rowInts (lay : Nat) (raw : BitVec 73728) (r : Nat) : List Int :=
  let w := if layInt4 lay then 4 else 8
  let n := layCols lay
  let v := (bits raw (r * n * w) (n * w)).toNat
  (List.range n).map (fun i => sInt w (v / 2 ^ (w * i) % 2 ^ w))

/-- The bytes of a sparse store from o up. -/
def sramBytes (m : AMap Byte) (o n : Nat) : List Byte :=
  let part := m.filter (fun c => o ≤ c.1 && c.1 < o + n)
  (List.range n).map (fun i => (amapGet part (o + i)).getD 0)

/-- The first poison of the 8-byte words of [o, o + n) of a store. -/
def sramPoison (m : AMap Mark) (o n : Nat) : Option Mark :=
  (m.find? (fun c => o / 8 ≤ c.1 && c.1 ≤ (o + n - 1) / 8)).map Prod.snd

/-- A source of activations: n bytes from an offset, with their poison. -/
abbrev ActSource := Nat → Nat → List Int × Option Mark

/-- Activations of a stack's activation SRAM. -/
def actSource (w : Stack) : ActSource := fun o n =>
  ((sramBytes w.act o n).map (fun b => b.toInt), sramPoison w.actPoison o n)

/-- Activations of a backfill vector (R391): the byte at a slot offset. -/
def slotSource (b : Option BfSlot) : ActSource := fun o n =>
  match b with
  | some b => ((List.range n).map (fun i => (b.bytes.getD (o + i) 0).toInt), sramPoison b.bad o n)
  | none => (List.replicate n 0, none)

/-- The dot products of the 64-column groups of a row. -/
def groupDots : Nat → List Int → List Int → List Int
  | 0, _, _ => []
  | n + 1, x, y =>
    ((x.take 64).zip (y.take 64)).foldl (fun a p => a + p.1 * p.2) 0 :: groupDots n (x.drop 64) (y.drop 64)

/-- The byte of a plane's scale buffer where the scale of (row, group) lies (R353). -/
def scaleByte (w : Stack) (d : SDesc) (plane r g : Nat) : Nat :=
  let gp := 128 * d.die + plane
  let slot := d.lp - (amapGet w.scaleLpb gp).getD 0
  8192 * gp + 512 * slot + 2 * (r * (layCols d.lay / 64) + g)

/-- The group scale SC_p[r][g], a BF16 value. -/
def scaleVal (w : Stack) (d : SDesc) (plane r g : Nat) : Val :=
  decodeVal 1 (ofBytes (sramBytes w.scale (scaleByte w d plane r g) 2))

/-- The running sums of one output element: the exact sum, and the FP32 sum of grouped mode. -/
structure ElemSum where
  acc : Int
  y : Nat
  deriving DecidableEq, Repr

/-- Add the groups of one plane to an element (R346). -/
def addPlane (w : Stack) (d : SDesc) (plane r : Nat) : Nat → List Int → ElemSum → ElemSum
  | _, [], x => x
  | g, e :: rest, x =>
    let y := if d.omode = 2 then (fFma 0 false false (Val.ofInt e) (scaleVal w d plane r g) (decodeVal 0 x.y)).1 else x.y
    addPlane w d plane r (g + 1) rest ⟨x.acc + e, y⟩

/-- A 32-bit word of an integer. -/
def word32 (x : Int) : BitVec 32 := BitVec.ofInt 32 x

/-- x clamped to the INT32 range. -/
def clamp32 (x : Int) : Int := if x < -2147483648 then -2147483648 else if 2147483647 < x then 2147483647 else x

/-- An output element in its mode (R346). -/
def elemOut (omode : Nat) (x : ElemSum) : BitVec 32 :=
  if omode = 0 then word32 x.acc else if omode = 1 then word32 (clamp32 x.acc) else BitVec.ofNat 32 x.y

/-- Output element (row r) of a group's pages for one vector whose slice s lies at base + s × COLS (R346), and its
poison: an uncorrectable codeword that covers the row, a failed activation word, a poisoned scale (R355, R357,
R358). -/
def senseElem (w : Stack) (d : SDesc) (ps : List PlaneWork) (src : ActSource) (base r : Nat) :
    BitVec 32 × Option Mark :=
  let cols := layCols d.lay
  let step (x : ElemSum × Option Mark) (p : PlaneWork) : ElemSum × Option Mark :=
    let (a, m) := src (base + p.plane % d.gsize * cols) cols
    let flash : Option Mark := if bit p.bad (r * 8 / layRows d.lay) then some .due else none
    let sc : Option Mark :=
      if d.omode = 2 then sramPoison w.scaleBad (scaleByte w d p.plane r 0) (2 * (cols / 64)) else none
    (addPlane w d p.plane r 0 (groupDots (cols / 64) (rowInts d.lay p.page r) a) x.1, x.2.or (flash.or (m.or sc)))
  let (x, m) := ps.foldl step (⟨0, 0⟩, none)
  match m with
  | some mk => (0, some mk)
  | none => (elemOut d.omode x, none)

/-- Whether an element's poison came from a store of the page-logic die alone (R357). -/
def sramOnly (w : Stack) (d : SDesc) (ps : List PlaneWork) (r : Nat) (m : Option Mark) : Bool :=
  let _ := w
  m.isSome && !ps.any (fun p => bit p.bad (r * 8 / layRows d.lay))

/-- The output elements of one group for a list of vectors (source and base), as (index, value, poison): index
(v × NG + gi) × NR + r. -/
def groupOutputs (w : Stack) (d : SDesc) (gi : Nat) (ps : List PlaneWork) (vecs : List (ActSource × Nat)) :
    List (Nat × BitVec 32 × Option Mark × Bool) :=
  ((List.range vecs.length).zip vecs).flatMap (fun (v, src, base) =>
    (List.range d.nr).map (fun r =>
      let (x, m) := senseElem w d ps src base r
      ((v * d.ng + gi) * d.nr + r, x, m, sramOnly w d ps r m)))

end Sys2Proof.Machine
end

