-- ==== Sys2Proof/Machine/StackRun.lean ====
section
/-!
DEFINITION. Weight-stack commands from the core to the stack and back (R338, R345 to R376): sending, arrival with the
checks made before a sense, arbitration, sense, decode and re-reads, multiplication, reduction, output, completion,
and the failures of stacks.
-/
namespace Sys2Proof.Machine

/-! ## Job faults and completion (R355, R375) -/

/-- DETAIL of a weight-stack record (R355). -/
def stkDetail (j die plane lp mask pages reason : Nat) : Word :=
  BitVec.ofNat 64 (lp % 2 ^ 18 + plane % 128 * 2 ^ 18 + die % 8 * 2 ^ 25 + j % 16 * 2 ^ 28 + mask % 256 * 2 ^ 32
    + Nat.min pages 255 * 2 ^ 40 + reason % 256 * 2 ^ 48)

/-- The descriptor of a command. -/
def StackCmd.desc (c : StackCmd) : SDesc := sDesc c.dw

/-- The commands of a job in all stacks, ascending. -/
def jobCmds (s : State) (k : Fin 16) (seq : BitVec 16) : List (Fin 16 × StackCmd) :=
  (List.finRange 16).flatMap (fun j => ((s.stack j).cmds.filter (fun c => match c.owner with
    | .job k' _ q => k' = k && q = seq
    | _ => false)).map (fun c => (j, c)))

/-- Replace a command of a stack by id. -/
def setCmd (w : Stack) (c : StackCmd) : Stack := { w with cmds := w.cmds.map (fun x => if x.id = c.id then c else x) }

def State.setCmdAt (s : State) (j : Fin 16) (c : StackCmd) : State := s.setStack j (setCmd (s.stack j) c)

/-- Remove a job's commands. -/
def dropJobCmds (s : State) (k : Fin 16) (seq : BitVec 16) : State :=
  { s with wstacks := s.wstacks.map (fun w => { w with cmds := w.cmds.filter (fun c => match c.owner with
      | .job k' _ q => !(k' = k && q = seq)
      | _ => true) }) }

/-- Every command of c's job, itself among them; a sense of the backfill engine's or Badger's stands alone. -/
def siblings (s : State) (j : Fin 16) (c : StackCmd) : List (Fin 16 × StackCmd) :=
  match c.owner with
  | .job k _ seq => jobCmds s k seq
  | _ => [(j, c)]

/-- The pages of a job with uncorrectable codewords, in stack and plane order. -/
def badPages (l : List (Fin 16 × StackCmd)) : List (Fin 16 × PlaneWork) :=
  l.flatMap (fun x => (x.2.planes.filter (fun p => p.bad != 0)).map (fun p => (x.1, p)))

/-- The vectors a command brings itself: NV, or none for a sense that is no job's. -/
def StackCmd.ownVecs (c : StackCmd) : Nat :=
  match c.owner with
  | .job _ _ _ => c.desc.nv
  | _ => 0

/-- The poison of a command's own output elements; that of the attached vectors is the backfill engine's (R348). -/
def StackCmd.ownBad (c : StackCmd) : AMap Mark :=
  c.outBad.filter (fun x => x.1 < c.ownVecs * c.desc.ng * c.desc.nr)

/-- DETAIL of a job that completed with poison (R355, R357). -/
def poisonDetail (l : List (Fin 16 × StackCmd)) : Word :=
  match badPages l with
  | (j, p) :: r => stkDetail j.val p.die p.plane p.lp p.bad.toNat (r.length + 1) 0
  | [] =>
    match l.find? (fun x => x.2.sram) with
    | some (j, c) => stkDetail j.val c.desc.die (c.desc.planes.headD 0) c.desc.lp 0 0 1
    | none => 0

/-- Once every command of a job is over, its accesses are over, on the latest tick of any of them (R119, R351, R375). -/
def concludeJob (s : State) (k : Fin 16) (seq : BitVec 16) : State :=
  let l := jobCmds s k seq
  if !l.all (fun x => x.2.isOver) then s
  else
    match s.findJob k seq with
    | none => dropJobCmds s k seq
    | some (loc, jb) =>
      let d := match l with
        | x :: _ => x.2.desc
        | [] => sDesc []
      let pm : Word := match jb.e.i with
        | .fsa _ _ | .fsav _ _ | .fsense _ _ => BitVec.ofNat 64 d.pmap
        | _ => 0
      let jb := { jb with pmap := pm }
      let s := dropJobCmds s k seq
      match l.findSome? (fun x => x.2.stop) with
      | some (c, a, dt) => s.setJob k loc (faultJob jb c (BitVec.ofNat 64 a) dt 0)
      | none =>
        let psn := l.any (fun x => !x.2.ownBad.isEmpty)
        let due := l.foldl (fun m x => Nat.max m x.2.due) 0
        s.setJob k loc { endJob jb due with psn := psn, detail := if psn then poisonDetail l else 0 }

/-! ## Records of the backfill engine (R391 to R394) -/

/-- Change the part a reference names. -/
def mapPart (s : State) (p : PartRef) (g : PartSense → PartSense) : State :=
  let onList (l : List PartSense) : List PartSense :=
    ((List.range l.length).zip l).map (fun x => if x.1 = p.idx then g x.2 else x.2)
  let onLayer (x : BfLayer) : BfLayer :=
    if x.layer != p.layer then x else if p.isV then { x with vs := onList x.vs } else { x with ks := onList x.ks }
  { s with bf := { s.bf with recs := s.bf.recs.map (fun r =>
      if r.id = p.rec_ then { r with layers := r.layers.map onLayer } else r) } }

/-- A sense of a part is undone: it was never made (R391). -/
def undoPart (p : PartSense) : PartSense := { p with inFlight := false, stacksLeft := 0, out := [], bad := [] }

/-- A sense of a part ended in a job fault (R394). -/
def failPart (p : PartSense) : PartSense := { p with inFlight := false, stacksLeft := 0, sensed := true, failed := true }

/-- The outputs of stack j reach a part: `base` is the first element of that stack. -/
def landPart (j : Fin 16) (base : Nat) (vals : List (BitVec 32 × Option Mark)) (p : PartSense) : PartSense :=
  let ix := (List.range vals.length).zip vals
  let left := p.stacksLeft &&& (65535 ^^^ (1 <<< j.val))
  if !p.inFlight then p
  else { p with
    out := ix.foldl (fun m x => amapSet m (base + x.1) (some x.2.1)) p.out
    bad := ix.foldl (fun m x => match x.2.2 with
      | some k => amapSet m (base + x.1) (some k)
      | none => m) p.bad
    stacksLeft := left
    inFlight := left != 0
    sensed := left = 0 }

/-- Rank of a stack in a mask. -/
def stackRank (mask : Nat) (j : Fin 16) : Nat := ((maskStacks mask).filter (fun x => x.val < j.val)).length

/-- Hand the attached vectors' outputs to their records. -/
def deliverParts (s : State) (j : Fin 16) (c : StackCmd) : State :=
  let d := c.desc
  let n := d.ng * d.nr
  ((List.range c.attached.length).zip c.attached).foldl (fun s x =>
    let first := (c.ownVecs + x.1) * n
    let vals := (List.range n).map (fun i => ((amapGet c.out (first + i)).getD 0, amapGet c.outBad (first + i)))
    mapPart s x.2 (landPart j (stackRank d.smask j * n) vals)) s

/-- What becomes of a stopped command's attached senses: undone when it stopped before it sensed, else failed. A
standalone sense that stops has ended in a job fault (R391, R394). -/
def settleParts (s : State) (c : StackCmd) (sensed : Bool) : State :=
  c.attached.foldl (fun s p => mapPart s p (if sensed || c.owner = .standalone then failPart else undoPart)) s

/-- A command of a context completes on tick t: an `fsync` of the context that came after it waits until then (R364). -/
def tellSyncs (w : Stack) (c : StackCmd) (t : Nat) : Stack :=
  { w with cmds := w.cmds.map (fun x => match x.i with
    | .fsync _ _ =>
      if x.arrived && !x.isOver && x.ctx = c.ctx && c.id != x.id && c.older x then { x with due := Nat.max x.due t } else x
    | _ => x) }

/-- A command is over in its stack; the job may be. -/
def endCmd (s : State) (j : Fin 16) (c : StackCmd) (due : Nat) : State :=
  match c.owner with
  | .job k _ seq =>
    let c := { c with isOver := true, due := Nat.max c.due due }
    concludeJob (s.setStack j (tellSyncs (setCmd (s.stack j) c) c c.due)) k seq
  | _ => s.setStack j { s.stack j with cmds := (s.stack j).cmds.filter (fun x => x.id != c.id) }

/-- Whether a command, or another of its job in any stack, has begun to sense. -/
def jobBegun (s : State) (j : Fin 16) (c : StackCmd) : Bool :=
  (siblings s j c).any (fun x => x.2.planes.any (fun p => p.step != .waiting))

/-- A job stops with a job fault before it senses anything: none of its commands senses, in any stack (R365, R367,
R375). -/
def barJob (s : State) (j : Fin 16) (c : StackCmd) (code : FaultCode) (addr : Nat) (detail : Word) : State :=
  let s := settleParts s c false
  let others := (siblings s j c).filter (fun x => !(x.1 = j && x.2.id = c.id))
  let s := others.foldl (fun s x => s.setCmdAt x.1 { x.2 with isOver := true }) s
  endCmd s j { c with stop := some (code, addr, detail) } 0

/-- A command of a failed stack stops with a job fault: before its job has sensed anything, or after (R375, R394). -/
def stopCmd (s : State) (j : Fin 16) (c : StackCmd) (code : FaultCode) (addr : Nat) (detail : Word) : State :=
  if jobBegun s j c then endCmd (settleParts s c true) j { c with stop := some (code, addr, detail) } 0
  else barJob s j c code addr detail

/-! ## Sending (R351, R376) -/

/-- Ticks of a packet that carries n bytes (R351). -/
def packetTicks (n : Nat) : Nat := 300 + (3 * n + 319) / 320

/-- The page work of the planes a descriptor selects. -/
def pagesOf (die lp : Nat) (planes : List Nat) : List PlaneWork :=
  planes.map (fun p => ⟨die, p, lp, .waiting, 0, 0, 0, 0, 0, 0, List.replicate 8 0, false⟩)

/-- The fifteen other members of the stripe of a page of one plane index (R332, R360): (die, logical page). -/
def stripeOthers (die lp : Nat) : List (Nat × Nat) :=
  let m := lp / 2 * 2
  ((List.range 8).flatMap (fun d => [(d, m), (d, m + 1)])).filter (fun x => !(x.1 = die && x.2 = lp))

/-- The pages a command needs its pairs for. -/
def cmdPages (i : Instr) (d : SDesc) : List PlaneWork :=
  match i with
  | .fsa _ _ | .fsav _ _ | .fsense _ _ | .fscal _ _ | .fprog _ _ | .ferase _ _ => pagesOf d.die d.lp d.planes
  | .frebuild _ _ =>
    let q := d.planes.headD 0 / 2
    let ps := (List.range 2).filter (fun b => bit d.aux b) |>.map (fun b => 2 * q + b)
    (stripeOthers d.die d.lp).flatMap (fun x => pagesOf x.1 x.2 ps)
  | _ => []

/-- The class a command queues in (R368): `fprog` and `ferase` are of the maintenance class. -/
def cmdClass (i : Instr) (d : SDesc) : CmdClass :=
  match i with
  | .fprog _ _ | .ferase _ _ => .maintenance
  | .fsa _ _ | .fsav _ _ | .fsense _ _ | .fscal _ _ | .frebuild _ _ => classOf d.cls
  | _ => .foreground

/-- When a packet of n bytes of an owner reaches stack j: after its flight, and not before an earlier packet of the same
core (R351, R368). -/
def arrivalTick (s : State) (j : Fin 16) (owner : CmdOwner) (n : Nat) : Nat :=
  let mine (c : StackCmd) : Bool := match owner, c.owner with
    | .job k _ _, .job k' _ _ => k = k' && !c.arrived
    | _, _ => false
  ((s.stack j).cmds.filter mine).foldl (fun m c => Nat.max m c.arrive) (s.stamp + packetTicks n)

/-- Put a command on its way to stack j. -/
def sendCmd (s : State) (j : Fin 16) (owner : CmdOwner) (i : Instr) (dw : List Word) (ctx : Word) (cls : CmdClass)
    (attached : List PartRef) (bytes : Nat) : State :=
  let c : StackCmd :=
    { id := s.nextCmd, owner := owner, i := i, dw := dw, ctx := ctx, cls := cls, arrive := arrivalTick s j owner bytes
      arrived := false, clear := false, place := none, planes := cmdPages i (sDesc dw), attached := attached, groups := [], out := [], outBad := []
      sram := false, result := [], due := 0, stop := none, isOver := false }
  { s.setStack j { s.stack j with cmds := (s.stack j).cmds ++ [c] } with nextCmd := s.nextCmd + 1 }

/-- The stacks an instruction addresses. -/
def addressed (e : Entry) : List (Fin 16) :=
  match e.i with
  | .fact _ _ | .fstat _ _ | .fsync _ _ | .fduty _ _ => maskStacks (e.xb.toNat % 65536)
  | _ => maskStacks (sDesc (e.maps.getD 0 [])).smask

/-- The reason a stack refuses every job, if it has failed (R372, R374). -/
def failedReason (w : Stack) : Option Nat :=
  match w.mode with
  | .failed r => some r
  | _ => none

/-- The first failed stack among those addressed. -/
def failedStack (s : State) (e : Entry) : Option (Fin 16 × Nat) :=
  (addressed e).findSome? (fun j => (failedReason (s.stack j)).map (fun r => (j, r)))

/-- The bytes a `fact` or `fprog` takes along, with their source range when it is one. -/
def sourceRange (e : Entry) : Option (Nat × Nat) :=
  match e.i with
  | .fact _ f => if f.ka then none else some (e.xa.toNat, (bits e.xb 35 20).toNat)
  | .fprog _ _ => some (e.xa.toNat, 16384)
  | _ => none

/-- Doublewords of bytes, eight at a time. -/
def packWords (bs : List Byte) : List Word := wordsOfBytes bs ((bs.length + 7) / 8)

/-- Send a started job's commands with the data they carry. -/
def sendAll (s : State) (k : Fin 16) (slot : Option (Fin 16)) (j : Job) (data : List Byte) (att : List PartRef) : State :=
  let dw := match j.e.i with
    | .fact _ _ | .fstat _ _ | .fsync _ _ | .fduty _ _ => j.e.xb :: packWords data
    | _ => j.e.maps.getD 0 [] ++ packWords data
  (addressed j.e).foldl (fun s x =>
    sendCmd s x (.job k slot j.seq) j.e.i dw (ctxidOf s slot) (cmdClass j.e.i (sDesc dw)) att data.length) s

/-- The records an `fsav` job picks up as it starts (R391): `attachFor` is the backfill engine's choice; the parts are
then in flight. -/
def markInFlight (s : State) (mask : Nat) (l : List PartRef) : State :=
  l.foldl (fun s p => mapPart s p (fun x => { x with inFlight := true, stacksLeft := mask, out := [], bad := [] })) s

/-- A vector slot of stack j that belongs to a record (R390). -/
def vectorSlot (w : Stack) (r : Nat) : Option BfSlot :=
  w.bfBuf.toList.findSome? (fun x => x.filter (fun b => b.rec_ = r))

/-- Whether a job's descriptor equals a list descriptor in the fields of R391. -/
def sameSense (a b : List Word) : Bool :=
  (a.getD 0 0 ^^^ b.getD 0 0) &&& 0x3F9FF3FFFF07FFFF = 0 && a.getD 1 0 = b.getD 1 0 && a.getD 2 0 = b.getD 2 0

/-- The parts of a record that a descriptor senses and that still lack a sense. -/
def openParts (r : ExitRec) (dw : List Word) : List PartRef :=
  r.layers.flatMap (fun x =>
    if x.final || x.dropped || x.rows.isSome then [] else
    let ix (l : List PartSense) (v : Bool) : List PartRef :=
      ((List.range l.length).zip l).filterMap (fun y =>
        if !y.2.sensed && !y.2.inFlight && sameSense y.2.dw dw then some ⟨r.id, x.layer, v, y.1⟩ else none)
    ix x.ks false ++ ix x.vs true)

/-- Whether a record has a vector slot in every stack of a mask. -/
def hasSlots (s : State) (r : ExitRec) (mask : Nat) : Bool :=
  (maskStacks mask).all (fun j => (vectorSlot (s.stack j) r.id).isSome)

/-- The records of a context in order of age, oldest first. -/
def recsOf (s : State) (ctx : Word) : List ExitRec := s.bf.recs.filter (fun r => r.ctx = ctx)

/-- The parts attached to an `fsav` with BFA = 1 (R391): one per qualifying record, the oldest first, up to 16 − NV. -/
def attachFor (s : State) (i : Instr) (ctx : Word) (dw : List Word) : List PartRef :=
  let d := sDesc dw
  match i with
  | .fsav _ _ =>
    if !d.bfa then []
    else
      ((recsOf s ctx).filterMap (fun r => if hasSlots s r d.smask then (openParts r dw).head? else none)).take (16 - d.nv)
  | _ => []

/-- A dispatched weight-stack job of core k starts (R345, R347, R376): its channel has room or data, its source is
read, and its commands leave the core. -/
def startStack (s : State) (k : Fin 16) (loc : Loc) (b : Bank) (j : Job) : State :=
  let h := (headOf j.e.i).getD ⟨0, 0, 0⟩
  let f := entryLay j.e
  if !edgesMet b j || b.stoppedAt.isSome then s
  else
    let go (s : State) (data : List Byte) : State :=
      let dw := j.e.maps.getD 0 []
      let att := attachFor s j.e.i (ctxidOf s b.slot) dw
      let s := markInFlight s (sDesc dw).smask att
      sendAll (s.setJob k loc { j with phase := .running }) k b.slot j data att
    match failedStack s j.e with
    | some (x, r) => s.setJob k loc (faultJob j .stkf 0 (stkDetail x.val 0 0 0 0 0 r) 0)
    | none =>
      let chan := if f.ka then some (s.chanHome k b loc (ix16 f.a)) else none
      match chan with
      | some none => s.setJob k loc (faultJob j .segv (chanBaseW (getChan b f.a)) 0 0)
      | some (some (_, _, c)) =>
        let refused := s.setJob k loc (faultJob j .segv (chanBaseW c) 0 0)
        let n := Nat.max (schWA h) j.e.vd
        match j.e.i with
        | .fact _ _ =>
          if !chanReady c false n then s
          else
            let len := (bits j.e.xb 35 20).toNat
            let s := (ringParts c c.tail (len + 1) 0 len).foldl (fun s p =>
              s.probe (onKey p.1) p.2 (ctxidOf s b.slot)) s
            let (bs, m) := ringRead s c c.tail 0 len
            match m with
            | some mk => s.setJob k loc (faultJob j (match mk with
                | .due => .due
                | .margin _ => .marg) (chanBaseW c) 0 0)
            | none =>
              if schAA h then
                match s.advance k b loc (ix16 f.a) false (schWA h) with
                | none => refused
                | some s => go s bs
              else go s bs
        | _ => if chanReady c true n then go s [] else s
      | none =>
        match sourceRange j.e with
        | none => go s []
        | some (a, n) =>
          match engineRead s (s.whoOf b.slot k true) a n with
          | .error (c, x) => stopJob s k loc b.slot j c x 0 0 false
          | .ok (s, r) =>
            match r.poison with
            | some mk => s.setJob k loc (faultJob j (markCode mk) (BitVec.ofNat 64 a) 0 0)
            | none => go s r.bytes

/-! ## Arrival: the checks before a sense (R338, R353, R365, R367) -/

/-- Whether another context owns a block or buffer. -/
def foreign (owner : Option Word) (ctx : Word) : Bool :=
  match owner with
  | none => false
  | some o => o != 0 && o != ctx

/-- Whether a command multiplies. -/
def StackCmd.computes (c : StackCmd) : Bool :=
  match c.i with
  | .fsa _ _ | .fsav _ _ => true
  | _ => false

/-- The activation blocks a sense reads. -/
def actBlocks (d : SDesc) : List Nat :=
  (List.range d.nv).flatMap (fun v =>
    let o := d.aoff + v * d.astr * 512
    (List.range ((o + d.vecLen - 1) / 4096 - o / 4096 + 1)).map (fun i => o / 4096 + i))

/-- Why the activations or scales a command reads are not its to read: a block or buffer of another context, reason 4,
or a buffer that does not cover the page, reason 3 (R338, R353). -/
def computeBar (w : Stack) (c : StackCmd) : Option (PlaneWork × Nat) :=
  let d := c.desc
  let head := c.planes.headD ⟨0, 0, 0, .waiting, 0, 0, 0, 0, 0, 0, [], false⟩
  if !c.computes then none
  else if c.owner != .standalone && (actBlocks d).any (fun x => foreign (amapGet w.actOwner x) c.ctx) then some (head, 4)
  else if d.omode != 2 then none
  else
    match c.planes.find? (fun p => foreign (amapGet w.scaleOwner (128 * d.die + p.plane)) c.ctx) with
    | some p => some (p, 4)
    | none =>
      (c.planes.find? (fun p => match amapGet w.scaleLpb (128 * d.die + p.plane) with
        | some lpb => !(lpb ≤ d.lp && d.lp < lpb + 16)
        | none => true)).map (fun p => (p, 3))

/-- Why a command may not sense, if so (R338, R353, R365, R367). -/
def senseBar (w : Stack) (c : StackCmd) : Option (FaultCode × PlaneWork × Nat) :=
  let d := c.desc
  let target := match c.i with
    | .frebuild _ _ => pagesOf d.die d.lp d.planes
    | _ => []
  let unmapped := (c.planes ++ target).find? (fun p => (storedPage w p.die p.plane p.lp).isNone)
  let sealed_ := c.planes.find? (fun p => match storedPage w p.die p.plane p.lp with
    | some (_, g) => g.isSealed
    | none => false)
  let plaintext := match c.i with
    | .fsa _ _ | .fsav _ _ | .fscal _ _ => true
    | _ => false
  match unmapped with
  | some p => some (.segv, p, 1)
  | none =>
    match (if plaintext then sealed_ else none) with
    | some p => some (.seal, p, 0)
    | none => (computeBar w c).map (fun x => (.segv, x.1, x.2))

/-- `fact` at its stack (R338, R345): the bytes, and the owner of each block written. -/
def writeAct (w : Stack) (ctx : Word) (o : Nat) (bs : List Byte) : Stack :=
  let n := bs.length
  { w with
    act := memWrite w.act o bs
    actPoison := amapClear w.actPoison (o / 8) ((o + n) / 8)
    actOwner := (List.range ((o + n - 1) / 4096 - o / 4096 + 1)).foldl
      (fun m i => amapSet m (o / 4096 + i) (some ctx)) w.actOwner }

/-- The bytes doublewords hold. -/
def unpackWords (ws : List Word) : List Byte := ws.flatMap (fun v => toBytes 8 v.toNat)

/-- Commands of a class that wait in a stack (R363). -/
def waitingCount (w : Stack) (cl : CmdClass) : Nat :=
  (w.cmds.filter (fun c => c.cls = cl && c.arrived && !c.isOver && c.planes.any (fun p => p.step = .waiting))).length

/-- The smallest relocation pool of a stack (R363, R410). -/
def smallestPool (w : Stack) : Nat := (List.range 512).foldl (fun m pk => Nat.min m (poolSize w pk)) (24 * userBlocks)

/-- STATE of a stack (R363). -/
def stateCode (w : Stack) : Nat :=
  match w.mode with
  | .failed _ => 3
  | .tripped _ => 2
  | .ready => if w.cycling then 1 else 0

/-- The `fstat` record (R363). -/
def statRecord (s : State) (w : Stack) : List Word :=
  [BitVec.ofNat 64 (w.temp % 256 + stateCode w * 256 + (dutyKN s w).1 * 2 ^ 16 + (dutyKN s w).2 * 2 ^ 20)
  , BitVec.ofNat 64 (w.allow % 2 ^ 32 + w.used % 2 ^ 32 * 2 ^ 32)
  , BitVec.ofNat 64 (waitingCount w .urgent % 65536 + waitingCount w .foreground % 65536 * 2 ^ 16
      + waitingCount w .backfill % 65536 * 2 ^ 32 + waitingCount w .maintenance % 65536 * 2 ^ 48)
  , BitVec.ofNat 64 w.corr
  , BitVec.ofNat 64 (w.unc % 2 ^ 32 + w.rrec % 2 ^ 32 * 2 ^ 32)
  , BitVec.ofNat 64 (smallestPool w % 2 ^ 32 + w.retCount % 2 ^ 32 * 2 ^ 32)
  , s.stampW, 0]

/-- The mapped logical sub-blocks at a level or above. -/
def atLevel (w : Stack) (lv : Nat) : Nat :=
  (w.map.filter (fun m => lv ≤ (amapGet w.level m.1).getD 0)).length

/-- The program/erase counts listed for block pairs in service, and whether some pair in service has none. -/
def servicePec (w : Stack) : List Nat × Bool :=
  let l := w.pec.filter (fun x => !((amapGet w.retired x.1).getD false))
  (l.map Prod.snd, l.length + w.retired.length < 512 * userBlocks)

/-- The `bdgq` record of a stack (R420). -/
def bdgRecord (s : State) (w : Stack) : List Word :=
  let dmax := w.map.foldl (fun m x => Nat.max m (distOf w (x.1 / 8192) x.2.pblk x.2.psb / 4)) 0
  let (pecs, zero) := servicePec w
  let pmax := pecs.foldl Nat.max 0
  let pmin := if zero then 0 else pecs.foldl Nat.min pmax
  let sat (n : Nat) : Nat := Nat.min n 65535
  let puse := (List.range 8).foldl (fun v d => v + (budgetUsed s w d + 5999) / 6000 % 256 * 2 ^ (8 * d)) 0
  let (h0, h1) := match w.hold with
    | some h => if s.stamp < h.t1 then (h.t0, h.t1) else (0, 0)
    | none => (0, 0)
  [BitVec.ofNat 64 (dmax + sat (atLevel w 1) * 2 ^ 24 + sat (atLevel w 2) * 2 ^ 40)
  , BitVec.ofNat 64 (sat (atLevel w 3) + sat w.relocs.length * 2 ^ 16 + pmax % 65536 * 2 ^ 32 + pmin % 65536 * 2 ^ 48)
  , BitVec.ofNat 64 (w.scrubQ.length % 2 ^ 32 + (w.extents.filter (fun x => x.suspect)).length % 2 ^ 32 * 2 ^ 32)
  , BitVec.ofNat 64 puse, BitVec.ofNat 64 h0, BitVec.ofNat 64 h1
  , BitVec.ofNat 64 (w.relocDone % 2 ^ 32 + w.retCount % 2 ^ 32 * 2 ^ 32), s.stampW]

/-- The `fmap` record of a logical page (R362); KIND, EXT and SEALED are those of the first plane of the pair. -/
def mapRecord (w : Stack) (d : SDesc) : List Word :=
  let q := d.planes.headD 0 / 2
  let pk := pairKey d.die q
  match mapOf w pk d.lp with
  | none => [0, 0, 0, 0]
  | some e =>
    if !lpMapped w pk d.lp then [0, 0, 0, 0]
    else
      let pg := ppageOf e d.lp
      let p := (amapGet w.pages (pageKey d.die (2 * q) pg)).getD ⟨0, 0, 0, false, false⟩
      let risk := levelOf w pk (d.lp / 48) = 3
      [BitVec.ofNat 64 (e.pblk + e.psb * 2 ^ 8 + 2 ^ 16 + (if p.isSealed then 2 ^ 17 else 0)
          + (if e.moving then 2 ^ 18 else 0) + (if risk then 2 ^ 19 else 0) + p.kind * 2 ^ 20)
      , BitVec.ofNat 64 p.ext, BitVec.ofNat 64 (pg % 1152)
      , BitVec.ofNat 64 (distOf w pk e.pblk e.psb / 4 + pecOf w pk e.pblk * 2 ^ 24)]

/-- A stack makes the pages of every open word line readable (R366). -/
def padWordLines (w : Stack) : Stack :=
  { w with map := w.map.map (fun m => (m.1, { m.2 with readable := m.2.programmed })) }

/-- A command that may sense: once every command of its job has arrived and found nothing against it, all of them do
(R365, R367). -/
def clearToSense (s : State) (j : Fin 16) (c : StackCmd) : State :=
  let l := siblings s j c
  if l.all (fun x => x.2.arrived) then l.foldl (fun s x => s.setCmdAt x.1 { x.2 with clear := true }) s else s

/-- When the last completes of the commands of a context that addressed stack j and are over there, though not yet
complete: those whose job goes on elsewhere, and those whose job is over and not yet marked so (R364). -/
def endedDue (s : State) (j : Fin 16) (ctx : Word) : Nat :=
  let here := ((s.stack j).cmds.filter (fun c => c.ctx = ctx && c.isOver)).map (fun c => c.due)
  let gone := (List.finRange 16).flatMap (fun k => allLocs.flatMap (fun loc => match s.locBank k loc with
    | none => []
    | some b =>
      if ctxidOf s b.slot != ctx then []
      else (b.jobs.filter (fun x => x.eng = .stack && x.phase = .ended && (addressed x.e).contains j)).map (fun x => x.due)))
  (here ++ gone).foldl Nat.max 0

/-- What a command does on arrival. -/
def arriveCmd (s : State) (j : Fin 16) (c : StackCmd) : State :=
  let c := { c with arrived := true }
  let s := s.setCmdAt j c
  let w := s.stack j
  let d := c.desc
  match c.i with
  | .fact _ _ =>
    let dw := c.dw.headD 0
    let bs := (unpackWords (c.dw.drop 1)).take (bits dw 35 20).toNat
    let s := s.setStack j (writeAct w c.ctx (bits dw 16 19).toNat bs)
    endCmd s j c (c.arrive + 300)
  | .fsa _ _ | .fsav _ _ | .fsense _ _ | .fscal _ _ | .frebuild _ _ =>
    match senseBar w c with
    | some (code, p, r) => barJob s j c code 0 (stkDetail j.val p.die p.plane p.lp 0 0 r)
    | none => clearToSense s j c
  | .fprog _ _ | .ferase _ _ => clearToSense s j c
  | .bdgq _ _ => s.setCmdAt j { c with result := bdgRecord s w }
  | .fmap _ _ => s.setCmdAt j { c with result := mapRecord w d }
  | .fstat _ _ => s.setCmdAt j { c with result := statRecord s w }
  | .fsync _ _ => s.setCmdAt j { c with due := endedDue s j c.ctx }
  | .fduty _ _ =>
    let v := c.dw.headD 0
    let k := (bits v 16 4).toNat
    endCmd (s.setStack j { w with dutyK := k, dutyN := (bits v 20 5).toNat }) j c (c.arrive + 300)
  | _ => s

/-! ## Arbitration and sense (R351, R361, R368 to R373, R403) -/

/-- Begin the sense of a command's next page on a pair, `arb` ticks from now, its first of four reads under RISK; none when the
allowance has no room for it, or the map entry is changing (R351, R361, R373, R404). -/
def senseNext (s : State) (j : Fin 16) (c : StackCmd) (die q arb : Nat) : Option State :=
  let w := s.stack j
  match nextPages c die q with
  | [] => none
  | p0 :: _ =>
    match placeOf w c die q p0.lp with
    | none => some (stopCmd s j c .segv 0 (stkDetail j.val die p0.plane p0.lp 0 0 1))
    | some e =>
      let reads := if c.place.isSome then 1 else readsOf w (pairKey die q) (p0.lp / 48)
      if e.moving || !allowanceFits s w (2 * reads) then none
      else
        let pg := ppageOf e p0.lp
        let upd (p : PlaneWork) : PlaneWork :=
          if p.die = die && p.plane / 2 = q && p.lp = p0.lp && p.step = .waiting then
            { p with
              step := if reads = 4 then .softRead 1 else .sensing, due := s.stamp + arb + 8400, ppage := pg, soft := reads = 4 }
          else p
        some (beginReads (s.setCmdAt j { c with planes := c.planes.map upd }) j c die q p0.lp pg reads (2 * reads))

/-- Forget that a pre-empting step was a pair's last (R415). -/
def State.clearPreempt (s : State) (j : Fin 16) (die q : Nat) : State :=
  let w := s.stack j
  s.setStack j { w with lastPreempt := amapSet w.lastPreempt (pairKey die q) none }

/-- Begin the sense of a waiting command's next page on a pair it is granted; a job that has sensed nothing yet, and whose
activations or scales another job has taken over since it arrived, stops first (R338, R353). -/
def beginSense (s : State) (j : Fin 16) (c : StackCmd) (die q : Nat) : State :=
  match if jobBegun s j c then none else computeBar (s.stack j) c with
  | some (p, r) => barJob s j c .segv 0 (stkDetail j.val p.die p.plane p.lp 0 0 r)
  | none =>
    match senseNext s j c die q 4 with
    | some t => t.clearPreempt j die q
    | none => s

/-- Badger's sense of a stripe, ahead of the commands waiting for its pair: it charges the die's budget (R407, R415,
R416). -/
def beginAsk (s : State) (j : Fin 16) (c : StackCmd) (die q cost : Nat) : State :=
  match senseNext s j c die q 0 with
  | none => s
  | some t =>
    let t := chargeBudget t j die cost
    t.setStack j { t.stack j with lastPreempt := amapSet (t.stack j).lastPreempt (pairKey die q) (some false) }

/-- Begin the program of an `fprog` on its pair (R366); its page work is then in progress. -/
def beginProgram (s : State) (j : Fin 16) (c : StackCmd) (die q : Nat) : State :=
  let w := s.stack j
  let c := { c with planes := c.planes.map (fun p =>
    if p.die = die && p.plane / 2 = q && p.step = .waiting then { p with step := .sensed } else p) }
  s.setStack j { setCmd w c with lastPreempt := amapSet w.lastPreempt (pairKey die q) none }

/-- A `frebuild` stops (R360, R367, R407, R410): its relocation is dropped. -/
def stopRebuild (s : State) (j : Fin 16) (cid : Nat) (code : FaultCode) (reason : Nat) : State :=
  let w := s.stack j
  let s := s.setStack j { w with relocs := w.relocs.filter (fun x => x.cause != .rebuild cid) }
  match w.cmds.find? (fun c => c.id = cid) with
  | some c =>
    let d := c.desc
    endCmd s j { c with stop := some (code, 0, stkDetail j.val d.die (d.planes.headD 0 / 2 * 2) d.lp 0 0 reason) } 0
  | none => s

/-- Begin the erase of a block pair (R367, R417): it takes 1,800,000 ticks and counts as 12 plane-senses. -/
def beginErase (s : State) (w : Stack) (pk b : Nat) : Stack :=
  { w with
    used := w.used + 12, erasing := w.erasing ++ [(pk, b)], held := amapSet w.held pk (some (s.stamp + 1800000)) }

/-- The block pairs of a pair whose erase an `ferase` still has to begin or to end. -/
def erasesLeft (c : StackCmd) (pk : Nat) : List Nat :=
  (c.result.filter (fun x => x.toNat / 256 = pk)).map (fun x => x.toNat % 256)

/-- `ferase` unmaps its logical sub-blocks of a pair (R367); the block pairs that no longer hold a mapped sub-block, and
are not being copied into, are to be erased one after another: `result` lists them as block keys. A rebuild of a
sub-block unmapped here finds its page unmapped. -/
def unmapRange (s : State) (j : Fin 16) (c : StackCmd) (die q : Nat) : State × List Nat :=
  let w := s.stack j
  let pk := pairKey die q
  let lsb0 := (bits c.desc.aux 0 13).toNat
  let n := (bits c.desc.aux 16 13).toNat
  let gone (m : Nat × MapEntry) : Bool := m.1 / 8192 = pk && lsb0 ≤ m.1 % 8192 && m.1 % 8192 < lsb0 + n
  let freed := ((w.map.filter gone).map (fun m => m.2.pblk)).eraseDups
  let inRange (r : Reloc) : Bool := r.die = die && r.q = q && lsb0 ≤ r.lsb && r.lsb < lsb0 + n
  let lost := w.relocs.filterMap (fun r => match r.cause with
    | .rebuild cid => if inRange r then some cid else none
    | _ => none)
  let s := lost.foldl (fun s cid => stopRebuild s j cid .segv 1) s
  let w := s.stack j
  let w := { w with
    map := w.map.filter (fun m => !gone m)
    level := w.level.filter (fun m => !(m.1 / 8192 = pk && lsb0 ≤ m.1 % 8192 && m.1 % 8192 < lsb0 + n))
    relocs := w.relocs.filter (fun r => !inRange r) }
  (s.setStack j w, freed.filter (fun b => (mappedIn w pk b).isEmpty && !isRetired w pk b && !isTarget w die q b))

/-- Whether a block pair an `ferase` has listed is still one to erase: in service, opened, with nothing mapped into it or
being copied into it (R367, R411). -/
def stillFreed (w : Stack) (die q b : Nat) : Bool :=
  let pk := pairKey die q
  !isRetired w pk b && isDirty w pk b && (mappedIn w pk b).isEmpty && !isTarget w die q b

/-- `ferase` goes on, on a pair it is granted (R367, R417): it unmaps, then begins the next erase when the allowance has
room for it. -/
def beginFerase (s : State) (j : Fin 16) (c : StackCmd) (die q : Nat) : State :=
  let pk := pairKey die q
  let listed := erasesLeft c pk
  let w := s.stack j
  let c := { c with
    result := c.result.filter (fun x => x.toNat / 256 != pk || stillFreed w die q (x.toNat % 256)) }
  let (s, blks) := if listed.isEmpty then unmapRange s j c die q else (s, erasesLeft c pk)
  let w := s.stack j
  let new := blks.filter (fun b => !(erasesLeft c pk).contains b)
  let now := allowanceFits s w 12
  let step : PlaneStep := if blks.isEmpty then .done else if now then .sensed else .waiting
  let c := { c with
    result := c.result ++ new.map (fun b => BitVec.ofNat 64 (blockKey pk b))
    planes := c.planes.map (fun p => if p.die = die && p.plane / 2 = q && p.step = .waiting then { p with step := step } else p) }
  let w := setCmd w c
  let w := match blks with
    | b :: _ => if now then beginErase s w pk b else w
    | [] => w
  let s := (s.setStack j w).clearPreempt j die q
  if c.planes.all (fun p => p.step = .done) then endCmd s j c (s.stamp + 300) else s

/-- R368 to R370: a free plane pair of stack j takes the next waiting command, unless Badger goes first (R415). -/
def execPairArbitration (j : Fin 16) (die : Fin 8) (q : Fin 64) (s : State) : Out :=
  .next (
    let w := s.stack j
    if !pairFree s w die.val q.val || !dutyAllows s w die.val q.val || badgerGoes s w die.val q.val || plStalled s j
      || s.svc.parked then s
    else
      match askFirst s w die.val q.val with
      | some (c, cost) => beginAsk s j c die.val q.val cost
      | none =>
        match arbiterPick s w die.val q.val with
        | none => s
        | some c =>
          match c.i with
          | .fprog _ _ => beginProgram s j c die.val q.val
          | .ferase _ _ => beginFerase s j c die.val q.val
          | _ => beginSense s j c die.val q.val)

/-- A page whose read has ended by tick t: the next read of a soft-decision sense begins, or the page is sensed (R351,
R404). -/
def readOver (t : Nat) (p : PlaneWork) : PlaneWork :=
  if t < p.due then p
  else
    match p.step with
    | .softRead n => { p with step := if n < 3 then .softRead (n + 1) else .sensing, due := p.due + 8400 }
    | .sensing => { p with step := .sensed }
    | _ => p

/-- A page of a soft-decision sense on a pair whose next read begins by tick t. -/
def nextRead (w : Stack) (die q t : Nat) : Option (StackCmd × PlaneWork) :=
  w.cmds.findSome? (fun c => ((c.onPair die q).find? (fun p => p.due ≤ t && (match p.step with
    | .softRead _ => true
    | _ => false))).map (fun p => (c, p)))

/-- R351: the sense of a pair of stack j completes, and decode begins; of a soft-decision sense, the next read begins, and
disturbs the sub-block pair in its turn (R403, R404). -/
def execSenseComplete (j : Fin 16) (die : Fin 8) (q : Fin 64) (s : State) : Out :=
  .next (
    let w := s.stack j
    let upd (p : PlaneWork) : PlaneWork := if p.die = die.val && p.plane / 2 = q.val then readOver s.stamp p else p
    let t := s.setStack j { w with cmds := w.cmds.map (fun c => match c.i with
      | .fprog _ _ | .ferase _ _ => c
      | _ => { c with planes := c.planes.map upd }) }
    match nextRead w die.val q.val s.stamp with
    | some (c, p) => disturbRead t j c die.val q.val p.lp p.ppage
    | none => t)

/-! ## Decode and re-reads (R352 to R355, R404, R405) -/

/-- The result of decoding codewords: the page so far, failed codewords, the bits corrected of each, and how many had
a nonzero syndrome. -/
structure Decoded where
  page : BitVec 73728
  failed : BitVec 8
  fixed : List Nat
  dirty : Nat
  deriving DecidableEq, Repr

/-- Decode the codewords of a list from a raw read into a page. -/
def decodeCws (raw : BitVec 73728) : List Nat → Decoded → Decoded
  | [], d => d
  | k :: r, d =>
    let lo := 8192 * k
    let put (v : BitVec 73728) : BitVec 73728 :=
      let m : BitVec 73728 := ((1#73728 <<< 8192) - 1) <<< lo
      (d.page &&& ~~~m) ||| (v &&& m)
    let tail := d.fixed.drop (k + 1)
    match cwErrors raw k with
    | some [] =>
      decodeCws raw r { d with
        page := put raw, failed := d.failed &&& ~~~(1#8 <<< k), fixed := d.fixed.take k ++ [0] ++ tail }
    | some l =>
      decodeCws raw r
        { page := put (flipBits raw (l.map (cwBit k))), failed := d.failed &&& ~~~(1#8 <<< k)
          fixed := d.fixed.take k ++ [l.length] ++ tail, dirty := d.dirty + 1 }
    | none => decodeCws raw r { d with failed := d.failed ||| (1#8 <<< k), dirty := d.dirty + 1 }

/-- Log and count the codewords of a list that were corrected, as KIND 1, or recovered by a re-read, as KIND 2, by a
decode that ends on tick `at_` (R352, R354, R356). -/
def logCorrected (j : Fin 16) (p : PlaneWork) (ctx : Word) (kind rrd at_ : Nat) (d : Decoded) : List Nat → State → State
  | [], s => s
  | k :: r, s =>
    let n := d.fixed.getD k 0
    if (n = 0 && kind != 2) || bit d.failed k then logCorrected j p ctx kind rrd at_ d r s
    else
      let w := s.stack j
      let s := s.setStack j { w with corr := w.corr + n, rrec := if kind = 2 then w.rrec + 1 else w.rrec }
      logCorrected j p ctx kind rrd at_ d r (logFlash s j p.lp p.plane p.die p.ppage k kind n rrd ctx at_)

/-- Log and count uncorrectable codewords (R355, R356). -/
def logFailed (j : Fin 16) (p : PlaneWork) (ctx : Word) (rrd at_ : Nat) : List Nat → State → State
  | [], s => s
  | k :: r, s =>
    let w := s.stack j
    let s := s.setStack j { w with unc := w.unc + 1 }
    logFailed j p ctx rrd at_ r (logFlash s j p.lp p.plane p.die p.ppage k 3 0 rrd ctx at_)

def bitsSet (v : BitVec 8) : List Nat := (List.range 8).filter (fun k => bit v k)

/-- A decode of a mapped page with 48 corrected bits or more, or by a re-read, queues a refresh at SOFT (R405). -/
def softRefresh (s : State) (j : Fin 16) (c : StackCmd) (p : PlaneWork) (n : Bool) : State :=
  if n && c.place.isNone then s.setStack j (queueReloc (s.stack j) p.die (p.plane / 2) (p.lp / 48) .soft s.stamp) else s

/-- Replace a command's work on one page. -/
def setPage (s : State) (j : Fin 16) (cid : Nat) (p : PlaneWork) : State :=
  let w := s.stack j
  s.setStack j { w with cmds := w.cmds.map (fun c =>
    if c.id = cid then
      { c with planes := c.planes.map (fun x => if x.die = p.die && x.plane = p.plane && x.lp = p.lp then p else x) }
    else c) }

/-- The KIND a command wants of its pages, if it wants one (R353, R358). -/
def wantedKind (i : Instr) : Option Nat :=
  match i with
  | .fsa _ _ | .fsav _ _ => some 0
  | .fscal _ _ => some 2
  | _ => none

/-- A page whose tag, itself right, shows another kind stops the job, once its other pages are sensed (R353, R358). -/
def checkKind (s : State) (j : Fin 16) (cid : Nat) (p : PlaneWork) : State :=
  let w := s.stack j
  s.setStack j { w with cmds := w.cmds.map (fun c =>
    if c.id = cid && c.stop.isNone && (match wantedKind c.i with
      | some k => p.kind != k
      | none => false)
    then { c with stop := some (.segv, 0, stkDetail j.val p.die p.plane p.lp 0 0 2) } else c) }

/-- The command and page of a plane in a step. -/
def findPage (w : Stack) (die pl : Nat) (g : PlaneStep → Bool) : Option (StackCmd × PlaneWork) :=
  w.cmds.findSome? (fun c => match c.i with
    | .fprog _ _ | .ferase _ _ => none
    | _ => (c.planes.find? (fun p => p.die = die && p.plane = pl && g p.step)).map (fun p => (c, p)))

/-- The page as the sense returns it: stored, with the errors of this read and those injected (R475). -/
def rawRead (s : State) (j : Fin 16) (p : PlaneWork) (errs : List Nat) : State × Option FlashPage × BitVec 73728 :=
  let (s, inj) := injectFlash s j p.die p.plane p.lp
  let g := amapGet (s.stack j).pages (pageKey p.die p.plane p.ppage)
  let raw := match g with
    | some g => g.raw
    | none => 0
  (s, g, flipBits raw (errs ++ inj))

/-- A sense by which Badger pre-empted, but for those of a relocation's step, is over when nothing of it holds the pair
(R415). -/
def askOver (s : State) (j : Fin 16) (cid die q : Nat) : State :=
  let w := s.stack j
  let ofStep := w.relocs.any (fun r => r.step = .reading cid || r.step = .verifying cid)
  match w.cmds.find? (fun c => c.id = cid) with
  | some c =>
    if c.owner = .badger && !ofStep && !(c.onPair die q).any (fun p => p.step.holdsPair) then s.setStack j (stepOver w die q)
    else s
  | none => s

/-- End a page: decoded, with its uncorrectable codewords. -/
def endPage (s : State) (j : Fin 16) (c : StackCmd) (p : PlaneWork) (due : Nat) : State :=
  let p := { p with step := .decoded, due := due }
  let s := askOver (setPage s j c.id p) j c.id p.die (p.plane / 2)
  if p.bad != 0 then retireMended s j p.die p.plane p.ppage else s

/-- End a page whose tag is right: its kind is that of the page (R352, R353). -/
def finishPage (s : State) (j : Fin 16) (c : StackCmd) (p : PlaneWork) (due : Nat) : State :=
  checkKind (endPage s j c p due) j c.id p

/-- R352: the decode of a page of stack j, which begins when its sense ends; what it logs carries the tick it ends on.
`errs` are the bits this sense read wrong. Where codewords fail, the first re-read is due when the decode has ended
(R354), unless the sense was a soft-decision decode. -/
def execPageDecode (j : Fin 16) (die : Fin 8) (pl : Fin 128) (errs : List Nat) (s : State) : Out :=
  .next (match findPage (s.stack j) die.val pl.val (fun x => x = .sensed) with
    | none => s
    | some (c, p) =>
      if plStalled s j then s
      else
        let (s, g, raw) := rawRead s j p errs
        let (t, crcOk) := tagOf raw
        let same := match g with
          | some g => crcOk && t.lp = p.lp && t.ext = g.ext && t.kind = g.kind
          | none => false
        let p := { p with kind := t.kind }
        let base := afterStall s j p.due + (if p.soft then 2400 else 1152)
        if !same then
          let w := s.stack j
          let s := s.setStack j { w with unc := w.unc + 8 }
          let s := logFlash s j p.lp p.plane p.die p.ppage 0 4 0 0 c.ctx base
          endPage s j c { p with bad := 0xFF, page := raw } base
        else
          let d := decodeCws raw (List.range 8) ⟨raw, 0, List.replicate 8 0, 0⟩
          let due := base + 600 * d.dirty
          let s := logCorrected j p c.ctx 1 (if p.soft then 3 else 0) due d (List.range 8) s
          let s := softRefresh s j c p (d.fixed.any (fun n => 48 ≤ n))
          let p := { p with page := d.page, bad := d.failed, corrected := d.fixed }
          if d.failed = 0 then finishPage s j c p due
          else if p.soft then finishPage (logFailed j p c.ctx 3 due (bitsSet d.failed) s) j c p due
          else setPage s j c.id { p with step := .reread 1, due := due })

/-- A re-read of Badger's counts against the budget when its step pre-empts (R415, R416). -/
def chargeReread (s : State) (j : Fin 16) (c : StackCmd) (die q : Nat) : State :=
  if c.owner = .badger && (amapGet (s.stack j).lastPreempt (pairKey die q)).isSome then chargeBudget s j die 8400 else s

/-- Whether re-read of a page may begin: it is due, the stack is not tripped, its clocks run, the pair is outside its idle
slots, and the allowance has room for one plane-sense (R371 to R373). -/
def rereadDue (s : State) (j : Fin 16) (p : PlaneWork) : Bool :=
  let w := s.stack j
  p.due ≤ s.stamp && w.mode = .ready && !plStalled s j && dutyAllows s w p.die (p.plane / 2) && allowanceFits s w 1

/-- R354: a re-read of a page of stack j begins: the page is sensed with the next retry offsets, and its failed codewords
are decoded again, which ends 8,400 ticks and the decode's own later. -/
def execSoftReread (j : Fin 16) (die : Fin 8) (pl : Fin 128) (errs : List Nat) (s : State) : Out :=
  .next (match findPage (s.stack j) die.val pl.val (fun x => match x with
      | .reread _ => true
      | _ => false) with
    | none => s
    | some (c, p) =>
      if !rereadDue s j p then s
      else
        match p.step with
        | .reread n =>
          let q := p.plane / 2
          let s := chargeReread (beginReads s j c p.die q p.lp p.ppage 1 1) j c p.die q
          let w := s.stack j
          let s := s.setStack j { w with held := amapSet w.held (pairKey p.die q) (some (s.stamp + 8400)) }
          let (s, _, raw) := rawRead s j p errs
          let todo := bitsSet p.bad
          let d := decodeCws raw todo ⟨p.page, p.bad, p.corrected, 0⟩
          let due := s.stamp + 9552 + 600 * d.dirty
          let won := todo.filter (fun k => !bit d.failed k)
          let clean : Decoded := { d with failed := 0 }
          let s := logCorrected j p c.ctx 2 n due clean won s
          let s := softRefresh s j c p (!won.isEmpty)
          let p := { p with
            page := d.page, bad := d.failed, corrected := d.fixed
            recovered := won.foldl (fun v k => v ||| (1#8 <<< k)) p.recovered }
          if d.failed = 0 then finishPage s j c p due
          else if n < 3 then setPage s j c.id { p with step := .reread (n + 1), due := due }
          else finishPage (logFailed j p c.ctx 3 due (bitsSet d.failed) s) j c p due
        | _ => s)

/-! ## Multiplication and reduction (R334, R346, R351) -/

/-- R334, R351: the sense-accumulate unit of a pair of stack j works the next decoded page of its pair, the lower
plane first, once the unit is free of the page before, whosever it was. -/
def execMacPass (j : Fin 16) (die : Fin 8) (q : Fin 64) (s : State) : Out :=
  .next (
    if plStalled s j then s else
    let w := s.stack j
    let pk := pairKey die.val q.val
    let free := (amapGet w.sau pk).getD 0
    let ready (c : StackCmd) : Option PlaneWork :=
      if !c.computes || c.isOver then none
      else
        match (c.onPair die.val q.val).find? (fun p => p.step != .done) with
        | some p => if p.step = .decoded && p.due ≤ s.stamp && free ≤ s.stamp then some p else none
        | none => none
    match oldestCmd (w.cmds.filter (fun c => (ready c).isSome)) with
    | none => s
    | some c =>
      match ready c with
      | none => s
      | some p =>
        let done := afterStall s j (Nat.max p.due free) + 256 * (c.ownVecs + c.attached.length)
        let s := setPage s j c.id { p with step := .done, due := done }
        s.setStack j { s.stack j with sau := amapSet (s.stack j).sau pk (some done) })

/-- The pages of group gi of a command, ascending. -/
def groupPages (c : StackCmd) (gi : Nat) : List PlaneWork := (c.planes.drop (gi * c.desc.gsize)).take c.desc.gsize

/-- AOFF − ABASE of a part: where in its record's vector its activations begin (R387, R391). -/
def partBase (s : State) (p : PartRef) : Nat :=
  match s.bf.recs.find? (fun r => r.id = p.rec_) with
  | none => 0
  | some r =>
    match r.layers.find? (fun x => x.layer = p.layer) with
    | none => 0
    | some x =>
      match (if p.isV then x.vs else x.ks)[p.idx]? with
      | some y => (sDesc y.dw).aoff - x.abase
      | none => 0

/-- The vectors of a command: its own, then those attached (R391): source and first offset. -/
def cmdVectors (s : State) (w : Stack) (c : StackCmd) : List (ActSource × Nat) :=
  let d := c.desc
  (List.range c.ownVecs).map (fun v => (actSource w, d.aoff + v * d.astr * 512)) ++
  c.attached.map (fun p => (slotSource (vectorSlot w p.rec_), partBase s p))

/-- The reads of a reduction meet the armed injection slots on the stores of the page-logic die (R475, ARR 4 to 6). -/
def probeStores (s : State) (j : Fin 16) (c : StackCmd) (ps : List PlaneWork) : State :=
  let d := c.desc
  let s := (List.range c.ownVecs).foldl (fun s v =>
    probePL s j 4 (d.aoff + v * d.astr * 512) d.vecLen c.ctx (fun s o m =>
      s.setStack j { s.stack j with actPoison := amapSet (s.stack j).actPoison (o / 8) (some m) })) s
  let s := if d.omode != 2 then s
    else ps.foldl (fun s p =>
      probePL s j 5 (scaleByte (s.stack j) d p.plane 0 0) 512 c.ctx (fun s o m =>
        s.setStack j { s.stack j with scaleBad := amapSet (s.stack j).scaleBad (o / 8) (some m) })) s
  (List.finRange 16).foldl (fun s i =>
    match (s.stack j).bfBuf.get i with
    | none => s
    | some b =>
      if !c.attached.any (fun p => p.rec_ = b.rec_) then s
      else
        probePL s j 6 (8192 * i.val) 8192 c.ctx (fun s o m =>
          let b := { b with bad := amapSet b.bad (o % 8192 / 8) (some m) }
          s.setStack j { s.stack j with bfBuf := (s.stack j).bfBuf.set i.val (some b) i.isLt })) s

/-- R346, R351: 32 ticks after its last multiplication, group gi of a command of stack j is reduced. A job whose
activations or scales another has taken over stops with SEGV, reason 4 or 3, in place of computing with them (R338;
log entry 73). -/
def execGroupReduction (j : Fin 16) (cid gi : Nat) (s : State) : Out :=
  .next (
    let w := s.stack j
    match w.cmds.find? (fun c => c.id = cid) with
    | none => s
    | some c =>
      let ps := groupPages c gi
      let last := afterStall s j (ps.foldl (fun m p => Nat.max m p.due) 0)
      if plStalled s j || !c.computes || c.isOver || c.stop.isSome || c.desc.ng ≤ gi || c.groups.contains gi
        || !ps.all (fun p => p.step = .done) || s.stamp < last + 32 then s
      else
        match computeBar w c with
        | some (p, r) => s.setCmdAt j { c with stop := some (.segv, 0, stkDetail j.val p.die p.plane p.lp 0 0 r) }
        | none =>
        let s := probeStores s j c ps
        let w := s.stack j
        let l := groupOutputs w c.desc gi ps (cmdVectors s w c)
        s.setCmdAt j { c with
          out := l.foldl (fun m x => if x.2.1 = 0 then m else amapSet m x.1 (some x.2.1)) c.out
          outBad := l.foldl (fun m x => match x.2.2.1 with
            | some k => amapSet m x.1 (some k)
            | none => m) c.outBad
          sram := c.sram || l.any (fun x => x.2.2.2 && x.1 < c.ownVecs * c.desc.ng * c.desc.nr)
          groups := c.groups ++ [gi]
          due := Nat.max c.due (last + 32) })

/-! ## Output (R347, R349, R358, R359) -/

/-- The bytes of output elements with their poison. -/
def elemBytesOf (l : List (BitVec 32 × Option Mark)) : List Carried :=
  l.flatMap (fun x => (toBytes 4 x.1.toNat).map (fun b => (b, x.2)))

/-- One combine of OACC = 1 at its home (R347): affected elements keep the old value, in a poisoned sector. -/
def accElem (w : Who) (omode : Nat) (a : Nat) (x : BitVec 32 × Option Mark) (s : State) :
    State × Option (FaultCode × Nat) :=
  match engineTarget s w a 4 false true with
  | .error e => (s, some e)
  | .ok (s, t) =>
    let s := s.probe t.key 4 w.ctx
    match x.2 with
    | some m => (s.setPoison t.key (some m), none)
    | none =>
      let old := BitVec.ofNat 32 (s.natAt t.key 4)
      let v : BitVec 32 :=
        if omode = 0 then old + x.1
        else if omode = 1 then word32 (clamp32 (old.toInt + x.1.toInt))
        else BitVec.ofNat 32 (add32 old.toNat x.1.toNat)
      (s.store t.key (toBytes 4 v.toNat), none)

/-- Combine elements in ascending order. -/
def accElems (w : Who) (omode : Nat) : Nat → List (BitVec 32 × Option Mark) → State → State × Option (FaultCode × Nat)
  | _, [], s => (s, none)
  | a, x :: r, s =>
    match accElem w omode a x s with
    | (s, some e) => (s, some e)
    | (s, none) => accElems w omode (a + 4) r s

/-- Write packed bytes to a ring, poison with them (R347, R355). -/
def ringWriteMarked : List (Nat × Nat) → List Carried → State → State
  | [], _, s => s
  | (a, m) :: r, bs, s =>
    let part := bs.take m
    let s := s.store (onKey a) (part.map Prod.fst)
    let s := match part.findSome? Prod.snd with
      | some k => s.setPoison (onKey a) (some k)
      | none => s
    ringWriteMarked r (bs.drop m) s

/-- A contiguous range as runs inside sectors. -/
def rangeRuns (a n : Nat) : List (Int × Nat) := (parts a n).map (fun p => ((p.1 : Int), p.2))

/-- The poison-map bytes of a list of elements' poison (R349). -/
def bitmapBytes (l : List Bool) : List Byte :=
  let n := pmapBytes l.length
  (List.range n).map (fun i => (List.range 8).foldl (fun v b => if l.getD (8 * i + b) false then v ||| (1#8 <<< b) else v) 0)

/-- The output elements of a job's command with their poison. -/
def outElems (c : StackCmd) : List (BitVec 32 × Option Mark) :=
  (List.range (c.ownVecs * c.desc.ng * c.desc.nr)).map (fun i => ((amapGet c.out i).getD 0, amapGet c.outBad i))

/-- Write one stack's outputs of a job (R347): to D, or to the ring of channel A. -/
def writeOutputs (s : State) (k : Fin 16) (loc : Loc) (b : Bank) (jb : Job) (j : Fin 16) (c : StackCmd) :
    State × Option (FaultCode × Nat) :=
  let d := c.desc
  let els := outElems c
  let first := stackRank d.smask j * els.length
  let f := entryLay jb.e
  let w := s.whoOf b.slot k true
  if f.ka then
    match s.chanHome k b loc (ix16 f.a) with
    | none => (s, some (.segv, (getChan b f.a).base))
    | some (_, _, ch) =>
      (ringWriteMarked (ringParts ch ch.head (4 * els.length + 1) (4 * first) (4 * els.length)) (elemBytesOf els) s, none)
  else if d.oacc then accElems w d.omode (jb.e.xa.toNat + 4 * first) els s
  else writeRuns w (rangeRuns (jb.e.xa.toNat + 4 * first) (4 * els.length)) (elemBytesOf els) s

/-- Write the poison map of a job (R349). -/
def writePmap (s : State) (w : Who) (pmap : Nat) (l : List Bool) : State × Option (FaultCode × Nat) :=
  if pmap = 0 then (s, none) else engineWrite s w pmap (bitmapBytes l) []

/-- The advance of a channel destination after its last write, or the base of a channel that refuses it (R19, R347). -/
def advanceOut (s : State) (k : Fin 16) (loc : Loc) (jb : Job) : Except Nat State :=
  let h := (headOf jb.e.i).getD ⟨0, 0, 0⟩
  let f := entryLay jb.e
  if f.ka && schAA h then jobAdvance s k loc (ix16 f.a) true (schWA h) else .ok s

/-- A command stops on an access of its outputs; DETAIL names its page, or its stack alone where it has none (R375). -/
def stopOutput (s : State) (j : Fin 16) (c : StackCmd) (code : FaultCode) (addr : Nat) : State :=
  let p := c.planes.headD ⟨0, 0, 0, .waiting, 0, 0, 0, 0, 0, 0, [], false⟩
  let detail := match c.i with
    | .bdgq _ _ => 0
    | _ => stkDetail j.val p.die p.plane p.lp 0 0 0
  endCmd s j { c with stop := some (code, addr, detail) } 0

/-- Output of an `fsa` or `fsav` in stack j: its elements, and with the last stack the poison map and the advance. -/
def outputSense (s : State) (j : Fin 16) (c : StackCmd) (k : Fin 16) (seq : BitVec 16) : State :=
  match s.findJob k seq with
  | none => s
  | some (loc, jb) =>
    match s.locBank k loc with
    | none => s
    | some b =>
      let s := deliverParts s j c
      let bytes := 4 * (outElems c).length
      match writeOutputs s k loc b jb j c with
      | (s, some (code, a)) => stopOutput s j c code a
      | (s, none) =>
        let rest := (jobCmds s k seq).filter (fun x => !(x.1 = j) && !x.2.isOver)
        if !rest.isEmpty then endCmd s j c (c.due + packetTicks bytes)
        else
          let all := (jobCmds s k seq).flatMap (fun x => (outElems x.2).map (fun e => e.2.isSome))
          match writePmap s (s.whoOf b.slot k true) c.desc.pmap all with
          | (s, some (code, a)) => stopOutput s j c code a
          | (s, none) =>
            let m := if c.desc.pmap = 0 then 0 else pmapBytes all.length
            match advanceOut s k loc jb with
            | .error a => stopOutput s j c .segv a
            | .ok s => endCmd s j c (c.due + packetTicks (bytes + m))

/-- Status byte of codeword k of a page (R359). -/
def senseStatus (p : PlaneWork) (k : Nat) : Byte :=
  if bit p.bad k then 0xFF else if bit p.recovered k then 0xFE else BitVec.ofNat 8 (p.corrected.getD k 0)

/-- Output of `fsense` (R359). -/
def outputFsense (s : State) (j : Fin 16) (c : StackCmd) (k : Fin 16) (seq : BitVec 16) : State :=
  match s.findJob k seq with
  | none => s
  | some (loc, jb) =>
    let slot := (s.locBank k loc).bind Bank.slot
    let w := s.whoOf slot k true
    let pageOut (p : PlaneWork) : List Carried :=
      (List.range 8).flatMap (fun i =>
        if bit p.bad i then List.replicate 1024 (0, some Mark.due)
        else (toBytes 1024 (cwData p.page i)).map (fun b => (b, none)))
    let status : List Carried :=
      (c.planes.flatMap (fun p => (List.range 8).map (fun i => (senseStatus p i, (none : Option Mark)))))
        ++ List.replicate 16 (0, none)
    let bad := c.planes.flatMap (fun p => (List.range 8).map (fun i => bit p.bad i))
    let c := { c with outBad := if bad.any id then [(0, Mark.due)] else [] }
    let due := (c.planes.foldl (fun m p => Nat.max m p.due) 0)
    let a := jb.e.xa.toNat
    match writeRuns w (rangeRuns a 16416) (c.planes.flatMap pageOut ++ status) s with
    | (s, some (code, x)) => stopOutput s j c code x
    | (s, none) =>
      match writePmap s w c.desc.pmap bad with
      | (s, some (code, x)) => stopOutput s j c code x
      | (s, none) => endCmd s j c (due + packetTicks (16416 + (if c.desc.pmap = 0 then 0 else 32)))

/-- `fscal` replaces the scale buffers of its planes (R358). -/
def loadScales (w : Stack) (c : StackCmd) : Stack :=
  c.planes.foldl (fun w p =>
    let g := 128 * p.die + p.plane
    let words := amapClear w.scaleBad (1024 * g) (1024 * (g + 1))
    { w with
      scale := memWrite w.scale (8192 * g) (pageBytes p.page)
      scaleOwner := amapSet w.scaleOwner g (some c.ctx)
      scaleLpb := amapSet w.scaleLpb g (some (bits c.desc.aux 0 18).toNat)
      scaleBad := (bitsSet p.bad).foldl (fun m k =>
        (List.range 128).foldl (fun m i => amapSet m (1024 * g + 128 * k + i) (some Mark.due)) m) words }) w

/-- Whether some command of a job has stopped. -/
def jobStopped (s : State) (k : Fin 16) (seq : BitVec 16) : Bool := (jobCmds s k seq).any (fun x => x.2.stop.isSome)

/-- Write a record of doublewords at an address and end the command (R362, R363, R420); a job that has stopped writes
nothing more (R375). -/
def outputRecord (s : State) (j : Fin 16) (c : StackCmd) (k : Fin 16) (seq : BitVec 16) (off : Nat) : State :=
  if jobStopped s k seq then endCmd s j c 0 else
  match s.findJob k seq with
  | none => s
  | some (loc, jb) =>
    let slot := (s.locBank k loc).bind Bank.slot
    match engineWrite s (s.whoOf slot k true) (jb.e.xa.toNat + off) (unpackWords c.result) [] with
    | (s, some (code, x)) => stopOutput s j c code x
    | (s, none) => endCmd s j c (c.arrive + packetTicks (8 * c.result.length))

/-- Pages rebuilt by the XOR of a stripe's other members, or none when one of them is uncorrectable (R360). -/
def rebuiltPages (w : Stack) (c : StackCmd) : Option (List CopiedPage) :=
  let d := c.desc
  if c.planes.any (fun p => p.bad != 0) then none
  else
    let q := d.planes.headD 0 / 2
    some ((List.range 2).filterMap (fun b =>
      if !bit d.aux b then none
      else
        let data := (c.planes.filter (fun p => p.plane = 2 * q + b)).foldl (fun v p => v ^^^ pageData p.page) 0
        let old := ((storedPage w d.die (2 * q + b) d.lp).map Prod.snd).getD ⟨0, 0, 0, false, false⟩
        let raw := makePage data ⟨old.ext, d.lp, old.kind, old.isSealed, 0⟩
        some ⟨d.lp % 48, b, { old with raw := raw, mended := true }⟩))

/-- The stripe of a `frebuild` has been sensed (R360): its rebuilt pages go to Badger, or the job stops. -/
def outputRebuild (s : State) (j : Fin 16) (c : StackCmd) : State :=
  let d := c.desc
  let q := d.planes.headD 0 / 2
  let w := s.stack j
  match rebuiltPages w c with
  | none => endCmd s j { c with stop := some (.stkf, 0, stkDetail j.val d.die (2 * q) d.lp 0 0 4) } 0
  | some l =>
    if (allocSb w (pairKey d.die q)).isNone then
      endCmd (owlBadger s j 3 (pairKey d.die q) (d.lp / 48)) j { c with stop := some (.stkf, 0, stkDetail j.val d.die (2 * q) d.lp 0 0 5) } 0
    else
      let c := { c with planes := c.planes.map (fun p => { p with step := .done }) }
      let r : Reloc := { newReloc d.die q (d.lp / 48) (.rebuild c.id) s.stamp with rebuilt := l }
      s.setStack j { setCmd w c with relocs := w.relocs ++ [r] }

/-- Every page of a command has been decoded or used. -/
def StackCmd.decodedAll (c : StackCmd) : Bool := c.planes.all (fun p => p.step = .decoded || p.step = .done)

/-- Every page of a command has been decoded, and the decodes have ended by tick t (R351). -/
def StackCmd.decodedBy (c : StackCmd) (t : Nat) : Bool := c.decodedAll && c.planes.all (fun p => p.due ≤ t)

/-- Whether an output may be written now: every page of the job's other commands is decoded and none of the job's
commands has stopped, and the lower stacks' outputs are out (R347, R353). -/
def outputTurn (s : State) (j : Fin 16) (k : Fin 16) (seq : BitVec 16) : Bool :=
  (jobCmds s k seq).all (fun x => x.2.stop.isNone && (x.2.isOver || (x.2.decodedAll && x.2.arrived)) &&
    (x.2.isOver || j.val ≤ x.1.val))

/-- Earlier commands of the same context in a stack that are not over; those that are over tell the `fsync` when they
complete (R364). -/
def earlierOf (w : Stack) (c : StackCmd) : Bool :=
  w.cmds.any (fun x => x.id != c.id && x.ctx = c.ctx && x.arrived && !x.isOver && x.older c)

/-- Whether nothing of a command is being sensed, read again or decoded. -/
def StackCmd.atRest (c : StackCmd) : Bool :=
  c.planes.all (fun p => p.step = .waiting || p.step = .decoded || p.step = .done)

/-- The regions of a core's job, and the rings of its channels. -/
def jobRegions (s : State) (k : Fin 16) (seq : BitVec 16) : List Region :=
  match s.findJob k seq with
  | some (loc, j) => j.reads ++ j.writes ++ ((s.locBank k loc).map (fun b => ringRegions s k b loc j.e.i)).getD []
  | none => []

/-- A command of stack j sends its outputs, when it can (R347, R349, R358, R359, R362 to R364, R420). One of Badger's whose
result it no longer wants is dropped. -/
def sendOutput (j : Fin 16) (cid : Nat) (s : State) : State :=
  let w := s.stack j
  match w.cmds.find? (fun c => c.id = cid) with
  | none => s
  | some c =>
    if !c.arrived || c.isOver || plStalled s j then s
    else
      match c.owner with
      | .badger => if c.atRest && !badgerWants w c.id then endCmd s j c 0 else s
      | .standalone =>
        if c.stop.isSome then (if c.decodedBy s.stamp then endCmd (settleParts s c true) j c 0 else s)
        else if c.groups.length = c.desc.ng && c.due ≤ s.stamp then endCmd (deliverParts s j c) j c 0 else s
      | .job k _ seq => whenOpen s (jobRegions s k seq) (fun s =>
        match c.i with
        | .fsa _ _ | .fsav _ _ =>
          if jobStopped s k seq then
            (if c.stop.isSome then (if c.decodedBy s.stamp then endCmd (settleParts s c true) j c 0 else s)
             else if c.groups.length = c.desc.ng then endCmd (deliverParts s j c) j c 0 else s)
          else if c.groups.length = c.desc.ng && c.due ≤ s.stamp && outputTurn s j k seq then outputSense s j c k seq
          else s
        | .fsense _ _ => if c.decodedBy s.stamp then outputFsense s j c k seq else s
        | .fscal _ _ =>
          if !c.decodedBy s.stamp then s
          else if jobStopped s k seq then endCmd s j c 0
          else if outputTurn s j k seq then
            endCmd (s.setStack j (loadScales w c)) j c (c.planes.foldl (fun m p => Nat.max m p.due) 0 + 300)
          else s
        | .frebuild _ _ => if c.planes.all (fun p => p.step = .decoded && p.due ≤ s.stamp) then outputRebuild s j c else s
        | .fmap _ _ => outputRecord s j c k seq 0
        | .fstat _ _ | .bdgq _ _ =>
          outputRecord s j c k seq (64 * stackRank ((c.dw.headD 0).toNat % 65536) j)
        | .fsync _ _ =>
          if earlierOf w c || s.stamp < c.due then s else endCmd (s.setStack j (padWordLines w)) j c (Nat.max c.arrive s.stamp + 300)
        | _ => s)

/-! ## Failures of a stack (R372, R374) -/

/-- A stack is marked failed (R374): a fatal event (R474); jobs that wait on it complete with STKF, but for `bdgq`, whose
only job fault is MMX (R419). -/
def failStack (s : State) (j : Fin 16) (r : Nat) : State :=
  let w := s.stack j
  if (failedReason w).isSome then s
  else
    let s := dumpOwl (owlBadger (s.setStack j { w with mode := .failed r }) j 6 0 r)
    (w.cmds.filter (fun c => !c.isOver && (match c.i with
      | .bdgq _ _ => false
      | _ => true))).foldl (fun s c =>
      match (s.stack j).cmds.find? (fun x => x.id = c.id) with
      | none => s
      | some c => stopCmd s j c .stkf 0 (stkDetail j.val 0 0 0 0 0 r)) s

/-- A transmission of stack j's present flit has failed; the sixteenth replay that does fails the stack (R374).
`linkFails` counts the failed transmissions, the first and its replays. -/
def flitFailed (s : State) (j : Fin 16) (n : Nat) : State :=
  let s := s.setStack j { s.stack j with linkFails := n }
  if 17 ≤ n then failStack s j 1 else s

/-- The link of stack j carries a packet, in either direction: an injected CRC error uses the transmission up, and the
link replays it (R374, R475); else `f` is what follows. -/
def overLink (s : State) (j : Fin 16) (f : State → State) : State :=
  match armedSlots s 7 (fun x => (bits x.target 0 4).toNat = j.val) with
  | (i, _) :: _ => flitFailed (useInjection s i) j ((s.stack j).linkFails + 1)
  | [] => f (s.setStack j { s.stack j with linkFails := 0 })

/-- R368, R374: the next packet reaches stack j's sequencer; an injected CRC error makes the link replay it first. -/
def execStackCommandArrival (j : Fin 16) (s : State) : Out :=
  .next (
    let w := s.stack j
    if plStalled s j then s else
    match oldestCmd (w.cmds.filter (fun c => !c.arrived && !c.isOver && c.arrive ≤ s.stamp)) with
    | none => s
    | some c => overLink s j (fun s => arriveCmd s j c))

/-- R347, R349, R358, R359, R362 to R364, R420: a command of stack j sends its outputs, over the link unless it is one of
Badger's own. -/
def execStackOutput (j : Fin 16) (cid : Nat) (s : State) : Out :=
  .next (
    let t := sendOutput j cid s
    let open_ (u : State) : Bool := (u.stack j).cmds.any (fun c => c.id = cid && !c.isOver && c.owner != .badger)
    if open_ s && !open_ t then overLink s j (sendOutput j cid) else t)

/-- R374: a flit of stack j's link that failed its CRC is replayed, well or not. -/
def execFlitReplay (j : Fin 16) (ok : Bool) (s : State) : Out :=
  .next (
    let w := s.stack j
    if ok then s.setStack j { w with linkFails := 0 } else flitFailed s j (Nat.max 1 w.linkFails + 1))

/-- R374: the link of stack j has stayed down for 1 ms, or failed sixteen replays. -/
def execStackLinkFailure (j : Fin 16) (s : State) : Out := .next (failStack s j 1)

/-- R374: a die of stack j has stopped answering. -/
def execDieNotResponding (j : Fin 16) (_die : Fin 8) (s : State) : Out := .next (failStack s j 3)

/-! ## Thermal control of a stack (R371, R372) -/

/-- R372: a die of stack j has reached 115 °C: the stack begins no operation. -/
def execStackTrip (j : Fin 16) (s : State) : Out :=
  .next (
    let w := s.stack j
    if w.mode = .ready && 115 ≤ w.temp then
      logPowerOpen (s.setStack j { w with mode := .tripped s.stamp }) 7 (20 + j.val) 0
    else s)

/-- R372: at 100 °C or below stack j resumes. -/
def execStackTripClear (j : Fin 16) (s : State) : Out :=
  .next (
    let w := s.stack j
    match w.mode with
    | .tripped _ => if w.temp ≤ 100 then s.setStack j { w with mode := .ready } else s
    | _ => s)

/-- R372: a trip of stack j that has lasted 10 s marks it failed. -/
def execStackTripPersisted (j : Fin 16) (s : State) : Out :=
  .next (match (s.stack j).mode with
    | .tripped t => if t + 6000000000 ≤ s.stamp then failStack s j 2 else s
    | _ => s)

/-- R371: above 85 °C the pairs of stack j insert idle slots. -/
def execDutyCyclingStart (j : Fin 16) (s : State) : Out :=
  .next (let w := s.stack j; if 85 < w.temp then s.setStack j { w with cycling := true } else s)

/-- R371: at 83 °C or below duty cycling of stack j stops. -/
def execDutyCyclingStop (j : Fin 16) (s : State) : Out :=
  .next (let w := s.stack j; if w.temp ≤ 83 then s.setStack j { w with cycling := false, duty := [] } else s)

/-- R371: the idle slots of a pair of stack j are over. -/
def execIdleSlotsEnd (j : Fin 16) (die : Fin 8) (q : Fin 64) (s : State) : Out :=
  .next (
    let w := s.stack j
    let k := pairKey die.val q.val
    match amapGet w.duty k with
    | some d => if d.idleUntil != 0 && d.idleUntil ≤ s.stamp then s.setStack j { w with duty := amapSet w.duty k none } else s
    | none => s)

end Sys2Proof.Machine
end

