-- ==== Sys2Proof/Machine/Maint.lean ====
section
/-!
DEFINITION. The flash maintenance engine (R402 to R422): `bdgq` and `bdghold`, relocation steps and the map switch,
compaction, erase, page programs of `fprog` (R366), scrub, budgets and holds.
-/
namespace Sys2Proof.Machine

/-! ## bdgq and bdghold (R418 to R421) -/

/-- R418, R419: `bdgq`. -/
def execBdgq (h : Head) (f : LayA) (s : State) : Out :=
  let e := jobEntry s.bk (.bdgq h f) h f
  let n := 64 * (maskStacks (e.xb.toNat % 65536)).length
  finish s (do
    engineReady s .backfill false
    aligned e.xa 32
    areasOk s [(e.xa.toNat, Nat.max n 1, false, true)]
    need (e.xb != 0 && e.xb.toNat < 65536) (enqFault .ill e.xb)
    .ok (enqueueJob s .backfill e h.dst [] [memRegion e.xa.toNat n]))

/-- R418, R419: `bdghold`; T0 travels as the entry's stamp. -/
def execBdghold (h : Head) (f : LayA) (s : State) : Out :=
  let e := jobEntry s.bk (.bdghold h f) h f
  let len := (bits e.xb 16 21).toNat
  let t0 := if schS h then (s.bk.brs + e.xc).toNat else e.xc.toNat
  finish s (do
    engineReady s .backfill false
    aligned e.xa 32
    areasOk s [(e.xa.toNat, 32, false, true)]
    need (bits e.xb 0 16 != 0 && 1 ≤ len && len ≤ 1200000 && bits e.xb 37 27 = 0) (enqFault .ill e.xb)
    .ok (enqueueJob s .backfill { e with stamp := some t0 } h.dst [] [memRegion e.xa.toNat 32]))

/-- A record write of a maintenance job, or of a `bfq`: its end, or MMX (R124). It checks and updates tags, since R401
lists MMX for `bfq`, though R125 leaves the engine's own accesses out (DEDUCED, log entry 74). -/
def recordJob (s : State) (k : Fin 16) (loc : Loc) (b : Bank) (j : Job) (a : Nat) (ws : List Word) : State :=
  match engineWrite s (s.whoOf b.slot k true) a (unpackWords ws) [] with
  | (s, some (c, x)) => stopJob s k loc b.slot j c x 0 0 true
  | (s, none) => s.setJob k loc (endJob j s.stamp)

/-- Why stack j refuses a hold of a context, or none (R421). -/
def holdRefused (s : State) (w : Stack) (ctx : Word) : Option Nat :=
  if (failedReason w).isSome then some 4
  else
    match w.hold with
    | some h => if h.ctx != ctx && s.stamp < h.t1 then some 3 else none
    | none => none

/-- `bdghold` as it starts (R421): the grants, and the grant record. -/
def runHold (s : State) (b : Bank) (j : Job) : State × List Word :=
  let t0 := j.e.stamp.getD 0
  let t1 := t0 + (bits j.e.xb 16 21).toNat
  let mask := j.e.xb.toNat % 65536
  let ctx := ctxidOf s b.slot
  let chosen := maskStacks mask
  let early := if t0 < s.stamp then some 1 else if 60000000 < t0 - s.stamp then some 2 else none
  let reason (x : Fin 16) : Option Nat := match early with
    | some r => some r
    | none => holdRefused s (s.stack x) ctx
  let granted := chosen.filter (fun x => (reason x).isNone)
  let refused := chosen.filter (fun x => (reason x).isSome)
  let maskOf (l : List (Fin 16)) : Nat := l.foldl (fun v x => v + 2 ^ x.val) 0
  let first := (refused.head?.bind reason).getD 0
  let slot := b.slot.getD 0
  let s := granted.foldl (fun s x => s.setStack x { s.stack x with hold := some ⟨ctx, slot, t0, t1⟩ }) s
  (s, [BitVec.ofNat 64 (maskOf granted + maskOf refused * 2 ^ 16 + first * 2 ^ 32), BitVec.ofNat 64 t0,
    BitVec.ofNat 64 t1, 0])

/-- A dispatched `bdgq` or `bdghold` of core k starts (R420, R421). A request of `bdgq` goes to each stack, which takes the
record when it arrives. -/
def startBadger (s : State) (k : Fin 16) (loc : Loc) (b : Bank) (j : Job) : State :=
  if !edgesMet b j || j.phase = .running then s
  else
    match j.e.i with
    | .bdgq _ _ =>
      (maskStacks (j.e.xb.toNat % 65536)).foldl (fun s x =>
        sendCmd s x (.job k b.slot j.seq) j.e.i [j.e.xb] (ctxidOf s b.slot) .foreground [] 0)
        (s.setJob k loc { j with phase := .running })
    | .bdghold _ _ =>
      let (s, ws) := runHold s b j
      recordJob s k loc b j j.e.xa.toNat ws
    | _ => s

/-! ## Badger's reads (R406, R407, R412)

Badger senses pages as commands of its own in the maintenance class, so that every rule of a sense holds of them: the
word line of a read step, the copy it reads back, the stripe of a page it rebuilds, and a page of a scrub. -/

/-- Give stack j a command of Badger's that senses pages; at `place` when that is not where the map has them. -/
def askPages (s : State) (j : Fin 16) (place : Option (Nat × Nat)) (pages : List PlaneWork) : State × StackCmd :=
  let c : StackCmd :=
    { id := s.nextCmd, owner := .badger, i := .fsense ⟨0, 0, 0⟩ ⟨0, 0, 0, false, false, 0⟩, dw := [], ctx := 0
      cls := .maintenance, arrive := s.stamp, arrived := true, clear := true, place := place, planes := pages
      attached := [], groups := [], out := [], outBad := [], sram := false, result := [], due := 0, stop := none
      isOver := false }
  ({ s.setStack j { s.stack j with cmds := (s.stack j).cmds ++ [c] } with nextCmd := s.nextCmd + 1 }, c)

/-- Take a command of Badger's away. -/
def dropCmd (w : Stack) (cid : Nat) : Stack := { w with cmds := w.cmds.filter (fun c => c.id != cid) }

/-- The pages a command of Badger's has read, once every one is decoded. -/
def pagesRead (w : Stack) (cid : Nat) : Option (List PlaneWork) :=
  ((w.cmds.find? (fun c => c.id = cid)).filter (fun c => c.planes.all (fun p => p.step = .decoded))).map (fun c => c.planes)

/-- The tick on which the last of some pages is decoded. -/
def lastDecode (l : List PlaneWork) : Nat := l.foldl (fun m p => Nat.max m p.due) 0

/-- Sense the fifteen other members of the stripe of a page of one plane (R332, R407), as `frebuild` does; none when one
of them is not mapped. -/
def askStripe (s : State) (j : Fin 16) (die plane lp : Nat) : Option (State × Nat) :=
  let pages := (stripeOthers die lp).flatMap (fun x => pagesOf x.1 x.2 [plane])
  if pages.any (fun p => (storedPage (s.stack j) p.die p.plane p.lp).isNone) then none
  else
    let (s, c) := askPages s j none pages
    some (s, c.id)

/-- The XOR of the members of a stripe, or none when one of them is uncorrectable (R360, R407). -/
def stripeXor (l : List PlaneWork) : Option Nat :=
  if l.any (fun p => p.bad != 0) then none else some (l.foldl (fun v p => v ^^^ pageData p.page) 0)

/-! ## Relocation (R406 to R408, R414 to R417) -/

/-- Replace the relocation of a sub-block of a pair that is under way in a step. -/
def mapReloc (w : Stack) (r : Reloc) (g : Reloc → Option Reloc) : Stack :=
  { w with relocs := w.relocs.filterMap (fun x => if x = r then g x else some x) }

/-- The relocation in a step on a pair. -/
def relocIn (w : Stack) (die q : Nat) (g : RelocStep → Bool) : Option Reloc :=
  w.relocs.find? (fun r => r.die = die && r.q = q && g r.step)

/-- The logical page of page i of a sub-block, when the sub-block has it. -/
def subPage (lsb i : Nat) : Option Nat := if 48 * lsb + i < 262144 then some (48 * lsb + i) else none

/-- Whether a word line is the last one of a sub-block that holds a page (R331, R406). -/
def lastWl (lsb wl : Nat) : Bool := wl = 15 || 262144 ≤ 48 * lsb + 3 * (wl + 1)

/-- The pages of the word line a relocation is at, in both planes. -/
def wordLine (r : Reloc) : List PlaneWork :=
  ((List.range 3).filterMap (fun n => subPage r.lsb (3 * r.wl + n))).flatMap (fun lp =>
    pagesOf r.die lp [2 * r.q, 2 * r.q + 1])

/-- A relocation that finds no destination waits, and Owl records it once, which its `wl` marks; a `frebuild` stops with
reason 5 (R360, R410). -/
def lackDestination (s : State) (j : Fin 16) (r : Reloc) : State :=
  let tell (s : State) : State := owlBadger s j 3 (pairKey r.die r.q) r.lsb
  match r.cause with
  | .rebuild cid => stopRebuild (tell s) j cid .stkf 5
  | _ => if r.wl = 0 then tell (s.setStack j (mapReloc (s.stack j) r (fun r => some { r with wl := 1 }))) else s

/-- The relocations of a pair that wait for a destination, those of `frebuild` first (R410). -/
def starved (w : Stack) (die q : Nat) : List Reloc :=
  let l := w.relocs.filter (fun r => r.die = die && r.q = q && r.step = .toRead && r.dst.isNone && !relocBarred w r)
  if (allocSb w (pairKey die q)).isSome then []
  else l.filter (fun r => r.cause.isRebuild) ++ l.filter (fun r => !r.cause.isRebuild && r.wl = 0)

/-- The destination of a relocation whose copy begins (R406). -/
def withDst (w : Stack) (r : Reloc) : Reloc × Stack :=
  match r.dst with
  | some _ => (r, w)
  | none =>
    match allocSb w (pairKey r.die r.q) with
    | some (w', b, sb) => ({ r with dst := some (b, sb), wl := 0, wrote := [], begun := true }, w')
    | none => (r, w)

/-- Begin the step of a relocation that Badger takes a pair for; `pre` when it pre-empts (R406, R415 to R417). A read step
and a step of the read-back begin with their first sense; a program step holds the pair for 360,000 ticks. -/
def beginStep (s : State) (j : Fin 16) (r : Reloc) (pre : Bool) : State :=
  let w := s.stack j
  let pk := pairKey r.die r.q
  let cost := (stepCost w r).1
  let (r', w) := withDst w r
  let last (s : State) : State :=
    let s := if pre then chargeBudget s j r.die cost else s
    s.setStack j { s.stack j with lastPreempt := amapSet (s.stack j).lastPreempt pk (if pre then some false else none) }
  match r.step with
  | .toProgram =>
    last (s.setStack j { mapReloc w r (fun _ => some { r' with step := .programming }) with
      used := w.used + 6, held := amapSet w.held pk (some (s.stamp + 360000)) })
  | _ =>
    let place := if r.step = .toVerify then r'.dst else none
    let (t, c) := askPages (s.setStack j w) j place (wordLine r')
    let step : RelocStep := if r.step = .toVerify then .verifying c.id else .reading c.id
    let t := last (t.setStack j (mapReloc (t.stack j) r (fun _ => some { r' with step := step })))
    (senseNext t j c r.die r.q 0).getD t

/-- The command whose senses a step under way on a pair still has to begin, while no sense of it is going on (R406). -/
def stepSense (s : State) (w : Stack) (die q : Nat) : Option StackCmd :=
  match relocIn w die q RelocStep.holdsPair with
  | none => none
  | some r =>
    if !pairIdle s w die q || !dutyAllows s w die q then none
    else w.cmds.find? (fun c => r.cids.contains c.id && !(nextPages c die q).isEmpty)

/-- The ticks that reads begun since a sub-block's entry to RISK add to a pre-empting step that was charged before
(R404, R416). -/
def riseCost (w : Stack) (c : StackCmd) (die q : Nat) : Nat :=
  let lsb := ((nextPages c die q).headD ⟨0, 0, 0, .waiting, 0, 0, 0, 0, 0, 0, [], false⟩).lp / 48
  if c.place.isNone && (amapGet w.lastPreempt (pairKey die q)).isSome && readsOf w (pairKey die q) lsb = 4
      && !(c.onPair die q).any (fun p => p.soft) then 25200 else 0

/-- R414 to R417: Badger takes a pair of stack j for the next step of its highest-ranked, oldest relocation, unless work
that goes first can go on another pair; a step under way goes on with its next sense. -/
def execBadgerStep (j : Fin 16) (die : Fin 8) (q : Fin 64) (s : State) : Out :=
  .next (
    if s.svc.parked || plStalled s j then s else
    let w := s.stack j
    match stepSense s w die.val q.val with
    | some c => ((senseNext s j c die.val q.val 0).map (fun t => chargeBudget t j die.val (riseCost w c die.val q.val))).getD s
    | none =>
      match starved w die.val q.val with
      | r :: _ => lackDestination s j r
      | [] =>
        match bestReloc s w die.val q.val with
        | none => s
        | some r =>
          if !canTake s w r || outranked s w (relocRank r.cause) (olderThan w r) then s
          else beginStep s j r (othersWait w die.val q.val))

/-- A page copied as it was read, or as it is rebuilt from its stripe's data `v` (R329, R406, R407). -/
def copyOf (w : Stack) (r : Reloc) (p : PlaneWork) (v : Option Nat) : CopiedPage :=
  let g := (amapGet w.pages (pageKey p.die p.plane p.ppage)).getD ⟨0, 0, 0, false, false⟩
  let raw := match v with
    | some v => makePage v ⟨g.ext, p.lp, g.kind, g.isSealed, 0⟩
    | none => p.page
  ⟨p.lp - 48 * r.lsb, p.plane % 2, { g with raw := raw, mended := v.isSome }⟩

/-- A relocation that can neither read nor rebuild a page is abandoned (R407): its sub-block stays where it is, its
counter stands at RISK, and the error log and Owl record it; a `frebuild` stops with reason 4. -/
def abandonReloc (s : State) (j : Fin 16) (r : Reloc) (page side : Nat) : State :=
  let w := s.stack j
  let pk := pairKey r.die r.q
  let e := (mapOf w pk (48 * r.lsb)).getD ⟨0, 0, 0, 0, false⟩
  let s := s.setStack j { w with
    level := amapSet w.level (lsbKey pk r.lsb) (some 3)
    dist := amapSet w.dist (sbKey pk e.pblk e.psb) (some (Nat.max 40000000 (distOf w pk e.pblk e.psb))) }
  let s := logFlash s j (48 * r.lsb + page) (2 * r.q + side) r.die (1152 * e.pblk + 48 * e.psb + page) 0 3 0 3 0 s.stamp
  let s := owlBadger s j 2 pk r.lsb
  match r.cause with
  | .rebuild cid => stopRebuild s j cid .stkf 4
  | _ => s.setStack j (mapReloc (s.stack j) r (fun _ => none))

/-- Ask for the stripes of the pages of a word line that failed (R407): the requests made, or the first page whose stripe
cannot be sensed. -/
def askStripes (j : Fin 16) (r : Reloc) :
    List PlaneWork → State → List (Nat × Nat × Nat) → State × Except (Nat × Nat) (List (Nat × Nat × Nat))
  | [], s, l => (s, .ok l)
  | p :: rest, s, l =>
    let page := p.lp - 48 * r.lsb
    match askStripe s j p.die p.plane p.lp with
    | none => (s, .error (page, p.plane % 2))
    | some (s, cid) => askStripes j r rest s (l ++ [(cid, page, p.plane % 2)])

/-- The pages of a read step are decoded (R406, R407): the copy, with the pages a `frebuild` brings in place of its own;
the stripes of the others that failed are sensed. -/
def takeWordLine (s : State) (j : Fin 16) (r : Reloc) (cid : Nat) (l : List PlaneWork) : State :=
  let w := s.stack j
  let brought (p : PlaneWork) : Option CopiedPage :=
    r.rebuilt.find? (fun x => 48 * r.lsb + x.page = p.lp && x.side = p.plane % 2)
  let good := l.filterMap (fun p => (brought p).or (if p.bad = 0 then some (copyOf w r p none) else none))
  let s := s.setStack j (stepOver (dropCmd w cid) r.die r.q)
  let put (s : State) (asks : List (Nat × Nat × Nat)) : State :=
    s.setStack j (mapReloc (s.stack j) r (fun r => some { r with
      buf := good, asks := asks, due := lastDecode l, since := lastDecode l, step := if asks.isEmpty then .toProgram else .rebuilding }))
  match askStripes j r (l.filter (fun p => p.bad != 0 && (brought p).isNone)) s [] with
  | (s, .ok asks) => put s asks
  | (s, .error (page, side)) => abandonReloc s j r page side

/-- A destination that failed to program, or whose read-back does not pass, is retired, and the copy starts again (R407,
R411); a `frebuild` that finds no other stops with reason 5. -/
def failDst (s : State) (j : Fin 16) (r : Reloc) : State :=
  let blk := (r.dst.getD (0, 0)).1
  let s := s.setStack j (stepOver (mapReloc (s.stack j) r (fun r => some r.again)) r.die r.q)
  let s := retireBlock s j r.die r.q blk
  match r.cause with
  | .rebuild cid => if (allocSb (s.stack j) (pairKey r.die r.q)).isSome then s else stopRebuild s j cid .stkf 5
  | _ => s

/-- The pages of a step of the read-back are decoded: it passes when every codeword decodes with at most 8 corrected bits
(R406). -/
def takeReadBack (s : State) (j : Fin 16) (r : Reloc) (cid : Nat) (l : List PlaneWork) : State :=
  let s := s.setStack j (dropCmd (s.stack j) cid)
  if l.all (fun p => p.bad = 0 && p.corrected.all (fun n => n ≤ 8)) then
    let step : RelocStep := if lastWl r.lsb r.wl then .toSwitch else .toVerify
    s.setStack j (stepOver (mapReloc (s.stack j) r (fun r => some { r with
      wl := r.wl + 1, since := s.stamp, step := step })) r.die r.q)
  else failDst s j r

/-- The stripes of a word line's failed pages are decoded (R407): the copy uses the rebuilt pages, or the relocation is
abandoned for the first that its stripe cannot rebuild. -/
def takeStripes (s : State) (j : Fin 16) (r : Reloc) (l : List ((Nat × Nat × Nat) × List PlaneWork)) : State :=
  let w := s.stack j
  let s := s.setStack j (r.asks.foldl (fun w a => dropCmd w a.1) w)
  match l.find? (fun x => (stripeXor x.2).isNone) with
  | some ((_, page, side), _) => abandonReloc s j r page side
  | none =>
    let made := l.map (fun (a, ps) =>
      let lp := 48 * r.lsb + a.2.1
      let pg := ((mapOf w (pairKey r.die r.q) lp).map (fun e => ppageOf e lp)).getD 0
      copyOf w r ⟨r.die, 2 * r.q + a.2.2, lp, .decoded, 0, 0, pg, 0, 0, 0, [], false⟩ (stripeXor ps))
    s.setStack j (mapReloc (s.stack j) r (fun r => some { r with
      buf := r.buf ++ made, asks := [], due := l.foldl (fun m x => Nat.max m (lastDecode x.2)) r.due
      since := s.stamp, step := .toProgram }))

/-- What Badger has read for the requests of a relocation, once every page is decoded. -/
def stripesRead (w : Stack) : List (Nat × Nat × Nat) → Option (List ((Nat × Nat × Nat) × List PlaneWork))
  | [] => some []
  | a :: r => (pagesRead w a.1).bind (fun l => (stripesRead w r).map (fun t => (a, l) :: t))

/-- A step that waits for pages Badger has sensed (R406, R407). -/
def RelocStep.awaitsPages : RelocStep → Bool
  | .reading _ | .verifying _ | .rebuilding => true
  | _ => false

/-- A step of the map switch (R408). -/
def RelocStep.isSwitch : RelocStep → Bool
  | .toSwitch | .moving | .switching _ => true
  | _ => false

/-- R406, R407: the read step of word line `wl` of a pair of stack j is over, its pages decoded; or its step of the
read-back; or the stripes of its pages that failed. -/
def execRelocationReadStep (j : Fin 16) (die : Fin 8) (q : Fin 64) (wl : Nat) (s : State) : Out :=
  .next (
    let w := s.stack j
    match relocIn w die.val q.val RelocStep.awaitsPages with
    | none => s
    | some r =>
      if r.wl != wl then s else
      match r.step with
      | .reading cid => ((pagesRead w cid).map (takeWordLine s j r cid)).getD s
      | .verifying cid => ((pagesRead w cid).map (takeReadBack s j r cid)).getD s
      | _ => ((stripesRead w r.asks).map (takeStripes s j r)).getD s)

/-- Program copied pages at a destination, each re-encoded with a fresh WSEQ (R406). -/
def programPages (w : Stack) (die q lsb blk sb : Nat) (l : List CopiedPage) : Stack :=
  l.foldl (fun w c =>
    let wseq := w.wseq + 1
    let raw := makePage (pageData c.content.raw)
      ⟨c.content.ext, 48 * lsb + c.page, c.content.kind, c.content.isSealed, wseq.toNat⟩
    let g : FlashPage := { c.content with raw := raw }
    let key := pageKey die (2 * q + c.side) (1152 * blk + 48 * sb + c.page)
    { w with wseq := wseq, pages := amapSet w.pages key (some g) }) w

/-- R406, R407, R411: a program step of a pair of stack j is over, well or not; after the last word line the copy is read
back. -/
def execRelocationProgramStep (j : Fin 16) (die : Fin 8) (q : Fin 64) (ok : Bool) (s : State) : Out :=
  .next (
    let w := s.stack j
    match relocIn w die.val q.val (fun x => x = .programming) with
    | none => s
    | some r =>
      if s.stamp < (amapGet w.held (pairKey die.val q.val)).getD 0 then s
      else
        let (blk, sb) := r.dst.getD (0, 0)
        if ok then
          let w := programPages w die.val q.val r.lsb blk sb r.buf
          let last := lastWl r.lsb r.wl
          s.setStack j (stepOver (mapReloc w r (fun r => some { r with
            wl := if last then 0 else r.wl + 1, wrote := r.wrote ++ r.buf, buf := [], since := s.stamp
            step := if last then .toVerify else .toRead })) die.val q.val)
        else
          failDst (logFlash s j (48 * r.lsb + 3 * r.wl) (2 * q.val) die.val (1152 * blk + 48 * sb + 3 * r.wl) 0 5 0 0 0
            s.stamp) j r)

/-- Whether a sense that began on the old location of a sub-block is still going on (R361, R408). -/
def sensingOld (w : Stack) (r : Reloc) : Bool :=
  w.cmds.any (fun c => c.place.isNone && (c.onPair r.die r.q).any (fun p => p.step.holdsPair && p.lp / 48 = r.lsb))

/-- The map entry of a relocated sub-block is written (R408): it names the copy, its level is gone, and a `frebuild` ends. A
copy whose destination was retired meanwhile is relocated again (R411). -/
def endSwitch (s : State) (j : Fin 16) (r : Reloc) (t : Nat) : State :=
  let pk := pairKey r.die r.q
  let (blk, sb) := r.dst.getD (0, 0)
  let w := mapReloc (s.stack j) r (fun _ => none)
  let w := { w with
    map := w.map.map (fun m =>
      if m.1 = lsbKey pk r.lsb then (m.1, { m.2 with pblk := blk, psb := sb, moving := false }) else m)
    relocDone := w.relocDone + 1, level := amapSet w.level (lsbKey pk r.lsb) none }
  let s := s.setStack j (if isRetired w pk blk then queueReloc w r.die r.q r.lsb .retire s.stamp else w)
  match r.cause with
  | .rebuild cid =>
    match (s.stack j).cmds.find? (fun c => c.id = cid) with
    | some c => endCmd s j c (t + 900)
    | none => s
  | _ => s

/-- R408: the switch of a relocation of stack j goes on: MOVING is set; the senses begun on the old location end; the new
map entry is written in 600 ticks. -/
def execMapSwitch (j : Fin 16) (die : Fin 8) (q : Fin 64) (s : State) : Out :=
  .next (
    let w := s.stack j
    let pk := pairKey die.val q.val
    let set (w : Stack) (r : Reloc) (x : RelocStep) : Stack := mapReloc w r (fun r => some { r with step := x })
    match relocIn w die.val q.val RelocStep.isSwitch with
    | none => s
    | some r =>
      match r.step with
      | .switching t => if s.stamp < t + 600 then s else endSwitch s j r t
      | .moving => if sensingOld w r then s else s.setStack j (set w r (.switching s.stamp))
      | _ =>
        let w := set w r .moving
        s.setStack j { w with map := w.map.map (fun m =>
          if m.1 = lsbKey pk r.lsb then (m.1, { m.2 with moving := true }) else m) })

/-! ## Compaction and erase (R367, R410, R411) -/

/-- Whether the erase of a block pair is an `ferase`'s. -/
def feraseOf (w : Stack) (x : Nat × Nat) : Bool :=
  w.cmds.any (fun c => !c.isOver && (match c.i with
    | .ferase _ _ => (erasesLeft c x.1).contains x.2
    | _ => false))

/-- Stacks that compact now: they move sub-blocks out of a block pair, or erase it (R410, R417). -/
def compacting (s : State) : List (Fin 16) :=
  (List.finRange 16).filter (fun j =>
    let w := s.stack j
    w.relocs.any (fun r => r.cause = .compact) || w.erasing.any (fun x => !feraseOf w x))

/-- The block pair in service with the fewest mapped sub-blocks among those opened, with none left to fill and not being
copied into. -/
def compactBlock (w : Stack) (pk : Nat) : Option Nat :=
  let open_ (b : Nat) : Bool := isDirty w pk b && !isRetired w pk b && !isTarget w (pk / 64) (pk % 64) b
    && !(amapGet w.filling pk).any (fun x => x.1 = b && x.2 < 24) && !w.erasing.contains (pk, b)
  ((List.range userBlocks).filter open_).foldl (fun m b =>
    match m with
    | none => some b
    | some x => if (mappedIn w pk b).length < (mappedIn w pk x).length then some b else some x) none

/-- The block pair that compaction erases next on a pair, when it may be erased now (R410, R414, R417, R422). -/
def eraseNow (s : State) (w : Stack) (pk : Nat) : Option Nat :=
  if 48 ≤ poolSize w pk then none
  else
    (compactBlock w pk).filter (fun b => (mappedIn w pk b).isEmpty && pairFree s w (pk / 64) (pk % 64)
      && dutyAllows s w (pk / 64) (pk % 64) && !othersWait w (pk / 64) (pk % 64)
      && !olderWaits w (pk / 64) (pk % 64) s.stamp && allowanceFits s w 12 && !inHold s w)

/-- The pairs that wait for an erase of compaction longer than a pair and could have it now (R414). -/
def erasesBefore (s : State) (w : Stack) (pk : Nat) : List Nat :=
  (w.eraseQ.takeWhile (fun x => x != pk)).filter (fun x => (eraseNow s w x).isSome)

/-- R410, R414, R417: with fewer than 48 sub-block pairs in a pair's pool, stack j relocates the mapped sub-blocks out of
a block pair; once it holds none, the pair waits for its erase, the oldest such pair first, while at most three other
stacks compact. -/
def execCompaction (j : Fin 16) (die : Fin 8) (q : Fin 64) (s : State) : Out :=
  .next (
    let w := s.stack j
    let pk := pairKey die.val q.val
    if s.svc.parked || 48 ≤ poolSize w pk || w.mode != .ready || plStalled s j
      || 4 ≤ ((compacting s).filter (fun x => x != j)).length then s
    else
      match compactBlock w pk with
      | none => s
      | some b =>
        match mappedIn w pk b with
        | [] =>
          if !w.eraseQ.contains pk then s.setStack j { w with eraseQ := w.eraseQ ++ [pk] }
          else if (eraseNow s w pk).isSome && !outranked s w 6 [] && (erasesBefore s w pk).isEmpty then
            s.setStack j { beginErase s w pk b with eraseQ := w.eraseQ.filter (fun x => x != pk) }
          else s
        | l => s.setStack j (l.foldl (fun w m => queueReloc w die.val q.val m.1 .compact s.stamp) w))

/-- A block pair after its erase (R367, R402, R410): its pages are gone, its counters zero, its cycle count one up. -/
def erasedBlock (w : Stack) (die q blk : Nat) : Stack :=
  let pk := pairKey die q
  let bk := blockKey pk blk
  let clearPages (m : AMap FlashPage) (plane : Nat) : AMap FlashPage :=
    amapClear m (pageKey die plane (1152 * blk)) (pageKey die plane (1152 * (blk + 1)))
  { w with
    pages := clearPages (clearPages w.pages (2 * q)) (2 * q + 1)
    dist := amapClear w.dist (24 * bk) (24 * (bk + 1))
    pec := amapSet w.pec bk (some (pecOf w pk blk + 1))
    dirty := amapSet w.dirty bk none
    eraseQ := w.eraseQ.filter (fun x => x != pk)
    filling := if (amapGet w.filling pk).map Prod.fst = some blk then amapSet w.filling pk none else w.filling }

/-- An `ferase` after one of its erases: its pair waits for the next, or is done (R367, R372). -/
def continueFerase (s : State) (j : Fin 16) (die q blk : Nat) : State :=
  let w := s.stack j
  let pk := pairKey die q
  let key : Word := BitVec.ofNat 64 (blockKey pk blk)
  match w.cmds.find? (fun c => !c.isOver && c.result.contains key && (match c.i with
    | .ferase _ _ => true
    | _ => false)) with
  | none => s
  | some c =>
    let c := { c with result := c.result.filter (fun x => x != key) }
    let step : PlaneStep := if (erasesLeft c pk).isEmpty then .done else .waiting
    let c := { c with
      planes := c.planes.map (fun p => if p.die = die && p.plane / 2 = q then { p with step := step } else p) }
    let s := s.setCmdAt j c
    if c.planes.all (fun p => p.step = .done) then endCmd s j c (s.stamp + 300) else s

/-- R367, R410, R411: the erase of a block pair of stack j completes, or fails and retires it. -/
def execBlockErase (j : Fin 16) (die : Fin 8) (q : Fin 64) (blk : Fin 256) (ok : Bool) (s : State) : Out :=
  .next (
    let w := s.stack j
    let pk := pairKey die.val q.val
    if !w.erasing.contains (pk, blk.val) || s.stamp < (amapGet w.held pk).getD 0 then s
    else
      let w := { w with erasing := w.erasing.filter (fun x => x != (pk, blk.val)) }
      let s := if ok then
          let w := erasedBlock w die.val q.val blk.val
          let s := s.setStack j w
          if 3000 ≤ pecOf w pk blk.val then retireBlock s j die.val q.val blk.val else s
        else retireBlock (s.setStack j w) j die.val q.val blk.val
      continueFerase s j die.val q.val blk.val)

/-! ## Page programs of fprog (R366) -/

/-- The two pages an `fprog` programs. -/
def installPages (c : StackCmd) : List CopiedPage :=
  let d := c.desc
  let data := unpackWords (c.dw.drop 6)
  (List.range 2).map (fun b =>
    ⟨d.lp % 48, b,
      { raw := BitVec.ofNat 73728 (ofBytes ((data.drop (8192 * b)).take 8192)), ext := (bits d.aux 0 32).toNat
        kind := (bits d.aux 32 2).toNat, isSealed := bit d.aux 34, mended := false }⟩)

/-- The readable bound after n pages are programmed: whole word lines (R366). -/
def readableAfter (e : MapEntry) (n : Nat) : Nat := if n % 3 = 0 then n else Nat.max e.readable (n / 3 * 3)

/-- Earlier pages of a sub-block, to be programmed again elsewhere (R366). -/
def earlierPages (w : Stack) (die q lsb : Nat) (e : MapEntry) : List CopiedPage :=
  (List.range e.programmed).flatMap (fun i => (List.range 2).filterMap (fun b =>
    (amapGet w.pages (pageKey die (2 * q + b) (ppageOf e (48 * lsb + i)))).map (fun g => ⟨i, b, g⟩)))

/-- The map entry of a sub-block with one more page programmed. -/
def withPage (e : MapEntry) : MapEntry :=
  let n := e.programmed + 1
  { e with programmed := n, readable := readableAfter e n }

/-- Where an `fprog` puts its page (R366): its sub-block's next page, or the first of a fresh sub-block pair. -/
def progPlace (w : Stack) (pk lp : Nat) : Except (FaultCode × Nat) (Stack × MapEntry) :=
  match mapOf w pk lp with
  | some e => if e.programmed = lp % 48 then .ok (w, e) else .error (.segv, 5)
  | none =>
    if lp % 48 != 0 then .error (.segv, 5)
    else
      match allocSb w pk with
      | some (w, b, sb) => .ok (w, ⟨b, sb, 0, 0, false⟩)
      | none => .error (.stkf, 5)

/-- R366, R411: the program of command `cid`'s page in stack j ends, well or not. The pages of a sub-block whose block
pair is retired, or whose program failed, go into another pair; after a failure `ok2` says whether the reprogram ended
well. -/
def execPageProgram (j : Fin 16) (cid : Nat) (ok ok2 : Bool) (s : State) : Out :=
  .next (
    let w := s.stack j
    match w.cmds.find? (fun c => c.id = cid) with
    | none => s
    | some c =>
      let isProg := match c.i with
        | .fprog _ _ => true
        | _ => false
      if !isProg || c.isOver || !c.planes.any (fun p => p.step = .sensed) then s
      else
        let d := c.desc
        let q := d.planes.headD 0 / 2
        let pk := pairKey d.die q
        let lsb := d.lp / 48
        let stop (s : State) (x : FaultCode × Nat) : State :=
          endCmd s j { c with stop := some (x.1, 0, stkDetail j.val d.die (2 * q) d.lp 0 0 x.2) } 0
        let put (w : Stack) (e : MapEntry) (l : List CopiedPage) : Stack :=
          let w := programPages w d.die q lsb e.pblk e.psb l
          { w with map := amapSet w.map (lsbKey pk lsb) (some (withPage e)) }
        -- another pair than `blk`, into which the moved sub-block goes: its level falls (R404)
        let away (w : Stack) (blk : Nat) : Option (Stack × Nat × Nat) :=
          let filling := if (amapGet w.filling pk).any (fun x => x.1 = blk) then amapSet w.filling pk none else w.filling
          allocSb { w with filling := filling, level := amapSet w.level (lsbKey pk lsb) none } pk
        let failed (s : State) (e : MapEntry) : State :=
          retireBlock (logFlash s j d.lp (2 * q) d.die (ppageOf e d.lp) 0 5 0 0 c.ctx s.stamp) j d.die q e.pblk
        match progPlace w pk d.lp with
        | .error x => stop s x
        | .ok (w, e) =>
          let earlier := earlierPages w d.die q lsb e
          let moved := isRetired w pk e.pblk
          let first : Option (Stack × MapEntry × List CopiedPage) :=
            if moved then (away w e.pblk).map (fun (w, b, sb) => (w, { e with pblk := b, psb := sb }, earlier ++ installPages c))
            else some (w, e, installPages c)
          match first with
          | none => stop s (.stkf, 6)
          | some (w, e, l) =>
            if ok then endCmd (s.setStack j (put w e l)) j c (s.stamp + 300)
            else
              match away w e.pblk with
              | none => stop (failed (s.setStack j w) e) (.stkf, 6)
              | some (w, b, sb) =>
                let e' := { e with pblk := b, psb := sb }
                if !ok2 then stop (failed (failed (s.setStack j w) e) e') (.stkf, 6)
                else endCmd (failed (s.setStack j (put w e' (earlier ++ installPages c))) e) j c (s.stamp + 300))

/-! ## Scrub (R412, R413, R417) -/

/-- R412: an extent 30 days past its last sense or scrub is queued for scrub. -/
def execScrubDue (ext : BitVec 32) (s : State) : Out :=
  .next { s with wstacks := s.wstacks.map (fun w =>
    if w.extents.any (fun x => x.ext = ext && x.lastSeen + 2592000 ≤ wallClock s) && !w.scrubQ.contains ext then
      { w with scrubQ := w.scrubQ ++ [ext] }
    else w) }

/-- The pages of an extent in a stack, in ascending (die, plane, logical page) order (R412). -/
def extentPages (x : Extent) (j : Fin 16) : List (Nat × Nat × Nat) :=
  let runs := x.runs.filter (fun r => (bits r 0 4).toNat = j.val)
  (List.range 8).flatMap (fun die => (List.range 128).flatMap (fun pl =>
    let here := runs.filter (fun r => (bits r 4 3).toNat = die && (bits r 7 6).toNat = pl / 2)
    ((here.flatMap (fun r => (List.range (bits r 32 18).toNat).map (fun i => (bits r 14 18).toNat + i))).mergeSort).map
      (fun lp => (die, pl, lp))))

/-- SHAKE256 of an extent's data compared with its digest; a mismatch marks it SUSPECT (R412, R413). -/
def endScrub (s : State) (j : Fin 16) (sc : Scrub) : State :=
  let w := s.stack j
  let good := w.extents.all (fun x => x.ext != sc.ext || x.digest = shake256 sc.data)
  let w := { w with
    scrub := none
    extents := w.extents.map (fun x =>
      if x.ext = sc.ext then { x.seenNow s with suspect := x.suspect || !good } else x) }
  let s := s.setStack j w
  if good then s
  else
    let s := logFlash s j 0 0 0 0 0 3 0 0 0 s.stamp
    let s := owlBadger s j 5 0 sc.ext.toNat
    { s with host := { s.host with irqRaised := s.host.irqRaised + 1 } }

/-- A scrub goes on behind its first page left, with that page's data when the digest covers it (R412). -/
def scrubOn (s : State) (j : Fin 16) (sc : Scrub) (isData : Bool) (bytes : List Byte) : State :=
  let w := s.stack j
  let w := match sc.cur with
    | some cid => dropCmd w cid
    | none => w
  s.setStack j { w with
    scrub := some ⟨sc.ext, sc.left.drop 1, if isData then sc.data ++ bytes else sc.data, none, false⟩ }

/-- A page of a scrub is decoded (R407, R412): one that cannot be corrected queues a refresh, which rebuilds it, and its
stripe is sensed for the digest. -/
def scrubTake (s : State) (j : Fin 16) (sc : Scrub) (cid : Nat) (p : PlaneWork) : State :=
  let w := s.stack j
  let isData := (amapGet w.pages (pageKey p.die p.plane p.ppage)).any (fun g => g.kind = 0)
  if p.bad = 0 then scrubOn s j sc isData (pageBytes p.page)
  else
    let s := s.setStack j (queueReloc (dropCmd w cid) p.die (p.plane / 2) (p.lp / 48) .soft s.stamp)
    match askStripe s j p.die p.plane p.lp with
    | none => scrubOn s j { sc with cur := none } isData (pageBytes p.page)
    | some (s, n) => s.setStack j { s.stack j with scrub := some { sc with cur := some n, fix := true } }

/-- A scrub begins to sense its next page on a pair Badger may take (R412, R414, R415, R422). -/
def scrubAsk (s : State) (j : Fin 16) (sc : Scrub) (die pl lp : Nat) : State :=
  let w := s.stack j
  let q := pl / 2
  let pre := othersWait w die q
  let cost := 8400 * readsOf w (pairKey die q) (lp / 48)
  if (storedPage w die pl lp).isNone then scrubOn s j sc false []
  else if !pairFree s w die q || !dutyAllows s w die q || outranked s w 7 []
    || (if pre then !(inHold s w && preempts s w die q 7 cost askBound) else olderWaits w die q s.stamp)
    || ((w.map.map (fun m => m.1 / 8192)).eraseDups).any (fun pk => (eraseNow s w pk).isSome) then s
  else
    let (t, c) := askPages s j none (pagesOf die lp [pl])
    match senseNext t j c die q 0 with
    | none => s
    | some t =>
      let t := if pre then chargeBudget t j die cost else t
      let w := t.stack j
      t.setStack j { w with
        scrub := some { sc with cur := some c.id, fix := false }
        lastPreempt := amapSet w.lastPreempt (pairKey die q) (if pre then some false else none) }

/-- R412, R414, R417: the scrub of stack j takes what it has read, or senses its next page when no better work can go, or
begins with the oldest queued extent when no other stack scrubs. -/
def execScrubSense (j : Fin 16) (ext : BitVec 32) (s : State) : Out :=
  .next (
    if s.svc.parked || plStalled s j then s else
    let w := s.stack j
    match w.scrub with
    | none =>
      if (List.finRange 16).any (fun x => (s.stack x).scrub.isSome) then s
      else
        match w.scrubQ with
        | [] => s
        | e :: r =>
          if e != ext then s else
          match w.extents.find? (fun x => x.ext = e) with
          | none => s.setStack j { w with scrubQ := r }
          | some x => s.setStack j { w with scrubQ := r, scrub := some ⟨e, extentPages x j, [], none, false⟩ }
    | some sc =>
      if sc.ext != ext then s else
      match sc.cur, sc.left with
      | _, [] => endScrub s j sc
      | none, (die, pl, lp) :: _ => scrubAsk s j sc die pl lp
      | some cid, (die, pl, lp) :: _ =>
        match pagesRead w cid with
        | none => s
        | some l =>
          if !sc.fix then ((l.head?).map (scrubTake s j sc cid)).getD s
          else
            let isData := ((storedPage w die pl lp).map Prod.snd).any (fun g => g.kind = 0)
            scrubOn s j sc isData (((stripeXor l).map (toBytes 8192)).getD []))

/-! ## Budgets and holds (R416, R422) -/

/-- R416: a window of 60,000,000 ticks begins: every die's budget is whole again. -/
def execBadgerBudgetWindow (s : State) : Out :=
  .next (rollBudget s)

/-- R422: the hold of stack j ends at T1. -/
def execHoldEnd (j : Fin 16) (s : State) : Out :=
  .next (
    let w := s.stack j
    match w.hold with
    | some h => if h.t1 ≤ s.stamp then s.setStack j { w with hold := none } else s
    | none => s)

end Sys2Proof.Machine
end

