-- ==== Sys2Proof/Machine/Backfill.lean ====
section
/-!
DEFINITION. The backfill engine (R377 to R401): the exit test, exit records, `bfpost` and the other instructions,
vector slots, standalone senses, the rows of skipped layers and their slot writes.
-/
namespace Sys2Proof.Machine

/-! ## Enqueue (R378, R379) -/

/-- N of an `xconf` control word (R380). -/
def xconfN (w : Word) : Nat := (bits w 32 14).toNat + 1

/-- R378 to R381: `xconf`. The result register's number travels in `vd`; at enqueue it receives SEQ. -/
def execXconf (h : Head) (f : LayA) (s : State) : Out :=
  let e := jobEntry s.bk (.xconf h f) h f
  let n := 4 * xconfN e.xb
  finish s (do
    engineReady s .backfill false
    aligned e.xa 4
    tier0Span s e.xa n true false
    need (f.c != 0#6 && f.c != h.dst && bits e.xb 46 18 = 0) (enqFault .ill 0)
    let s := enqueueJob s .backfill { e with vd := f.c.toNat } h.dst [memRegion e.xa.toNat n] []
    .ok (s.setBk (putReg s.bk f.c ((s.core s.cur).seq.setWidth 64))))

/-- The whole pending table as a footprint region (R378). -/
def pendRegion : Region := ⟨.pend, 0, 1⟩

/-- A post block (R385), as its doublewords. -/
structure PostBlock where
  pos : Nat
  el : Nat
  nl : Nat
  ltab : Nat
  hid : Nat
  sig : BitVec 32
  hlen : Nat
  deriving DecidableEq, Repr

def postBlock (ws : List Word) : PostBlock :=
  let a := ws.getD 1 0
  let d := ws.getD 4 0
  { pos := (ws.getD 0 0).toNat, el := (bits a 0 8).toNat, nl := (bits a 8 8).toNat + 1
    ltab := (bits (ws.getD 2 0) 0 56).toNat, hid := (bits (ws.getD 3 0) 0 56).toNat
    sig := bits d 0 32, hlen := (bits d 32 13).toNat + 1 }

/-- The ILL conditions on a post block (R379, R385). -/
def postIll (ws : List Word) : Bool :=
  let p := postBlock ws
  bits (ws.getD 1 0) 16 48 != 0 || bits (ws.getD 2 0) 56 8 != 0 || bits (ws.getD 3 0) 56 8 != 0
    || bits (ws.getD 4 0) 45 19 != 0 || ws.getD 5 0 != 0
    || p.nl < 2 || p.nl ≤ p.el + 1 || p.hlen % 32 != 0 || p.ltab % 64 != 0 || p.hid % 32 != 0

/-- A fault of the post block names sB (R379). -/
def nameBlock {α : Type} (a : Word) (r : Except Stop α) : Except Stop α :=
  match r with
  | .error (.flt e) => .error (.flt { e with flta := a })
  | .error (.fltAt s e) => .error (.fltAt s { e with flta := a })
  | r => r

/-- R378, R379, R385: `bfpost`. The post block travels with the entry. -/
def execBfpost (h : Head) (f : LayA) (s : State) : Out :=
  let e := jobEntry s.bk (.bfpost h f) h f
  finish s (do
    engineReady s .backfill false
    aligned e.xa 64
    tier0Span s e.xa 64 true false
    let s ← nameBlock e.xa (enqRead s e.xa e.xa 48)
    let ws := onWords s e.xa 6
    need (!postIll ws) (enqFault .ill e.xa)
    .ok (enqueueJob s .backfill { e with maps := [ws] } h.dst [] [pendRegion]))

/-- Change the backfill engine's record of the current context (R383). -/
def mapBf (s : State) (g : BfCtx → BfCtx) : State :=
  match s.bk.slot with
  | none => s
  | some i =>
    match s.launch i with
    | some l => s.setLaunch i (some { l with bf := g l.bf })
    | none => s

/-- R395: `bfwait` moves the horizon at enqueue. -/
def execBfwait (h : Head) (f : LayA) (s : State) : Out :=
  let e := jobEntry s.bk (.bfwait h f) h f
  finish s (do
    engineReady s .backfill false
    let s := mapBf s (fun b => { b with hv := true, hz := if b.hz.ult e.xa then e.xa else b.hz })
    .ok (enqueueJob s .backfill e h.dst [pendRegion] []))

/-- The ILL conditions on a mode word (R379, R384). -/
def modeIll (w : Word) : Bool :=
  bits w 0 2 = 3 || bits w 3 5 != 0 || bits w 24 40 != 0 || (bit w 2 != (bits w 8 16 != 0))

/-- R384: `bfmode` sets MODE and ALIM at enqueue. -/
def execBfmode (h : Head) (f : LayA) (s : State) : Out :=
  let e := jobEntry s.bk (.bfmode h f) h f
  let w := e.xa
  finish s (do
    engineReady s .backfill false
    need (!modeIll w) (enqFault .ill 0)
    let s := mapBf s (fun b =>
      { b with
        mode := if bits w 0 2 = 0 then b.mode else bits w 0 2
        alim := if bit w 2 then (bits w 8 16).toNat else b.alim })
    .ok (enqueueJob s .backfill e h.dst [] []))

/-- R397: `bfq`. -/
def execBfq (h : Head) (f : LayA) (s : State) : Out :=
  let e := jobEntry s.bk (.bfq h f) h f
  finish s (do
    engineReady s .backfill false
    aligned e.xa 32
    tier0Span s e.xa 32 false true
    .ok (enqueueJob s .backfill e h.dst [pendRegion] [memRegion e.xa.toNat 32]))

/-- R396: `bfflush`. -/
def execBfflush (h : Head) (f : LayA) (s : State) : Out :=
  let e := jobEntry s.bk (.bfflush h f) h f
  finish s (do
    engineReady s .backfill false
    .ok (enqueueJob s .backfill e h.dst [pendRegion] []))

/-! ## The exit test (R380 to R382) -/

/-- FP32 codes of a byte string. -/
def fp32s (bs : List Byte) (n : Nat) : List Nat := (List.range n).map (fun i => ofBytes ((bs.drop (4 * i)).take 4))

/-- The lowest index of a NaN, if any. -/
def firstNaN (l : List Nat) : Option Nat := l.findIdx? (fun x => (decodeVal 0 x).isNaN)

/-- The index and value of the maximum, the lowest index of equals, −0 below +0. -/
def topLogit : Nat → List Nat → Nat × Val → Nat × Val
  | _, [], m => m
  | i, x :: r, m =>
    let v := decodeVal 0 x
    topLogit (i + 1) r (if zLt m.2 v then (i, v) else m)

/-- S of R380. -/
def expSum (m : Val) (l : List Nat) : Nat :=
  l.foldl (fun sum x =>
    let d := (fSub 0 (decodeVal 0 x) m).1
    let t := (expE (decodeVal 0 d)).1
    (fAdd 0 (decodeVal 0 sum) (decodeVal 0 t)).1) 0

/-- (EX, ARG, P) of an exit test over FP32 logits with threshold θ (R380). -/
def exitTest (l : List Nat) (theta : Nat) : Bool × Nat × Nat :=
  match firstNaN l with
  | some i => (false, i, nan32)
  | none =>
    let (arg, m) := topLogit 1 (l.drop 1) (0, decodeVal 0 (l.headD 0))
    match m with
    | .inf _ => (false, arg, nan32)
    | _ =>
      let p := (fDiv 0 (.ofInt 1) (decodeVal 0 (expSum m l))).1
      let t := decodeVal 0 theta
      (!t.isNaN && !Val.lt (decodeVal 0 p) t, arg, p)

/-- The result word (R381). -/
def exitWord (r : Bool × Nat × Nat) (seq : BitVec 16) : Word :=
  (BitVec.ofNat 64 (2 ^ 63 + (if r.1 then 2 ^ 62 else 0) + r.2.1 % 2 ^ 14 * 2 ^ 48 + r.2.2 % 2 ^ 32 * 2 ^ 16))
    ||| seq.setWidth 64

/-! ## bfpost (R386 to R389) -/

/-- A layer-table entry (R386). -/
structure LayerEntry where
  desc : Nat
  fc : Nat
  row : Nat
  rope : Nat
  klist : Nat
  vlist : Nat
  nk : Nat
  nv : Nat
  abase : Nat
  deriving DecidableEq, Repr

def layerEntry (ws : List Word) : LayerEntry :=
  let a (i : Nat) : Nat := (bits (ws.getD i 0) 0 56).toNat
  let f := ws.getD 1 0
  let n := ws.getD 5 0
  { desc := a 0, fc := (bits f 0 4).toNat, row := (bits f 8 12).toNat, rope := a 2, klist := a 3, vlist := a 4
    nk := (bits n 0 4).toNat + 1, nv := (bits n 4 4).toNat + 1, abase := (bits n 32 19).toNat }

/-- Reserved fields of an entry, its format, the alignment of its lists and ROPE's even rows (R386). -/
def layerBad (ws : List Word) : Bool :=
  let l := layerEntry ws
  [0, 2, 3, 4].any (fun i => bits (ws.getD i 0) 56 8 != 0)
    || bits (ws.getD 1 0) 4 4 != 0 || bits (ws.getD 1 0) 20 44 != 0
    || bits (ws.getD 5 0) 8 24 != 0 || bits (ws.getD 5 0) 51 13 != 0 || ws.getD 6 0 != 0 || ws.getD 7 0 != 0
    || !([0, 1, 2, 3, 4, 6, 7, 8].contains l.fc) || l.klist % 64 != 0 || l.vlist % 64 != 0
    || (l.rope != 0 && l.row % 2 = 1)

/-- The row footprint of an entry (R86). -/
def LayerEntry.rowF (l : LayerEntry) : Nat := if l.row = 0 then 0 else rowBytes (BitVec.ofNat 64 l.fc) l.row

/-- n bytes inside one non-pageable segment with R, of tier 1, or of tier 0 or 1 (R385, R386). -/
def bfSpan (w : Who) (va n : Nat) (tier0 : Bool) : Bool :=
  match findSeg w.segs va with
  | some (_, g) => g.r && !g.pg && (g.tier = 1 || (tier0 && g.tier = 0)) && va + n ≤ g.vbase + g.len
  | none => false

/-- Doublewords of a table the engine reads; reason 11 outside such a segment (R401). -/
def bfTable (w : Who) (va n : Nat) : KvM (List Word) := fun x =>
  if !bfSpan w va (8 * n) true then .error ⟨.segv, va, 11, va, false⟩ x
  else
    match engineRead x.s w va (8 * n) with
    | .error (c, a) => .error ⟨c, a, 0, va, false⟩ x
    | .ok (s, r) =>
      match r.poison with
      | some m => .error ⟨markCode m, va, 0, va, false⟩ { x with s := s }
      | none => .ok (wordsOfBytes r.bytes n) { x with s := s }

/-- An `fsav`, for the checks of R344 on a list descriptor. -/
def plainFsav : Instr := .fsav ⟨0, 0, 0⟩ ⟨0, 0, 0, false, false, 0⟩

/-- A list descriptor that breaks R387. -/
def listBad (dw : List Word) (l : LayerEntry) (hlen : Nat) : Bool :=
  let d := sDesc dw
  descIll plainFsav dw none || d.splitPair || 2 < d.omode || d.nv != 1 || d.oacc || !d.bfa || d.pmap != 0
    || d.cls != 0 || l.row = 0 || d.nout % l.row != 0 || d.aoff < l.abase || hlen < d.aoff - l.abase + d.vecLen

/-- A part that has not been sensed. -/
def newPart (dw : List Word) : PartSense := ⟨dw, false, false, 0, false, [], []⟩

/-- Read and check a sense list (R387). -/
def readList (w : Who) (l : LayerEntry) (hlen : Nat) : Nat → Nat → KvM (List PartSense)
  | 0, _ => pure []
  | n + 1, a => do
    let dw ← bfTable w a 6
    if listBad dw l hlen then kvStop 11 a a
    let r ← readList w l hlen n (a + 64)
    return newPart dw :: r

/-- Check one skipped layer (R388, step 2): its table entry, lists, rotary table, and slot p, EMPTY in its page; the
layer and where its slot's state lies. -/
def checkLayer (w : Who) (p : PostBlock) (j : Nat) : KvM (BfLayer × Nat × Nat) := do
  let at_ := p.ltab + 64 * j
  let ws ← bfTable w at_ 8
  let l := layerEntry ws
  if layerBad ws then kvStop 11 at_ at_
  if l.rope != 0 && !bfSpan w (l.rope + 8 * (p.pos * l.row / 2)) (8 * (l.row / 2)) false then kvStop 11 at_ at_
  let d ← kvHead w l.desc
  if l.rowF != d.f then kvStop 11 at_ at_
  let ks ← readList w l p.hlen l.nk l.klist
  let vs ← readList w l p.hlen l.nv l.vlist
  if d.len ≤ p.pos then kvStop 1 0 l.desc
  if d.cls then kvStop 5 0 l.desc
  kvShape d
  let page := p.pos / d.nslot
  let a ← kvPage w l.desc d page
  let h ← kvFetch w a page d.nslot false
  let i := p.pos % d.nslot
  if stateOf h.states i != 0 then kvStop 10 a a
  return (⟨j, l.desc, l.fc, l.row, l.rope, l.abase, ks, vs, none, false, false⟩, a, i)

/-- Check every skipped layer in turn. -/
def checkLayers (w : Who) (p : PostBlock) : Nat → Nat → KvM (List (BfLayer × Nat × Nat))
  | 0, _ => pure []
  | n + 1, j => do
    let x ← checkLayer w p j
    let r ← checkLayers w p n (j + 1)
    return x :: r

/-- Flip the slots to PENDING in ascending layer order (R388, step 3). -/
def flipAll (w : Who) : List (BfLayer × Nat × Nat) → KvM Unit
  | [] => pure ()
  | (_, a, i) :: r => do
    kvFlip w a i 1
    flipAll w r

/-- The steps of `bfpost` that may fault (R388): every check, then the flips. -/
def runBfpost (w : Who) (p : PostBlock) : KvM (List BfLayer) := do
  if !bfSpan w (p.ltab + 64 * (p.el + 1)) (64 * (p.nl - 1 - p.el)) true then kvStop 11 p.ltab p.ltab
  if !bfSpan w p.hid p.hlen false then kvStop 11 p.hid p.hid
  let l ← checkLayers w p (p.nl - 1 - p.el) (p.el + 1)
  flipAll w l
  return l.map Prod.fst

/-- Entries of the pending table (R377). -/
def pendingCap : Nat := 4096

/-! ## Records in use -/

/-- The record of an id. -/
def recById (s : State) (r : Nat) : Option ExitRec := s.bf.recs.find? (fun x => x.id = r)

/-- A layer that is neither FINAL nor dropped. -/
def BfLayer.open_ (l : BfLayer) : Bool := !l.final && !l.dropped

/-- Remove a record: its vector slots are free again (R389, R390). -/
def removeRec (s : State) (r : Nat) : State :=
  { s with
    bf := { s.bf with recs := s.bf.recs.filter (fun x => x.id != r) }
    wstacks := s.wstacks.map (fun w => { w with bfBuf := w.bfBuf.map (fun b => match b with
      | some b => if b.rec_ = r then none else some b
      | none => none) }) }

/-- Change a layer of a record; a record with no open layer leaves the table (R389). -/
def mapLayer (s : State) (r layer : Nat) (g : BfLayer → BfLayer) : State :=
  let s := { s with bf := { s.bf with recs := s.bf.recs.map (fun x =>
    if x.id = r then { x with layers := x.layers.map (fun l => if l.layer = layer then g l else l) } else x) } }
  match recById s r with
  | some x => if x.layers.any BfLayer.open_ then s else removeRec s r
  | none => s

/-- The parts of a record that lack a sense. -/
def lackingParts (r : ExitRec) : List (PartRef × PartSense) :=
  r.layers.flatMap (fun l =>
    if !l.open_ || l.rows.isSome then []
    else
      let ix (x : List PartSense) (v : Bool) : List (PartRef × PartSense) :=
        ((List.range x.length).zip x).filterMap (fun y =>
          if !y.2.sensed && !y.2.inFlight then some (⟨r.id, l.layer, v, y.1⟩, y.2) else none)
      ix l.ks false ++ ix l.vs true)

/-- The `bfq` record (R397). -/
def bfqRecord (s : State) (slot : Option (Fin 16)) (pos : Nat) : List Word :=
  let l := recsOf s (ctxidOf s slot)
  let b := bfOf s slot
  let age := l.foldl (fun m r => Nat.max m (s.stamp - r.created)) 0
  let here := l.filter (fun r => r.pos = pos)
  let n (g : BfLayer → Bool) : Nat := here.foldl (fun m r => m + (r.layers.filter g).length) 0
  [BitVec.ofNat 64 (l.length % 2 ^ 13 + b.mode.toNat * 2 ^ 13 + (if b.hv then 2 ^ 15 else 0)), b.hz,
    BitVec.ofNat 64 age,
    BitVec.ofNat 64 ((if here.isEmpty then 0 else 1) + n BfLayer.open_ % 256 * 2 + n (fun x => x.dropped) % 256 * 2 ^ 9)]

/-- A dispatched `bfpost` starts (R388): started, it waits for room in the table. -/
def startBfpost (s : State) (k : Fin 16) (loc : Loc) (b : Bank) (j : Job) : State :=
  if pendingCap ≤ s.bf.recs.length then s.setJob k loc { j with phase := .running }
  else
    let p := postBlock (j.e.maps.getD 0 [])
    let w := s.whoOf b.slot k false
    match runBfpost w p ⟨s, Stream.none⟩ with
    | .error f x => stopJob x.s k loc b.slot j f.code f.addr (kvDetail f) 0 f.write
    | .ok ls x =>
      let r : ExitRec :=
        { id := x.s.bf.nextId, slot := b.slot.getD 0, ctx := ctxidOf s b.slot, pos := p.pos, el := p.el, nl := p.nl
          ltab := p.ltab, hid := p.hid, sig := p.sig, hlen := p.hlen, created := s.stamp, flushed := false, layers := ls }
      let s := { x.s with bf := { recs := x.s.bf.recs ++ [r], nextId := r.id + 1 } }
      s.setJob k loc (endJob j s.stamp)

/-- Mark the records `bfflush` names, as its job starts (R396). -/
def flushRecs (s : State) (ctx : Word) (pos : Nat) : State :=
  { s with bf := { s.bf with recs := s.bf.recs.map (fun r =>
      if r.ctx = ctx && r.pos ≤ pos then { r with flushed := true } else r) } }

/-- A dispatched or waiting job of core k's backfill queue starts or goes on (R380, R384, R388, R395 to R397). -/
def startBackfill (s : State) (k : Fin 16) (loc : Loc) (b : Bank) (j : Job) : State :=
  let ctx := ctxidOf s b.slot
  let w := s.whoOf b.slot k true
  let wait (s : State) : State := s.setJob k loc { j with phase := .running }
  if !edgesMet b j then s
  else
    match j.e.i with
    | .xconf _ _ =>
      let n := xconfN j.e.xb
      match engineRead s w j.e.xa.toNat (4 * n) with
      | .error (c, a) => stopJob s k loc b.slot j c a 0 0 false
      | .ok (s, r) =>
        match r.poison with
        | some m => s.setJob k loc (faultJob j (markCode m) j.e.xa 0 0)
        | none =>
          let res := exitWord (exitTest (fp32s r.bytes n) (bits j.e.xb 0 32).toNat) j.seq
          s.setJob k loc { endJob j (s.stamp + 20 + (n + 31) / 32) with result := res }
    | .bfpost _ _ => startBfpost s k loc b j
    | .bfmode _ _ => s.setJob k loc (endJob j s.stamp)
    | .bfwait _ _ =>
      if (recsOf s ctx).any (fun r => r.pos ≤ j.e.xa.toNat) then wait s else s.setJob k loc (endJob j s.stamp)
    | .bfflush _ _ =>
      let s := if j.phase = .running then s else flushRecs s ctx j.e.xa.toNat
      if (recsOf s ctx).any (fun r => r.flushed && r.pos ≤ j.e.xa.toNat && !(lackingParts r).isEmpty) then wait s
      else s.setJob k loc (endJob j s.stamp)
    | .bfq _ _ => recordJob s k loc b j j.e.xa.toNat (bfqRecord s b.slot j.e.xb.toNat)
    | _ => startBadger s k loc b j

/-! ## Vector slots (R390) and standalone senses (R392, R400) -/

/-- The first free vector slot of a stack. -/
def freeSlot (w : Stack) : Option (Fin 16) := (List.finRange 16).find? (fun i => (w.bfBuf.get i).isNone)

/-- Whether a record has a part lacking its sense on stack j. -/
def wantsStack (r : ExitRec) (j : Fin 16) : Bool :=
  (lackingParts r).any (fun p => (maskStacks (sDesc p.2.dw).smask).contains j)

/-- The poison of 32-byte sectors as that of their four 8-byte words. -/
def wordMarks : Nat → List (Option Mark) → AMap Mark
  | _, [] => []
  | i, m :: r =>
    (match m with
     | some k => [(4 * i, k), (4 * i + 1, k), (4 * i + 2, k), (4 * i + 3, k)]
     | none => []) ++ wordMarks (i + 1) r

/-- R394: a page the engine finds not present is asked for, once; the record goes on when it is there. -/
def bfAsk (s : State) (r : ExitRec) (va : Nat) (write : Bool) : State :=
  if pageRequested s (some r.slot) va then s else requestPage s (some r.slot) 0 va write (some 0)

/-- R390: the hidden state of a record goes into a free vector slot of stack j, poison with it. A page not present is
asked for (R394); hidden state that cannot be read otherwise leaves the record's senses on that stack failed (log
entry 17). -/
def execBackfillVectorLoad (rec_ : Nat) (j : Fin 16) (s : State) : Out :=
  .next (
    let w := s.stack j
    match recById s rec_, freeSlot w with
    | some r, some i =>
      if !wantsStack r j || (vectorSlot w rec_).isSome || plStalled s j then s
      else
        let fail (s : State) : State :=
          (lackingParts r).foldl (fun s p =>
            if (maskStacks (sDesc p.2.dw).smask).contains j then mapPart s p.1 failPart else s) s
        whenOpen s [memRegion r.hid r.hlen] (fun s =>
          match engineRead s (s.whoOf (some r.slot) 0 false) r.hid r.hlen with
          | .error (.xf, a) => bfAsk s r a false
          | .error _ => fail s
          | .ok (s, q) =>
            let b : BfSlot := ⟨rec_, r.ctx, q.bytes, wordMarks 0 q.marks⟩
            s.setStack j { s.stack j with bfBuf := (s.stack j).bfBuf.set i.val (some b) i.isLt })
    | _, _ => s)

/-- Whether every core's share of a launch has ended, or it ends on a fault; an abort discards its records (R400). -/
def sharesOver (l : Launch) : Bool :=
  (match l.finishing with
   | some r => r.status != 8
   | none => false) || l.hdr.cormask &&& ~~~l.ended = 0

/-- Whether a record's senses are due without a program's help (R392, R396, R400). -/
def recDue (s : State) (l : Launch) (r : ExitRec) : Bool :=
  l.bf.alim * 600 ≤ s.stamp - r.created || r.flushed || sharesOver l

/-- The first part, in order of the records' age, that a due record of a context lacks, when a sense of it can be
issued: its record has a slot in every stack it addresses. -/
def duePart (s : State) (l : Launch) (ctx : Word) : Option (List Word) :=
  ((recsOf s ctx).filter (recDue s l)).findSome? (fun r =>
    (lackingParts r).findSome? (fun p => if hasSlots s r (sDesc p.2.dw).smask then some p.2.dw else none))

/-- The parts one standalone sense carries: one per record of the context that lacks the descriptor, oldest first. -/
def standaloneParts (s : State) (ctx : Word) (dw : List Word) : List PartRef :=
  ((recsOf s ctx).filterMap (fun r =>
    if hasSlots s r (sDesc dw).smask then (openParts r dw).head? else none)).take 16

/-- R392: the engine issues a standalone sense for records of the launch in a slot whose age limit has passed, that
`bfflush` names, or whose launch has run out. A failed stack ends the sense in a job fault at once (R374, R394). -/
def execBackfillAgeLimit (slot : Fin 16) (s : State) : Out :=
  .next (match s.launch slot with
    | none => s
    | some l =>
      let ctx := ctxidOf s (some slot)
      match duePart s l ctx with
      | none => s
      | some dw =>
        let ps := standaloneParts s ctx dw
        let mask := (sDesc dw).smask
        if (maskStacks mask).any (fun x => (failedReason (s.stack x)).isSome) then
          ps.foldl (fun s p => mapPart s p failPart) s
        else
          (maskStacks mask).foldl (fun s x => sendCmd s x .standalone plainFsav dw ctx .backfill ps 0)
            (markInFlight s mask ps))

/-! ## Rows (R393) -/

/-- A part vector (R387): the outputs of the list in order, as FP32 codes with their poison. -/
def partVector (l : List PartSense) : List (Nat × Option Mark) :=
  l.flatMap (fun p =>
    let d := sDesc p.dw
    (List.range d.nout).map (fun i =>
      let v := (amapGet p.out i).getD 0
      (if d.omode = 2 then v.toNat else r32 (.ofInt v.toInt), amapGet p.bad i)))

/-- X[x] before rotation: the column sum in order, times σ. -/
def rowElem (v : List (Nat × Option Mark)) (row x : Nat) (sig : Nat) : Nat × Option Mark :=
  let l := (List.range (v.length / row)).map (fun t => v.getD (x + row * t) (0, none))
  let a := l.foldl (fun a y => add32 a y.1) 0
  ((fMul 0 (decodeVal 0 a) (decodeVal 0 sig)).1, l.findSome? Prod.snd)

/-- The rotation of a pair of elements by (c, s). -/
def rotPair (x y : Nat × Option Mark) (c s : Nat) : List (Nat × Option Mark) :=
  let d (v : Nat) : Val := decodeVal 0 v
  let u := (fMul 0 (d y.1) (d s)).1
  let w := (fMul 0 (d x.1) (d s)).1
  let m := x.2.or y.2
  [((fFma 0 false true (d x.1) (d c) (d u)).1, m), ((fFma 0 false false (d y.1) (d c) (d w)).1, m)]

/-- The rotation of a K row by the rotary entries of its position. -/
def rotRow (v : List (Nat × Option Mark)) (tab : List Nat) : List (Nat × Option Mark) :=
  (List.range (v.length / 2)).flatMap (fun i =>
    rotPair (v.getD (2 * i) (0, none)) (v.getD (2 * i + 1) (0, none)) (tab.getD (2 * i) 0) (tab.getD (2 * i + 1) 0))

/-- The stored bytes of a row and the poison of its sectors. -/
def storedRow (fc rowF : Nat) (v : List (Nat × Option Mark)) : List Byte × List (Option Mark) :=
  let n := fmtWidth fc / 8
  let bs := v.flatMap (fun x => toBytes n (roundVal (decodeVal 0 x.1) fc).1)
  let ms := v.flatMap (fun x => List.replicate n x.2)
  (bs ++ List.replicate (rowF - bs.length) 0,
    (List.range (rowF / 32)).map (fun i => ((ms.drop (32 * i)).take 32).findSome? id))

/-- The row footprint of a layer. -/
def BfLayer.rowF (l : BfLayer) : Nat := rowBytes (BitVec.ofNat 64 l.fc) l.row

/-- The rows of a layer: K, V and the poison of their sectors. -/
abbrev Rows2 := List Byte × List Byte × List (Option Mark) × List (Option Mark)

/-- The rows of a layer whose senses have all ended (R393, R394), or the address of a rotary-table page that is not
present. A rotary table that cannot be read otherwise, or is poisoned, leaves the rows as a failed sense does (log
entry 17). -/
def formRows (s : State) (r : ExitRec) (l : BfLayer) : Except Nat (State × Rows2) :=
  let f := l.rowF
  let dead : Rows2 :=
    (List.replicate f 0, List.replicate f 0, List.replicate (f / 32) (some .due), List.replicate (f / 32) (some .due))
  if l.ks.any (fun p => p.failed) || l.vs.any (fun p => p.failed) then .ok (s, dead)
  else
    let row (x : List PartSense) : List (Nat × Option Mark) :=
      let v := partVector x
      (List.range l.row).map (fun i => rowElem v l.row i r.sig.toNat)
    let (vb, vm) := storedRow l.fc f (row l.vs)
    if l.rope = 0 then
      let (kb, km) := storedRow l.fc f (row l.ks)
      .ok (s, kb, vb, km, vm)
    else
      match engineRead s (s.whoOf (some r.slot) 0 false) (l.rope + 8 * (r.pos * l.row / 2)) (8 * (l.row / 2)) with
      | .error (.xf, a) => .error a
      | .error _ => .ok (s, dead)
      | .ok (s, q) =>
        if q.poison.isSome then .ok (s, dead)
        else
          let (kb, km) := storedRow l.fc f (rotRow (row l.ks) (fp32s q.bytes l.row))
          .ok (s, kb, vb, km, vm)

/-- R393: once every list descriptor of a layer has been sensed for a record, its rows are formed. -/
def execBackfillRowForm (rec_ layer : Nat) (s : State) : Out :=
  .next (match (recById s rec_).bind (fun r => (r.layers.find? (fun l => l.layer = layer)).map (fun l => (r, l))) with
    | none => s
    | some (r, l) =>
      if !l.open_ || l.rows.isSome || !(l.ks ++ l.vs).all (fun p => p.sensed) then s
      else
        match formRows s r l with
        | .error a => bfAsk s r a false
        | .ok (s, rows) => mapLayer s rec_ layer (fun l => { l with rows := some rows }))

/-! ## Slot writes (R394) -/

/-- Write a row with the poison of its sectors. -/
def kvWriteMarked (w : Who) (va hdr : Nat) (bs : List Byte) (ms : List (Option Mark)) : KvM Unit := fun x =>
  if !kvRights w va bs.length then .error ⟨.segv, va, 0, hdr, true⟩ x
  else
    match engineWrite x.s w va bs ms with
    | (s, some (c, a)) => .error ⟨c, a, 0, hdr, true⟩ { x with s := s }
    | (s, none) => .ok () { x with s := s }

/-- The slot write with the page of p pinned (R394, steps 3 to 5): false when the slot is no longer PENDING. -/
def writePinned (w : Who) (d : KvDesc) (a : Nat) (h : KvHdr) (pos : Nat)
    (rows : List Byte × List Byte × List (Option Mark) × List (Option Mark)) : KvM Bool := do
  let i := pos % d.nslot
  if stateOf h.states i != 1 then return false
  let at_ := h.data + 2 * d.f * i
  kvWriteMarked w at_ a rows.1 rows.2.2.1
  kvWriteMarked w (at_ + d.f) a rows.2.1 rows.2.2.2
  kvFlip w a i 2
  return true

/-- The slot write of a layer (R394): false when the layer is dropped without a fault. -/
def slotWrite (w : Who) (r : ExitRec) (l : BfLayer)
    (rows : List Byte × List Byte × List (Option Mark) × List (Option Mark)) : KvM Bool := fun x =>
  let first : KvM (Option KvDesc) := do
    let d ← kvHead w l.desc
    if d.cls then return none
    kvStc w l.desc true
    return some d
  match first x with
  | .error f x => .error f x
  | .ok none x => .ok false x
  | .ok (some d) x =>
    let fetch : KvM (Nat × KvHdr) := do
      kvShape d
      let page := r.pos / d.nslot
      let a ← kvPage w l.desc d page
      let h ← kvFetch w a page d.nslot true
      return (a, h)
    let lower (x : KvSt) : KvSt :=
      match kvStc w l.desc false x with
      | .ok _ x => x
      | .error _ x => x
    match fetch x with
    | .error f x => .error f (lower x)
    | .ok (a, h) x =>
      let unpin (x : KvSt) : KvSt := kvUnpinAll w d.pool [⟨0, a, 0⟩] x
      match writePinned w d a h r.pos rows (lower x) with
      | .error f x => .error f (unpin x)
      | .ok b x => .ok b (unpin x)

/-- Owl's record of a dropped layer (R394): the position, the layer and the fault code, by the service core (log entry
16). -/
def owlDrop (s : State) (r : ExitRec) (layer : Nat) (c : FaultCode) : State :=
  owl s 0xFFF r.ctx (BitVec.ofNat 64 (r.pos % 2 ^ 48 + layer % 256 * 2 ^ 48 + c.byte.toNat * 2 ^ 56))

/-- R394: the engine writes a layer's slot and flips it to FINAL, or drops the layer; a page not present is asked for,
and the record goes on once it is there. -/
def execBackfillSlotWrite (rec_ layer : Nat) (s : State) : Out :=
  .next (match (recById s rec_).bind (fun r => (r.layers.find? (fun l => l.layer = layer)).map (fun l => (r, l))) with
    | none => s
    | some (r, l) =>
      match l.rows with
      | none => s
      | some rows =>
        if !l.open_ then s
        else
          match slotWrite (s.whoOf (some r.slot) 0 false) r l rows ⟨s, Stream.none⟩ with
          | .ok true x => mapLayer x.s rec_ layer (fun l => { l with final := true })
          | .ok false x => mapLayer x.s rec_ layer (fun l => { l with dropped := true })
          | .error f x =>
            if f.code = .xf then bfAsk s r f.addr f.write
            else mapLayer (owlDrop x.s r layer f.code) rec_ layer (fun l => { l with dropped := true }))

end Sys2Proof.Machine
end

