-- ==== Sys2Proof/Machine/Power.lean ====
section
/-!
DEFINITION. Power, current and thermal control (R423 to R446): cadence, boost tokens, energy counters and charges, the
current-slew limiter, band switching, undervolting and the margin guard, fallback, and the compute-die trip.
-/
namespace Sys2Proof.Machine

/-! ## Cadence (R424, R425) -/

/-- The hottest sensor of the compute die (R425). -/
def hottest (s : State) : Nat := s.pow.clTemp.toList.foldl Nat.max s.pow.uncTemp

/-- PS as the power controller uses it: 700 W in fallback (R444). -/
def psNow (s : State) : Nat := if s.pow.fallback then 700 else s.pow.ps

/-- CADS of a cluster (R425): by its hottest sensor, and at least ceil(1,400 / PS). -/
def cads (s : State) (cl : Fin 4) : Nat :=
  let t := s.pow.clTemp.get cl
  let byTemp := if t ≤ 85 then 2 else if t ≤ 95 then 3 else if t ≤ 102 then 4 else 8
  Nat.max byTemp ((1400 + psNow s - 1) / psNow s)

/-- The full allowance of plane-senses per window (R373, R425). -/
def fullAllowance (s : State) : Nat := 7314 * psNow s / 700

/-! ## Boost tokens (R427 to R429) -/

/-- The launches that share the boost tokens: RUNNING, PREEMPTED or HELD. -/
def boosted (s : State) : List (Fin 16 × Launch) :=
  (List.finRange 16).filterMap (fun i => match s.launch i with
    | some l => if l.state = .running || l.state = .preempted || l.state = .held then some (i, l) else none
    | none => none)

/-- Whether a launch comes before another for a left-over token: greater SHARE, then lower LSEQ. -/
def tokenBefore (a b : Launch) : Bool := b.share < a.share || (a.share = b.share && a.lseq.ult b.lseq)

/-- The share of BH a launch among others receives (R427). -/
def boostShare (bh : Nat) (all : List Launch) (l : Launch) : Nat :=
  let total := all.foldl (fun n x => n + x.share) 0
  if total = 0 then 0
  else
    let given := all.foldl (fun n x => n + bh * x.share / total) 0
    let before := (all.filter (fun x => tokenBefore x l)).length
    bh * l.share / total + (if before < bh - given then 1 else 0)

/-- R427: a boost epoch begins; `em` is the module's energy in mJ over the epoch just ended. -/
def execBoostEpoch (em : Nat) (s : State) : Out :=
  .next (
    let n := s.pow.boostWin + 1
    if s.stamp < 600000 * n then s
    else
      let br := min (2000000 : Int) (s.pow.br + 900 - em)
      let bh := if s.pow.fallback then 0 else Nat.min 40 (br.toNat * 4 / 15)
      let s := { s with pow := { s.pow with boostWin := n, br := br, bh := bh, boostOff := s.pow.fallback } }
      let all := boosted s
      all.foldl (fun s p =>
        let t := boostShare bh (all.map Prod.snd) p.2
        s.setLaunch p.1 (some { p.2 with btok := min (64 : Int) (p.2.btok + t) })) s)

/-- b, the ticks of its phase that a context has run on a cluster by tick t (R429). -/
def ranOn (l : Launch) (c : Fin 4) (t : Nat) : Nat :=
  l.ran.get c + (match l.onSince.get c with
    | some u => t - Nat.max u l.phaseStart
    | none => 0)

/-- The tokens spent in the phase that ends at tick t (R429): ceil(b / 60,000) for each cluster of the launch at CAD 1. -/
def phaseSpending (l : Launch) (t : Nat) : Nat :=
  ((List.finRange 4).filter (fun c => bit l.hdr.clmask c.val && l.cad.get c = 1)).foldl
    (fun n c => n + (ranOn l c t + 59999) / 60000) 0

/-- Settle the phase of a launch (R429): BTOK falls, to −8 at least; spending beyond is logged. -/
def settlePhase (s : State) (slot : Fin 16) (l : Launch) : State :=
  let n := phaseSpending l s.stamp
  let left := l.btok - (n : Int)
  let s := s.setLaunch slot (some { l with
    btok := max (-8 : Int) left, ran := Vector.replicate 4 0, phaseStart := s.stamp })
  if left < -8 then logPower s 2 0 (-8 - left).toNat (ctxidOf s (some slot)) else s

/-- The cadence of a launch from a release on (R424, R428): boost for every cluster, or CADS. -/
def setCadence (s : State) (slot : Fin 16) (l : Launch) : State :=
  let boost := 1 ≤ l.btok && hottest s ≤ 90 && !s.pow.boostOff
  let cad : Vector Nat 4 := Vector.ofFn (fun c => if !bit l.hdr.clmask c.val then l.cad.get c
    else if boost then 1 else cads s c)
  let s := s.setLaunch slot (some { l with cad := cad })
  if boost then logPower s 1 0 l.btok.toNat (ctxidOf s (some slot)) else s

/-! ## Windows of 60,000 ticks (R373, R430, R431, R442) -/

/-- The voltage of a PL island at an allowance (R442): 5 mV less for each 10 % withheld, to Vmin at least. -/
def plVoltage (isl allow : Nat) : Nat := Nat.max (Config.vmin isl) (Config.vsafe isl - 5 * ((7314 - allow) * 10 / 7314))

/-- Grant every stack its allowance when a window has begun since the last grant (R373). -/
def rollAllowance (s : State) : State :=
  let n := s.stamp / 60000
  if n ≤ s.pow.allowWin then s
  else
    let a := fullAllowance s
    let volt := Vector.ofFn (fun (i : Fin 40) =>
      if 20 ≤ i.val && i.val < 36 && !s.pow.fallback then plVoltage i.val a else s.pow.volt.get i)
    { s with
      pow := { s.pow with allowWin := n, volt := volt }
      wstacks := s.wstacks.map (fun w => { w with allow := a, used := 0 }) }

/-- R373: a window of 60,000 ticks begins. -/
def execSenseAllowanceWindow (s : State) : Out := .next (rollAllowance s)

/-- The ticks that [a, b) and [lo, hi) share. -/
def overlap (a b lo hi : Nat) : Nat := Nat.min b hi - Nat.max a lo

/-- The contexts that ran on a core in a window, with their ticks (R431). -/
def runTicks (c : Core) (lo hi : Nat) : List (Word × Nat) :=
  (c.runs.map (fun r => (r.1, overlap r.2.1 r.2.2 lo hi))) ++
  (match c.runFrom with
   | some (x, t) => [(x, overlap t hi lo hi)]
   | none => [])

/-- Charge what island CLc drew in a window: each core takes a quarter (R431). -/
def chargeCluster (s : State) (cl : Fin 4) (uj lo hi : Nat) : State :=
  let l := ((List.finRange 16).filter (fun k => k.val / 4 = cl.val)).flatMap (fun k => runTicks (s.core k) lo hi)
  let ctxs := (l.map Prod.fst).eraseDups
  ctxs.foldl (fun s x =>
    let t := (l.filter (fun p => p.1 = x)).foldl (fun n p => n + p.2) 0
    chargeEnergy s x (uj * 1000 * t / 240000)) s

/-- The spans in which core k's arrays held units, up to tick hi, filler included (R431, R436). -/
def heldSpans (s : State) (k : Fin 16) (hi : Nat) : List BandUse :=
  let h := s.pow.held.get k
  (s.core k).bandUse ++ (if h.units = 0 then [] else [⟨h.bands, h.units, h.since, hi⟩])

/-- The share of a span's units that stands on each of its bands, in twelfths: they spread evenly. -/
def unitsPerBand (u : BandUse) : Nat :=
  let n := ((List.range 4).filter (fun i => bit u.bands i)).length
  if n = 0 then 0 else u.units * (12 / n)

/-- Charge what island BDcb drew in a window, in proportion to the active band-units, each tick to the context that runs on
the core (R431). -/
def chargeBand (s : State) (cl b : Fin 4) (uj lo hi : Nat) : State :=
  let us := ((List.finRange 16).filter (fun k => k.val / 4 = cl.val)).flatMap (fun k =>
    ((heldSpans s k hi).filter (fun u => bit u.bands b.val)).map (fun u => (k, u)))
  let total := us.foldl (fun n p => n + unitsPerBand p.2 * overlap p.2.lo p.2.hi lo hi) 0
  let l := us.flatMap (fun p => (runTicks (s.core p.1) (Nat.max lo p.2.lo) (Nat.min hi p.2.hi)).map (fun r =>
    (r.1, unitsPerBand p.2 * r.2)))
  if total = 0 then s
  else
    ((l.map Prod.fst).eraseDups).foldl (fun s x =>
      let t := (l.filter (fun p => p.1 = x)).foldl (fun n p => n + p.2) 0
      chargeEnergy s x (uj * 1000 * t / total)) s

/-- R430, R431: a window ends; `uj` lists the energy in µJ that each island drew in it. -/
def execEnergyWindow (uj : List Nat) (s : State) : Out :=
  .next (
    let lo := 60000 * s.pow.energyWin
    let hi := lo + 60000
    if s.stamp < hi then s
    else
      let eni := Vector.ofFn (fun (i : Fin 40) => s.pow.eni.get i + BitVec.ofNat 64 (uj.getD i.val 0))
      let s := { s with pow := { s.pow with eni := eni, energyWin := s.pow.energyWin + 1 } }
      let s := (List.finRange 4).foldl (fun s c => chargeCluster s c (uj.getD (16 + c.val) 0) lo hi) s
      let s := (List.finRange 4).foldl (fun s c =>
        (List.finRange 4).foldl (fun s b => chargeBand s c b (uj.getD (4 * c.val + b.val) 0) lo hi) s) s
      { s with cores := s.cores.map (fun c =>
          { c with runs := c.runs.filter (fun r => hi < r.2.2), bandUse := c.bandUse.filter (fun u => hi < u.hi) }) })

/-! ## The current-slew limiter (R433 to R437) -/

/-- STEP(x) (R434). -/
def limStep (x : Nat) : Nat := if x < 16 then 4 else if x < 48 then 8 else if x < 96 then 16 else 32

/-- What an array offers for release at boundary B (R435, R436): the units of a job that has completed, or those its
running job does not need; nothing while its core waits for a grant or has one it has not used. -/
def offered (p : Power) (k : Fin 16) (bd : Nat) : Nat :=
  let h := p.held.get k
  if p.reqs.any (fun r => r.core = k) || p.granted.any (fun g => g.1 = k) then 0
  else
    match h.doneTick with
    | none => 0
    | some d => if d ≤ bd then h.units else h.units - h.need

/-- The order of releases (R435): by completion tick, then by core; the difference a covered job leaves over has the
completion tick of the job before it (R436). -/
def releaseKey (p : Power) (bd : Nat) (k : Fin 16) : Nat :=
  let h := p.held.get k
  match h.doneTick with
  | some d => 16 * (if d ≤ bd then d else h.prev.getD d) + k.val
  | none => k.val

/-- Insertion by key. -/
def insertKey (key : Fin 16 → Nat) (k : Fin 16) : List (Fin 16) → List (Fin 16)
  | [] => [k]
  | x :: r => if key k ≤ key x then k :: x :: r else x :: insertKey key k r

/-- One array's release towards the floor F (R435, step 1). -/
def releaseOne (fl bd : Nat) (p : Power) (k : Fin 16) : Power :=
  let n := Nat.min (offered p k bd) (p.na - fl)
  let h := p.held.get k
  { p with na := p.na - n, held := p.held.set k.val { h with units := h.units - n } k.isLt }

/-- Step 1 of R435. -/
def limReleases (p : Power) (bd : Nat) : Power :=
  let fl := if p.na = 0 then 0 else p.na - limStep (p.na - 1)
  let order := ((List.finRange 16).filter (fun k => 0 < offered p k bd)).foldl
    (fun l k => insertKey (releaseKey p bd) k l) []
  order.foldl (releaseOne fl bd) p

/-- The waiting requests made by boundary B, by request tick, then by core (R435, step 3). -/
def limQueue (p : Power) (bd : Nat) : List LimReq :=
  let ins (r : LimReq) (l : List LimReq) : List LimReq :=
    let before (x : LimReq) : Bool := x.tick < r.tick || (x.tick = r.tick && x.core.val ≤ r.core.val)
    l.filter before ++ [r] ++ l.filter (fun x => !before x)
  (p.reqs.filter (fun r => r.tick ≤ bd)).foldl (fun l r => ins r l) []

/-- Grants in order while they fit (R435, step 3). -/
def limGrants (bd : Nat) : List LimReq → Power → Power
  | [], p => p
  | r :: t, p =>
    if p.na + r.w ≤ p.perm then
      let h := p.held.get r.core
      limGrants bd t { p with
        na := p.na + r.w
        held := p.held.set r.core.val { h with units := h.units + r.w } r.core.isLt
        reqs := p.reqs.filter (fun x => !(x.core = r.core && x.seq = r.seq))
        granted := p.granted ++ [(r.core, r.seq, bd)] }
    else p

/-- One step boundary (R435). -/
def limBoundary (p : Power) (bd : Nat) : Power :=
  let p := limReleases p bd
  let q := limQueue p bd
  let p := { p with perm := if q.isEmpty then p.na else Nat.min 128 (p.perm + limStep p.perm) }
  limGrants bd q p

/-- The next boundary at which the limiter has anything to do: with NA = 0 those before the first request pass with
PERM = 0. -/
def limNextAt (s : State) : Nat :=
  let p := s.pow
  if p.na != 0 then p.limNext
  else
    match p.reqs.map LimReq.tick with
    | [] => Nat.max p.limNext (s.stamp / 2 * 2)
    | t :: r => Nat.max p.limNext ((r.foldl Nat.min t + 1) / 2 * 2)

/-- R435: the limiter takes its next step boundary, an even tick. -/
def execLimiterStep (s : State) : Out :=
  .next (
    let bd := limNextAt s
    if s.stamp < bd then s
    else
      let p := if s.pow.limNext < bd then { s.pow with perm := 0 } else s.pow
      let q := { limBoundary p bd with limNext := bd + 2 }
      -- the spans of the arrays whose units change end here (R431)
      let s := ((List.finRange 16).filter (fun k => (p.held.get k).units != (q.held.get k).units)).foldl
        (fun s k => closeSpan s k bd) s
      { s with pow := { q with held := Vector.ofFn (fun k => { q.held.get k with since := (s.pow.held.get k).since }) } })

/-! ## Band power switching (R438) -/

/-- Whether a matrix entry of core k that has not started maps onto physical band b. -/
def mapsOnto (s : State) (k : Fin 16) (b : Fin 4) (j : Job) : Bool :=
  j.eng = .matrix && (j.phase = .queued || j.phase = .dispatched) && onArrays j.e.i
    && (mappedBands (s.core k) (bandCount j.e.mash)).contains b

/-- Whether a queued entry of a resident context of cluster c maps onto band b. -/
def bandWanted (s : State) (c b : Fin 4) : Bool :=
  (List.finRange 16).any (fun k => k.val / 4 = c.val &&
    ((s.bankAt k false).jobs.any (mapsOnto s k b) || (s.bankAt k true).jobs.any (mapsOnto s k b)))

/-- R438: island BDcb has been unused for 60,000 ticks and is switched off. -/
def execBandSwitchOff (c b : Fin 4) (s : State) : Out :=
  .next (
    let n := 4 * c.val + b.val
    if bandWanted s c b || s.stamp < s.pow.bandIdle.getD n 0 + 60000 then s
    else { s with pow := { s.pow with bandOff := s.pow.bandOff ||| (1#16 <<< n) } })

/-- Whether the head of core k's matrix queue needs band b. -/
def headNeeds (s : State) (k : Fin 16) (b : Fin 4) : Bool :=
  match (s.active k).jobs.find? (fun j => j.eng = .matrix && (j.phase = .queued || j.phase = .dispatched)) with
  | some j => mapsOnto s k b j
  | none => false

/-- R438: an entry at the head of its queue wakes a band that is off, which takes 240 ticks. -/
def execBandWake (c b : Fin 4) (s : State) : Out :=
  .next (
    let n := 4 * c.val + b.val
    if bit s.pow.bandOff n && (List.finRange 16).any (fun k => k.val / 4 = c.val && headNeeds s k b) then
      { s with pow := { s.pow with
          bandOff := s.pow.bandOff &&& ~~~(1#16 <<< n)
          wakeAt := s.pow.wakeAt.setIfInBounds n (s.stamp + 240) } }
    else s)

/-! ## Undervolting and the margin guard (R439, R440) -/

/-- The voltage of a CL island after a window with `errs` corrected errors (R439). -/
def undervolt (isl m v errs : Nat) : Nat :=
  if errs ≤ 2 ^ (7 - m) - 1 && Config.vmin isl < v then Nat.max (Config.vmin isl) (v - 5)
  else if 2 ^ (8 - m) ≤ errs then Nat.max v (Nat.min (Config.vsafe isl) (v + 5))
  else v

/-- R439: a window of 60,000,000 ticks has ended on island CLc, with the corrected SRAM errors counted in it and `errs`
more, of cells no model shows. A retained island keeps its voltage (R445). -/
def execUndervoltWindow (cl : Fin 4) (errs : Nat) (s : State) : Out :=
  .next (
    let p := s.pow
    let n := p.uvWin.get cl + 1
    if s.stamp < 60000000 * n then s
    else
      let isl := 16 + cl.val
      let v := p.volt.getD isl 0
      let held := p.fallback || p.suspendUntil.get cl != 0 || islandVolt s isl != v
      let c := p.corrErrs.get cl + errs
      { s with pow := { p with
          uvWin := p.uvWin.set cl.val n cl.isLt
          corrErrs := p.corrErrs.set cl.val 0 cl.isLt
          volt := if held then p.volt else p.volt.setIfInBounds isl (undervolt isl (p.marginM.get cl) v c) } })

/-- Poison what an uncorrectable error of an array of core k hits (R109, R293). -/
def markCore (s : State) (k : Fin 16) (arr o : Nat) (m : Mark) : State :=
  let loc := Loc.bank (s.core k).second
  if arr = 0 then s.setPoison (onKey (k.val * 0x1000000 + o)) (some m)
  else if arr = 1 then
    s.onBank k loc (fun b => putTile b (o / 65536) (poisonRow (getTile b (o / 65536)) (o % 65536 / 512) m))
  else s.onBank k loc (fun b => markVreg b o m)

/-- Poison what an uncorrectable error of a store of stack j's page-logic die hits (R357). -/
def markPL (s : State) (j : Fin 16) (arr o : Nat) (m : Mark) : State :=
  let w := s.stack j
  if arr = 4 then s.setStack j { w with actPoison := amapSet w.actPoison (o / 8) (some m) }
  else if arr = 5 then s.setStack j { w with scaleBad := amapSet w.scaleBad (o / 8) (some m) }
  else
    let slots := Vector.ofFn (fun (i : Fin 16) => (w.bfBuf.get i).map (fun b =>
      if i.val = o / 8192 then { b with bad := amapSet b.bad (o % 8192 / 8) (some m) } else b))
    s.setStack j { w with bfBuf := slots }

/-- R440: an uncorrectable error in an array of an island; below Vsafe it is a margin event. `core` is the core, or the
stack for a page-logic island. -/
def execMarginEvent (isl : Fin 40) (core : Fin 16) (arr : BitVec 4) (addr : Nat) (s : State) : Out :=
  .next (
    let a := arr.toNat
    if isl = clIsland core && a ≤ 2 then
      let ctx := ctxidOf s (s.active core).slot
      let (v, s) := s.draw
      let (s, m, kind) := sramError s isl ctx
      markCore (logArray s core addr a kind (v.toNat % 256) ctx) core a addr m
    else if isl = plIsland core && 4 ≤ a && a ≤ 6 then
      let (v, s) := s.draw
      let (s, m, kind) := sramError s isl 0
      markPL (logArrayPL s core addr a kind (v.toNat % 256) 0) core a addr m
    else s)

/-- R440: Vsafe is reached and the island's clocks run again. -/
def execMarginStallEnd (isl : Fin 40) (s : State) : Out :=
  .next (
    if s.pow.stallUntil.get isl ≤ s.stamp then
      { s with pow := { s.pow with stalled := s.pow.stalled &&& ~~~(1#40 <<< isl.val) } }
    else s)

/-- R440: after 60 s undervolting resumes on an island, from Vsafe. -/
def execUndervoltResume (cl : Fin 4) (s : State) : Out :=
  .next (
    let t := s.pow.suspendUntil.get cl
    if t = 0 || s.stamp < t then s
    else
      let isl := 16 + cl.val
      let s := { s with pow := { s.pow with
        suspendUntil := s.pow.suspendUntil.set cl.val 0 cl.isLt
        volt := s.pow.volt.setIfInBounds isl (Config.vsafe isl) } }
      logPower s 4 isl (Config.vsafe isl) 0)

/-! ## Fallback (R443, R444) -/

/-- Enter fallback: every island at Vsafe, no boost until the first epoch after it (R444). -/
def enterFallback (s : State) : State :=
  if s.pow.fallback then s
  else
    logPowerOpen { s with pow := { s.pow with
      fallback := true, boostOff := true, bh := 0, volt := Vector.ofFn (fun i => Config.vsafe i.val) } } 5 0 0

/-- R443: the power firmware has missed its watchdog signal. -/
def execWatchdogExpiry (s : State) : Out := .next (enterFallback s)

/-- R444: signed firmware runs again. -/
def execFallbackEnd (s : State) : Out :=
  .next (if s.pow.fallback then logPowerOpen { s with pow := { s.pow with fallback := false } } 6 0 0 else s)

/-! ## The compute-die trip (R426) -/

/-- A FINAL ABORTED record with CODE 0 for the launch in a slot. -/
def tripLaunch (s : State) (i : Fin 16) : State :=
  match s.launch i with
  | none => s
  | some l =>
    if l.state = .ended then s
    else
      let ctx := ctxidOf s (some i)
      let s := s.setLaunch i (some { l with state := .ended, finishing := none, savedBanks := [] })
      let s := { s with ls := { s.ls with outcomes := s.ls.outcomes ++ [(l.lseq, false)] } }
      pushRecord s (mkRecord s l 0x08 0 true 0 0 0) ctx

/-- A core with no context: its banks and queues are empty; what belongs to the core stays. -/
def emptyCore (c : Core) : Core :=
  { Core.init with
    adef := c.adef, seq := c.seq, testBand := c.testBand, runs := c.runs, bandUse := c.bandUse, parked := c.parked
    parkAt := c.parkAt, exitAt := c.exitAt }

/-- R426: a sensor of the compute die has reached 110 °C: every core stops, every launch is aborted, and the die is held
in reset until the host resets the module. Jobs in flight are abandoned. -/
def execComputeDieTrip (s : State) : Out :=
  .next (
    if s.pow.dieHeld || hottest s < 110 then s
    else
      let s := (List.finRange 16).foldl tripLaunch s
      let s := { s with
        cores := s.cores.map emptyCore
        bf := { s.bf with recs := [] }
        ls := { s.ls with pageReqs := [] }
        wstacks := s.wstacks.map (fun w => { w with cmds := [] })
        pow := { s.pow with
          dieHeld := true, reqs := [], granted := [], na := 0, perm := 0
          held := Vector.replicate 16 LimHeld.init } }
      dumpOwl (logPowerOpen s 8 0 0))

end Sys2Proof.Machine
end

