-- ==== Sys2Proof/Machine/Launch.lean ====
section
/-!
DEFINITION. Launches (R94 to R96, R129 to R134, R453, R454): the header and the segment table with their checks, the
doorbell, the decision of a submission, after-tokens, and where the work identifiers go.
-/
namespace Sys2Proof.Machine

/-! ## The header (R129, R130) -/

/-- The header's 16 doublewords. -/
def hdrWords (s : State) (pa : Nat) : List Word := (List.range 16).map (fun i => s.wordAt (pa + 8 * i))

/-- The fields of a header. -/
def hdrOf (ws : List Word) : Header :=
  let w (i : Nat) : Word := ws.getD i 0
  { entry := (bits (w 0) 0 56).toNat
    segt := (bits (w 1) 0 48).toNat
    widths := (List.range 6).map (fun i => (bits (w 2) (8 * i) 8).toNat)
    nf := (bits (w 2) 48 8).toNat
    places := (List.range 6).map (fun i => (bits (w 3) (2 * i) 2).toNat)
    clmask := bits (w 3) 12 4
    cormask := bits (w 3) 16 16
    exts := (List.range 6).map (fun i => (w (4 + i)).toNat)
    prio := (bits (w 10) 0 2).toNat
    share := (bits (w 10) 8 8).toNat
    energy := (w 11).toNat
    aft0 := bits (w 12) 0 32
    aft1 := bits (w 12) 32 32
    fmti := (bits (w 13) 0 48).toNat
    arg := w 14
    frec := (bits (w 15) 0 56).toNat }

/-- Whether a reserved field of a header is not zero. -/
def hdrReserved (ws : List Word) : Bool :=
  let w (i : Nat) : Word := ws.getD i 0
  bits (w 0) 56 8 != 0 || bits (w 1) 48 16 != 0 || bits (w 2) 56 8 != 0 || bits (w 3) 32 32 != 0
    || bits (w 10) 2 6 != 0 || bits (w 10) 16 48 != 0 || bits (w 13) 48 16 != 0 || bits (w 15) 56 8 != 0

/-- The enabled cores of a cluster, ascending. -/
def clusterCores (h : Header) (c : Fin 4) : List (Fin 16) :=
  (List.finRange 16).filter (fun k => k.val / 4 = c.val && bit h.cormask k.val)

/-- The conditions of R130 on one field of the work identifier. -/
def fieldOk (h : Header) (i : Nat) : Bool :=
  let w := h.widths.getD i 0
  if i < h.nf then 1 ≤ w && w ≤ 64 && h.exts.getD i 0 < 2 ^ w && h.places.getD i 0 != 3
  else w = 0 && h.exts.getD i 0 = 0 && h.places.getD i 0 = 0

/-- Every condition of R130 that the header alone decides. -/
def hdrOk (ws : List Word) : Bool :=
  let h := hdrOf ws
  h.entry % 4 = 0 && h.segt % 32 = 0 && tier1Ok h.segt 32
    && (h.fmti = 0 || (h.fmti % 64 = 0 && tier1Ok h.fmti 512))
    && 1 ≤ h.nf && h.nf ≤ 6 && (List.range 6).all (fieldOk h) && h.widths.foldl (· + ·) 0 ≤ 64
    && h.clmask != 0
    && (List.finRange 16).all (fun k => !bit h.cormask k.val || bit h.clmask (k.val / 4))
    && (List.finRange 4).all (fun c => !bit h.clmask c.val || clusterCores h c != [])
    && (h.frec = 0 || h.frec % 0x10000 = 0) && !hdrReserved ws

/-! ## The segment table (R94 to R96) -/

/-- The four doublewords of entry i of a segment table. -/
def segWords (s : State) (segt i : Nat) : List Word :=
  (List.range 4).map (fun j => s.wordAt (segt + 32 + 32 * i + 8 * j))

/-- A segment-table entry (R95). -/
def segOf (ws : List Word) : Seg :=
  let w (i : Nat) : Word := ws.getD i 0
  { vbase := (bits (w 0) 0 56).toNat, len := (bits (w 1) 0 56).toNat, pbase := (bits (w 2) 0 48).toNat
    r := bit (w 3) 0, w := bit (w 3) 1, x := bit (w 3) 2, tier := (bits (w 3) 3 2).toNat, pg := bit (w 3) 5
    chk := bit (w 3) 6, home := (bits (w 3) 8 5).toNat }

/-- Whether a reserved field of an entry is not zero; PBASE is zero where R95 says so. -/
def segReserved (ws : List Word) : Bool :=
  let w (i : Nat) : Word := ws.getD i 0
  let g := segOf ws
  bits (w 0) 56 8 != 0 || bits (w 1) 56 8 != 0 || bits (w 2) 48 16 != 0 || bit (w 3) 7 || bits (w 3) 13 51 != 0
    || ((g.tier = 0 || g.pg) && g.pbase != 0)

/-- The conditions of R96 on one segment; tiers 1 and 2 lie from 0x1000_0000 up in the 56-bit virtual space (R90; log
entry 28). -/
def segOk (ws : List Word) : Bool :=
  let g := segOf ws
  let place :=
    if g.tier = 0 then
      g.vbase % 32 = 0 && g.len % 32 = 0 && sliceOk g.vbase g.len && !g.pg
        && (g.home = 0 || (16 ≤ g.home && g.vbase / 0x1000000 = g.home - 16))
    else
      g.vbase % 0x10000 = 0 && g.len % 0x10000 = 0 && g.pbase % 0x10000 = 0 && 0x10000 ≤ g.len && g.home = 0
        && 0x10000000 ≤ g.vbase && g.vbase + g.len ≤ 2 ^ 56
        && (g.pg || (if g.tier = 1 then tier1Ok g.pbase g.len else tier2Ok g.pbase g.len))
  g.tier != 3 && place && (!g.x || (g.tier = 1 && !g.w && !g.pg)) && (!g.chk || g.tier ≤ 1) && !segReserved ws

/-- No two segments overlap (R96). -/
def segsApart : List Seg → Bool
  | [] => true
  | g :: r => r.all (fun x => x.vbase + x.len ≤ g.vbase || g.vbase + g.len ≤ x.vbase) && segsApart r

/-- The table at SEGT, if it lies in populated tier 1 and is valid (R96, R130): the segments and ROOT.
Bits [63:7] of the header's first doubleword must be zero (DESIGN CHOICE, log entry 58). -/
def readSegs (s : State) (segt : Nat) : Option (List Seg × Nat) :=
  let w0 := s.wordAt segt
  let n := (bits w0 0 7).toNat
  if 1 ≤ n && n ≤ 64 && tier1Ok segt (32 + 32 * n) && bits w0 7 57 = 0 && s.wordAt (segt + 16) = 0
      && s.wordAt (segt + 24) = 0 && (List.range n).all (fun i => segOk (segWords s segt i)) then
    let l := (List.range n).map (fun i => segOf (segWords s segt i))
    if segsApart l then some (l, (s.wordAt (segt + 8)).toNat) else none
  else none

/-- ENTRY lies in a segment with X, and the FREC area in a non-pageable tier-1 segment with R and W (R130). -/
def hdrSegsOk (h : Header) (l : List Seg) : Bool :=
  l.any (fun g => g.x && g.vbase ≤ h.entry && h.entry < g.vbase + g.len)
    && (h.frec = 0 || l.any (fun g => g.tier = 1 && !g.pg && g.r && g.w && g.vbase ≤ h.frec
        && h.frec + 0x10000 ≤ g.vbase + g.len))

/-! ## Submission (R131, R453) -/

/-- A header of zeros, before the header is read. -/
def Header.zero : Header := hdrOf []

/-- A launch that has just taken a slot. -/
def Launch.submitted (lseq : BitVec 32) (m : Submission) (t : Nat) : Launch :=
  { lseq := lseq, hdrPA := m.hdr.toNat, savePA := m.save.toNat, ovr := m.ovr, ovrEnergy := m.en, hdr := .zero,
    segs := [], root := 0, state := .submitted, hold := .none, prio := 0, share := 0, energy := 0, eff := 0, aged := 0,
    since := t, waited := 0, started := false, phase := 0, sweptAt := none, arrived := 0, lastArrival := 0, ended := 0,
    cad := Vector.replicate 4 2, ran := Vector.replicate 4 0, onSince := Vector.replicate 4 none,
    phaseStart := t, energySet := false, energyNJ := 0, btok := 0, bf := ⟨1, false, 0, 2000⟩,
    finishing := none, leaving := false, savedBanks := [] }

/-- Whether BAR2 accepts a doorbell: booted, not in recovery, not parked, and neither the compute die held in reset nor
the host port's IDE stopped (R426, R458, R463, R467, R469). -/
def doorbellOpen (s : State) : Bool :=
  s.svc.booted && !s.svc.recovery && !s.svc.parked && !s.pow.dieHeld && !s.host.ideStopped

/-- R452, R453: a write to DOORBELL. A submission in progress makes it a lost one. -/
def execDoorbell (v : Word) (s : State) : Out :=
  .next (
    let h := s.host
    if v != 1 || !doorbellOpen s then s
    else if bit h.subres 63 then { s with host := { h with subres := h.subres ||| 0x4000000000000000#64 } }
    else
      { s with host := { h with
          subres := h.subres ||| 0x8000000000000000#64
          captured := some ⟨h.subhdr, h.subsave, h.subovr, h.suben, s.stamp⟩ } })

/-- The next launch token: it skips 0 on wrap (R131). -/
def nextToken (n : BitVec 32) : BitVec 32 := if n + 1 = 0 then 1 else n + 1

/-- The lowest free launch slot. -/
def freeLaunchSlot (s : State) : Option (Fin 16) := (List.finRange 16).find? (fun i => (s.launch i).isNone)

/-- The first of R130's checks, and SUBRES (R131, R453): a slot and a token, or NOSLOT with its record. -/
def answerSubmission (s : State) (m : Submission) : State :=
  let put (s : State) (v : Word) : State := { s with host := { s.host with subres := v, captured := none } }
  match freeLaunchSlot s with
  | none => pushRecord (put s 0x400000000#64) ⟨0, 4, 0, true, 0, 0, 0, 0, s.stampW⟩ 0
  | some i =>
    let n := s.ls.nextLseq
    let s := s.setLaunch i (some (Launch.submitted n m s.stamp))
    put { s with ls := { s.ls with nextLseq := nextToken n } } (n.setWidth 64)

/-! ## Outcomes and after-tokens (R132) -/

/-- Remember how a launch ended: the last 4,096. -/
def noteOutcome (s : State) (lseq : BitVec 32) (done : Bool) : State :=
  let l := s.ls.outcomes ++ [(lseq, done)]
  { s with ls := { s.ls with outcomes := l.drop (l.length - 4096) } }

/-- Whether an after-token is satisfied, has failed, or is still open. -/
def afterToken (s : State) (t : BitVec 32) : Option Bool :=
  if t = 0 then some true
  else if (List.finRange 16).any (fun i => match s.launch i with
      | some l => l.lseq = t && l.state != .ended
      | none => false) then none
  else
    match s.ls.outcomes.find? (fun o => o.1 = t) with
    | some o => some o.2
    | none => some true

/-- Both after-tokens of a launch are satisfied: it is eligible (R132). -/
def eligible (s : State) (l : Launch) : Bool :=
  afterToken s l.hdr.aft0 = some true && afterToken s l.hdr.aft1 = some true

/-- A launch leaves with a FINAL record that names no fault. -/
def endWith (s : State) (i : Fin 16) (l : Launch) (status : Byte) : State :=
  let s := s.setLaunch i (some { l with state := .ended })
  pushRecord (noteOutcome s l.lseq (status = 0)) (mkRecord s l status 0 true 0 0 0) (ctxidOf s (some i))

/-! ## The decision (R130) -/

/-- Two byte ranges overlap. -/
def rangesMeet (a m b n : Nat) : Bool := a < b + n && b < a + m

/-- The save area of R131: 16 MiB, 1 MiB aligned, in populated tier 1, clear of the header and of other launches'. -/
def saveOk (s : State) (i : Fin 16) (l : Launch) : Bool :=
  let a := l.savePA
  a % 0x100000 = 0 && tier1Ok a 0x1000000 && !rangesMeet a 0x1000000 l.hdrPA 128
    && (List.finRange 16).all (fun j => j = i || (match s.launch j with
      | some x => !rangesMeet a 0x1000000 x.savePA 0x1000000
      | none => true))

/-- The launch with its header read and the overrides of SUBOVR applied (R452); an ENERGY the host has set meanwhile
stands (R456). -/
def withHeader (l : Launch) (h : Header) (segs : List Seg) (root t : Nat) : Launch :=
  let prio := if bit l.ovr 2 then (bits l.ovr 0 2).toNat else h.prio
  { l with
    hdr := h, segs := segs, root := root, state := .waiting, prio := prio, eff := prio, aged := 0, since := t
    share := if bit l.ovr 16 then (bits l.ovr 8 8).toNat else h.share
    energy := if l.energySet then l.energy else if bit l.ovr 17 then l.ovrEnergy.toNat else h.energy }

/-- Checks 2 to 6 of R130, in order. -/
def decideLaunch (s : State) (i : Fin 16) (l : Launch) : State :=
  let ws := hdrWords s l.hdrPA
  let h := hdrOf ws
  if l.hdrPA % 64 != 0 || !tier1Ok l.hdrPA 128 then endWith s i l 1
  else if !saveOk s i l then endWith s i l 9
  else if !hdrOk ws then endWith s i l 1
  else
    match readSegs s h.segt with
    | none => endWith s i l 2
    | some (segs, root) =>
      if !hdrSegsOk h segs then endWith s i l 1
      else if (h.aft0 != 0 && !h.aft0.ult l.lseq) || (h.aft1 != 0 && !h.aft1.ult l.lseq) then endWith s i l 3
      else s.setLaunch i (some (withHeader l h segs root s.stamp))

/-- R130: the launch scheduler takes the next check. A captured submission is answered when the 2 µs of R453 are over;
otherwise the launch in the slot is decided, or, waiting, fails with an after-token (R132). -/
def execLaunchDecision (slot : Fin 16) (s : State) : Out :=
  .next (
    let decide_ (s : State) : State :=
      match s.launch slot with
      | none => s
      | some l =>
        if l.state = .submitted && l.finishing.isNone then decideLaunch s slot l
        else if l.state = .waiting && l.finishing.isNone
            && (afterToken s l.hdr.aft0 = some false || afterToken s l.hdr.aft1 = some false) then endWith s slot l 5
        else s
    match s.host.captured with
    | some m => if m.at_ + 1200 ≤ s.stamp then answerSubmission s m else decide_ s
    | none => decide_ s)

/-! ## Work identifiers and placement (R133, R134) -/

/-- The values of the fields, least significant field first, of combination n. -/
def comboRev : List Nat → Nat → List Nat
  | [], _ => []
  | e :: r, n => n % (e + 1) :: comboRev r (n / (e + 1))

/-- The field values of combination n, the combinations in ascending order. -/
def comboVals (h : Header) (n : Nat) : List Nat := (comboRev (h.exts.take h.nf).reverse n).reverse

/-- Field values joined, each at its width, field 0 the most significant. -/
def joinFields : List (Nat × Nat) → Nat → Nat
  | [], a => a
  | (v, w) :: r, a => joinFields r (a * 2 ^ w + v)

/-- The work identifier of a combination (R133). -/
def widOf (h : Header) (vals : List Nat) : Word := BitVec.ofNat 64 (joinFields (vals.zip h.widths) 0)

/-- The values of the fields placed in one way, joined (R134). -/
def placedKey (h : Header) (vals : List Nat) (p : Nat) : Nat :=
  joinFields (((vals.zip h.widths).zip h.places).filterMap (fun x => if x.2 = p then some x.1 else none)) 0

/-- The core a combination is placed on (R134). -/
def placedOn (h : Header) (vals : List Nat) : Option (Fin 16) :=
  let cls := (List.finRange 4).filter (fun c => bit h.clmask c.val)
  (cls[placedKey h vals 1 % cls.length]?).bind (fun c =>
    let ks := clusterCores h c
    ks[placedKey h vals 2 % ks.length]?)

/-- How many consecutive combinations differ only in fields after the last placed one. -/
def comboStride : List (Nat × Nat) → Nat
  | [] => 1
  | (e, p) :: r => if (((e, p) :: r).all (fun x => x.2 = 0)) then (e + 1) * comboStride r
      else comboStride r

/-- Search from combination c on, in steps of the stride. -/
def findCombo (h : Header) (k : Fin 16) (total stride : Nat) : Nat → Nat → Option Nat
  | 0, _ => none
  | f + 1, c =>
    if total ≤ c then none
    else if placedOn h (comboVals h c) = some k then some c
    else findCombo h k total stride f ((c / stride + 1) * stride)

/-- The next combination of core k's share from c on (R134, R135). -/
def nextCombo (h : Header) (k : Fin 16) (c : Nat) : Option Nat :=
  let fs := (h.exts.zip h.places).take h.nf
  let total := fs.foldl (fun n x => n * (x.1 + 1)) 1
  let stride := comboStride fs
  findCombo h k total stride (total / stride + 2) c

/-- R133: field f of WID; 0 for f ≥ NF, the whole for f = 6. -/
def widField (h : Header) (w : Word) (f : Nat) : Word :=
  if f = 6 then w
  else if h.nf ≤ f then 0
  else
    let lo := ((h.widths.take h.nf).drop (f + 1)).foldl (· + ·) 0
    BitVec.ofNat 64 (w.toNat / 2 ^ lo % 2 ^ h.widths.getD f 0)

/-- R133, R206. -/
def execWid (rd : Reg) (f : BitVec 3) (s : State) : Out :=
  .next (writeReg s rd (match s.launchOf s.bk with
    | some l => widField l.hdr s.bk.wid f.toNat
    | none => if f = 6#3 then s.bk.wid else 0))

end Sys2Proof.Machine
end

