-- ==== Sys2Proof/Machine/Save.lean ====
section
/-!
DEFINITION. The save area (R157, R158): the image an eviction writes to memory, and what a restore reads back from it.
-/
namespace Sys2Proof.Machine

/-! ## Writing it (R157) -/

/-- Write core k's state to its part of the save area at key a (R157). -/
def writeSave (s : State) (k : Fin 16) (a : Nat) (b : Bank) : State :=
  let ro := [0xC00#12, 0xC01#12, 0xC02#12, 0xC03#12, 0xC04#12].map (csrOf s k b)
  let s := (imageItems ro b).foldl (fun s p => s.storeWords (a + p.1) p.2) s
  let s := s.store (a + 0x1400) (b.vec.v.toList.flatMap (fun v => toBytes 4096 v.toNat))
  let s := s.store (a + 0x41400) (b.vec.m.toList.flatMap (fun v => toBytes 128 v.toNat))
  let s := s.store (a + 0x41C00) (deferralBytes b.vec.dq0 ++ deferralBytes b.vec.dq1)
  let s := s.storeWords (a + 0x42400) [BitVec.ofNat 64 b.vec.dq0.length, BitVec.ofNat 64 b.vec.dq1.length]
  let s := (List.finRange 8).foldl (fun s i =>
    if bit b.xlive i.val then
      let t := b.mat.tiles.get i
      (s.store (a + 0x50000 + i.val * 0x10000) (toBytes 65536 t.elems.toNat)).store
        (a + 0xD0000 + i.val * 0x400) (rowMeta t)
    else s) s
  match b.mat.slot with
  | some p => s.store (a + 0xE0000) ((p.rows.take 128).flatMap (toBytes 512))
  | none => s

/-! ## Reading it back (R158) -/

def restoreLoop (s : State) (a : Nat) : LoopLevel :=
  let f := s.wordAt a
  { act := bit f 0, pipe := bit f 1, ut := bit f 2, nt := bit f 3, lc := s.wordAt (a + 8), start := s.wordAt (a + 16),
    stop := s.wordAt (a + 24), idx := s.wordAt (a + 32) }

/-- A handle as saved; one whose walk was pending walks again. -/
def restoreHandle (s : State) (a : Nat) : Handle :=
  let f := s.wordAt a
  { v := bit f 0, pd := bit f 1, ck := bit f 2, r := bit f 3, w := bit f 4, x := bit f 5,
    missing := bit f 6 && !bit f 1, tier := f.extractLsb' 8 2, va := (s.wordAt (a + 8)).setWidth 56,
    seg := (s.wordAt (a + 16)).toNat, lo := (s.wordAt (a + 24)).toNat, hi := (s.wordAt (a + 32)).toNat,
    phys := (s.wordAt (a + 40)).toNat }

def restoreChan (s : State) (a : Nat) : Chan :=
  let f := s.wordAt a
  let p := s.wordAt (a + 16)
  let q := s.wordAt (a + 24)
  { set := bit f 0, view := bit f 1, home := (f.extractLsb' 4 4).toFin, slot := highHalf f,
    base := (s.wordAt (a + 8)).toNat, count := lowHalf p, head := highHalf p, tail := lowHalf q, filled := highHalf q }

def restoreDeferral (s : State) (a count : Nat) : List (BitVec 32) :=
  (List.range (s.wordAt count).toNat).map (fun i => BitVec.ofNat 32 (s.natAt (a + 4 * i) 4))

/-- A queue entry, at a place of the engine queues: its words and its tag. -/
def restoreEntry (s : State) (a place : Nat) (e : Entry) : Entry :=
  let w := s.wordAt (a + 0xC00 + 16 * place)
  let lv := (s.wordAt (a + 0xC00 + 8 * (230 + place / 16))).toNat / 16 ^ (place % 16) % 16
  { e with
    w0 := w.setWidth 32, w1 := (w >>> 32).setWidth 32
    tag := if lv % 2 = 0 then none else some (⟨lv / 2 % 4, Nat.mod_lt _ (by decide)⟩, s.wordAt (a + 0xC08 + 16 * place)) }

/-- The place of a queued job's entry in the image. -/
def jobPlace (b : Bank) (j : Job) : Nat :=
  firstPlace j.eng + ((b.jobs.filter (fun x => x.eng = j.eng && x.phase = .queued)).takeWhile (fun x => x.seq != j.seq)).length

/-- Region bounds as saved. -/
def restoreRegion (s : State) (a : Nat) (p : Region × Nat) : Region :=
  if 4 ≤ p.2 then p.1
  else { p.1 with lo := (s.wordAt (a + 32 + 16 * p.2)).toNat, hi := (s.wordAt (a + 40 + 16 * p.2)).toNat }

/-- An entry of the job table at its place: the destination and item, the result, the bounds of its first four regions, its
first sixteen edges, and the token of a job that has completed. -/
def restoreJob (s : State) (a : Nat) (j : Job) : Job :=
  let d := s.wordAt (a + 8)
  let regs := (j.reads ++ j.writes).zipIdx.map (restoreRegion s a)
  { j with
    token := if j.phase = .done then s.wordAt a else j.token
    dst := BitVec.ofNat 6 (lowHalf d), item := highHalf d, result := s.wordAt (a + 24)
    reads := regs.take j.reads.length, writes := regs.drop j.reads.length
    edges := j.edges.zipIdx.map (fun p =>
      if 16 ≤ p.2 then p.1 else BitVec.ofNat 16 (s.natAt (a + 96 + 2 * p.2) 2)) }

/-- A stream at its place: its next position and the headers it has pinned (R290). -/
def restoreStream (s : State) (a : Nat) (st : Stream) : Stream :=
  let p := s.wordAt (a + 16)
  { st with
    m := lowHalf p, row := highHalf p
    pins := st.pins.zipIdx.map (fun q => if 28 ≤ q.2 then q.1 else { q.1 with hdr := (s.wordAt (a + 32 + 8 * q.2)).toNat }) }

/-- The jobs of the image at key a: the job table, the entries of the queues and the streams, each with what its place in
the image holds. -/
def restoreJobs (s : State) (a : Nat) (b : Bank) : List Job :=
  let streams := b.jobs.filter (fun j => j.stream.isSome)
  b.jobs.zipIdx.map (fun p =>
    let j := restoreJob s (a + 0xF0100 + 128 * p.2) p.1
    let j := if j.phase = .queued then { j with e := restoreEntry s a (jobPlace b p.1) j.e } else j
    { j with stream := j.stream.map (restoreStream s (a + 0xF1900 + 256 *
      (streams.takeWhile (fun x => x.seq != j.seq)).length)) })

/-- KIND of a chain record. -/
def restoreKind (n : Nat) : ChainKind :=
  match n % 4 with
  | 1 => .plain
  | 2 => .attn
  | _ => .none

/-- The scale identity of a chain record (R294). -/
def restoreScaleId (x y : Word) : Option ScaleId :=
  if !bit x 2 then none
  else some ⟨if bit x 3 then some (x.toNat / 2 ^ 8 % 2 ^ 28, x.toNat / 2 ^ 36) else none, bit x 4,
    if bit x 5 then some (lowHalf y, highHalf y) else none⟩

/-- A latch as its record has it (R301): the slot of a channel it holds, with the advance. -/
def restoreLatch (w : Word) (x : Latch) : Latch :=
  match x.src with
  | .ring _ _ _ => { x with src := .ring (w.toNat / 4 % 16) (w.toNat / 2 ^ 16 % 2 ^ 32) (w.toNat / 64 % 2 ^ 8) }
  | _ => x

/-- The pair slot: its header and its rows (R321, R322). -/
def restorePair (s : State) (a : Nat) (p : PairSlot) : PairSlot :=
  let h := s.wordAt (a + 0xF0010)
  { p with
    f := (s.wordAt (a + 0xF0008)).toNat, follower := lowHalf h, n := highHalf h
    rows := (List.range p.rows.length).map (fun i => s.natAt (a + 0xE0000 + 512 * i) 512) }

/-- One of the two row values of a live tile. -/
def restoreRows (s : State) (a : Nat) : BitVec 4096 :=
  BitVec.ofNat 4096 (ofBytes ((List.range 128).flatMap (fun r => s.bytesAt (a + 8 * r) 4)))

/-- A tile: live, its contents and row values come back; otherwise its contents are +0 (R158, R293). Its chain record
belongs to the shadow set and comes back either way (R294). -/
def restoreTile (s : State) (a : Nat) (live : Bool) (i : Nat) (t : Tile) : Tile :=
  let x := s.wordAt (a + 0xD2038 + 16 * i)
  let t := { t with kind := restoreKind x.toNat, scaleId := restoreScaleId x (s.wordAt (a + 0xD2040 + 16 * i)) }
  if live then
    { t with
      elems := BitVec.ofNat 524288 (s.natAt (a + 0x50000 + i * 0x10000) 65536)
      m := restoreRows s (a + 0xD0000 + i * 0x400)
      l := restoreRows s (a + 0xD0000 + i * 0x400 + 4) }
  else { Tile.mzero with kind := t.kind, scaleId := t.scaleId }

/-- The control item of the image. -/
def restoreControl (s : State) (a : Nat) (b : Bank) : Bank :=
  let w (i : Nat) : Word := s.wordAt (a + 0x200 + 8 * i)
  { b with
    pc := w 0, pend := bit (w 1) 0, mode := if bit (w 1) 1 then .supervisor else .user
    shp := w 2, rrb := w 3, rotn := w 4, fmtl := w 5, ashp := w 6, brs := w 7, slip := w 8, wid := w 9, ctxid := w 10
    xlive := w 11, fltc := w 12, flta := w 13, flti := w 14
    vec := { b.vec with vctl := w 20, vfi := w 21, vfa := w 22, vfs := w 23 } }

/-- The bank a restore builds (R157, R158): the items of the image are read from the save area at key a; what the length
R157 gives an item has no room for, the operands its entries captured among it, is the saved bank's (log entry 19). -/
def restored (s : State) (a : Nat) (saved : Bank) : Bank :=
  let b := restoreControl s a saved
  let vec := { b.vec with
    v := Vector.ofFn (fun i => BitVec.ofNat 32768 (s.natAt (a + 0x1400 + 4096 * i.val) 4096))
    m := Vector.ofFn (fun i => BitVec.ofNat 1024 (s.natAt (a + 0x41400 + 128 * i.val) 128))
    queue := b.vec.queue.zipIdx.map (fun p => restoreEntry s a p.2 p.1)
    dq0 := restoreDeferral s (a + 0x41C00) (a + 0x42400), dq1 := restoreDeferral s (a + 0x42000) (a + 0x42408) }
  let mat := { b.mat with
    tiles := Vector.ofFn (fun i => restoreTile s a (bit b.xlive i.val) i.val (saved.mat.tiles.get i))
    mash := s.wordAt (a + 0xD2000), mfx := s.wordAt (a + 0xD2008), msc := s.wordAt (a + 0xD2010)
    mmsk := s.wordAt (a + 0xD2018), mbmp := s.wordAt (a + 0xD2020), h := (s.wordAt (a + 0xD2028)).toNat
    refill := (s.wordAt (a + 0xD2030)).toNat
    latchS := saved.mat.latchS.map (restoreLatch (s.wordAt (a + 0xD20B8)))
    latchV := saved.mat.latchV.map (restoreLatch (s.wordAt (a + 0xD20D0)))
    latchO := saved.mat.latchO.map (restoreLatch (s.wordAt (a + 0xD20E8)))
    slot := saved.mat.slot.map (restorePair s a) }
  { b with
    x := savedRegs s a
    fmt := Vector.ofFn (fun i => s.wordAt (a + 0x300 + 8 * i.val))
    loops := Vector.ofFn (fun i => restoreLoop s (a + 0x500 + 40 * i.val))
    repc := s.wordAt (a + 0x5A0), spm := (s.wordAt (a + 0x5C0)).setWidth 8, sp := (s.wordAt (a + 0x5C8)).setWidth 8
    handles := Vector.ofFn (fun i => restoreHandle s (a + 0x600 + 64 * i.val))
    chans := Vector.ofFn (fun i => restoreChan s (a + 0xA00 + 32 * i.val))
    vec := vec, mat := mat, jobs := restoreJobs s a saved }

end Sys2Proof.Machine
end

