-- ==== Sys2Proof/Machine/Sched.lean ====
section
/-!
DEFINITION. The launch scheduler (R136 to R142, R148, R154 to R158): which contexts are resident and which run,
admission with eviction and restore, the save area, pre-emption, and resuming.
-/
namespace Sys2Proof.Machine

/-! ## Who may run (R140, R156) -/

/-- The cores of a launch's placement set U. -/
def usedCores (l : Launch) : List (Fin 16) := (List.finRange 16).filter (fun k => bit l.hdr.cormask k.val)

/-- Whether a launch's context is the scheduler's choice to run. -/
def launchRuns (l : Launch) : Bool := l.state = .running && l.finishing.isNone

/-- Whether the context in a bank may issue on its core: it is RUNNING and not held on a fault, or it is PREEMPTED, not
chosen for eviction (R141), and fills in for the core's other bank, which is held (R140, R156). -/
def State.mayRun (s : State) (k : Fin 16) (x : Bool) : Bool :=
  let b := s.bankAt k x
  let o := s.bankAt k (!x)
  match s.launchOf b with
  | none => false
  | some l =>
    if b.heldXF then false
    else if launchRuns l then true
    else l.state = .preempted && l.finishing.isNone && l.hold = .none && !l.leaving && o.heldXF
      && (match s.launchOf o with
        | some m => launchRuns m
        | none => false)

/-- A bank that may no longer issue stops at the instruction boundary it has reached (R141); the request wakes a `wfe`
(R210). -/
def stopBank (s : State) (k : Fin 16) (x : Bool) : State :=
  let b := s.bankAt k x
  if b.slot.isSome && b.stoppedAt.isNone && !s.mayRun k x then
    s.setBankAt k x { wakeWfe b with stoppedAt := some s.stamp }
  else s

/-- The context that issues on a core. -/
def State.issuer (s : State) (k : Fin 16) : Option Word :=
  let b := s.active k
  if b.slot.isSome && b.stoppedAt.isNone then some (ctxidOf s b.slot) else none

/-- Keep the spans of ticks in which contexts ran on a core (R431). -/
def noteRun (s : State) (k : Fin 16) : State :=
  let c := s.core k
  let now := s.issuer k
  if now = c.runFrom.map Prod.fst then s
  else
    let runs := match c.runFrom with
      | some (x, t) => c.runs ++ [(x, t, s.stamp)]
      | none => c.runs
    s.setCore k { c with runs := runs, runFrom := now.map (fun x => (x, s.stamp)) }

/-- Whether a context runs on a cluster: it issues on one of its cores, filling in or not (R156, R429). -/
def runsOn (s : State) (i : Fin 16) (c : Fin 4) : Bool :=
  (List.finRange 16).any (fun k => k.val / 4 = c.val && s.issuer k = some (ctxidOf s (some i)))

/-- Keep, of the launch in a slot, the ticks of its phase that it has run on each cluster (R429). -/
def noteClusters (s : State) (i : Fin 16) : State :=
  match s.launch i with
  | none => s
  | some l =>
    s.setLaunch i (some { l with
      ran := Vector.ofFn (fun c => if runsOn s i c then l.ran.get c else ranOn l c s.stamp)
      onSince := Vector.ofFn (fun c => if runsOn s i c then some ((l.onSince.get c).getD s.stamp) else none) })

/-- Stop every bank that may not issue, and note who runs. -/
def settleRuns (s : State) : State :=
  let s := (List.finRange 16).foldl (fun s k => noteRun (stopBank (stopBank s k false) k true) k) s
  (List.finRange 16).foldl noteClusters s

/-- The ticks a launch has waited by now since it last ran: WAITING, SAVED or PREEMPTED (R138). -/
def waitedTicks (s : State) (l : Launch) : Nat :=
  l.waited + (if l.state = .waiting || l.state = .saved || l.state = .preempted then s.stamp - l.since else 0)

/-- A launch changes its state: one that stops running waits from now on, and one that waited keeps what it has waited
(R138). -/
def leaveRunning (s : State) (l : Launch) (st : CtxState) : Launch :=
  if l.state = .running then { l with state := st, since := s.stamp, waited := 0, aged := 0 }
  else { l with state := st, since := s.stamp, waited := waitedTicks s l }

/-! ## Draining a core (R141, R155) -/

/-- A matrix job that has started and whose time is not over; a pair member that waits counts as not started (R155,
R324). -/
def matrixBusy (s : State) (b : Bank) : Bool :=
  (match b.mat.pair with
   | .merging _ _ => b.slot.isSome
   | _ => false) || b.jobs.any (fun j => j.eng = .matrix && j.phase = .ended && s.stamp < j.due)

/-- The stopped bank after step 1 of R155: the oldest outstanding load and what follows it are squashed; a vector fault
that has arisen stays pending (R151). -/
def squashBank (b : Bank) : Bank :=
  let b := match b.loads with
    | [] => b
    | p :: _ => squashTo b p
  { b with pend := b.pend || b.vec.fault.isSome }

/-- Matrix entries whose tick has come but that have not started go back to waiting (R155, step 3). -/
def requeueMatrix (s : State) (k : Fin 16) (x : Bool) : State :=
  ((s.bankAt k x).jobs.filter (fun j => j.eng = .matrix && j.phase = .dispatched)).foldl (fun s j =>
    dropRequest (s.setJob k (.bank x) { j with phase := .queued }) k j.seq) s

/-- Drain a stopped bank. -/
def drainBank (s : State) (k : Fin 16) (x : Bool) : State :=
  let b := s.bankAt k x
  if b.slot.isNone || b.stoppedAt.isNone then s
  else requeueMatrix (s.setBankAt k x (squashBank b)) k x

/-- R141, R155: core k drains the bank that has stopped, then switches to the bank that may run, if the other one
may. -/
def execPreemption (k : Fin 16) (s : State) : Out :=
  .next (
    let x := (s.core k).second
    if clStalled s k then s else
    let s := drainBank s k x
    let b := s.bankAt k x
    if (b.slot.isSome && b.stoppedAt.isNone) || matrixBusy s b then s
    else if s.mayRun k (!x) && !s.mayRun k x then s.setCore k { s.core k with second := !x }
    else s)

/-! ## Resuming (R142, R156) -/

/-- The shift of R142 on one job that waits for its stamp, a matrix job or a `cxs` (R261), and on the pair's waiting
stamps. -/
def shiftJob (d : Nat) (j : Job) : Job :=
  if (j.eng = .matrix && j.phase = .queued) || (isCxs j.e.i && (j.phase = .queued || j.phase = .dispatched)) then { j with e := { j.e with stamp := j.e.stamp.map (· + d) } } else j

def shiftPair (d : Nat) (m : MatState) : MatState :=
  { m with
    pair := match m.pair with
      | .leaderWait q l => .leaderWait q (l + d)
      | .followerWait q f => .followerWait q (f + d)
      | p => p
    slot := m.slot.map (fun h => { h with f := h.f + d }) }

/-- The bank of core k as it resumes: BRS and the queued stamps shifted by D (R142), the latches refilled (R301). -/
def resumeBank (s : State) (k : Fin 16) (x : Bool) : State :=
  let b := s.bankAt k x
  let d := s.stamp - b.stoppedAt.getD s.stamp
  let b := { b with
    stoppedAt := none, brs := b.brs + BitVec.ofNat 64 d, jobs := b.jobs.map (shiftJob d), mat := shiftPair d b.mat }
  [LatchId.s, .v, .o].foldl (fun s l => refillLatch s k (.bank x) l) (s.setBankAt k x b)

/-- Context start (R135): the tick of the first issue goes to BRS on every core of U. The first after a boot ends the
boot's step 9 (R463, R473). -/
def startContext (s : State) (slot : Fin 16) (l : Launch) : State :=
  if l.started then s
  else
    let s := if s.svc.step9 then owlOpen { s with svc := { s.svc with step9 := false } } else s
    let s := s.setLaunch slot (some { l with started := true, phaseStart := s.stamp })
    (usedCores l).foldl (fun s k =>
      match s.residentAt k slot with
      | some x => s.setBankAt k x { s.bankAt k x with brs := s.stampW, stoppedAt := some s.stamp }
      | none => s) s

/-- Whether core k's bank of a context waits to resume, and whether it can: its bank is the active one. -/
def resumeOn (s : State) (slot : Fin 16) (k : Fin 16) : Option (Bool × Bool) :=
  match s.residentAt k slot with
  | none => none
  | some x =>
    if (s.bankAt k x).stoppedAt.isSome && s.mayRun k x then
      some (x, (s.core k).second = x && !(s.core k).parked && !matrixBusy s (s.bankAt k (!x)))
    else none

/-- R142: the context of a slot resumes: on every core of U together, or, filling in, on the cores that have switched
to it (R156). -/
def execContextResume (slot : Fin 16) (s : State) : Out :=
  .next (match s.launch slot with
    | none => s
    | some l =>
      let ks := (usedCores l).filterMap (fun k => (resumeOn s slot k).map (fun p => (k, p)))
      let ready := ks.filter (fun p => p.2.2)
      if ready.isEmpty || (launchRuns l && ready.length != ks.length) then s
      else
        let s := startContext s slot l
        settleRuns (ready.foldl (fun s p => resumeBank s p.1 p.2.1) s))

/-! ## The save area (R157) -/

/-- Evict core k's bank of a context. Entries of its tailed items stay in the core's tracker, which both banks share, and
free there as its jobs complete (DEDUCED: R157's area holds no tracker; log entry 86). -/
def evictCore (slot : Fin 16) (save : Nat) (s : State) (k : Fin 16) : State :=
  match s.residentAt k slot with
  | none => s
  | some x =>
    let b := s.bankAt k x
    let s := writeSave (touchQueue s k b) k (save + k.val * 0x100000) b
    let s := s.setBankAt k x Bank.init
    match s.launch slot with
    | some l => s.setLaunch slot (some { l with savedBanks := l.savedBanks ++ [(k, b)] })
    | none => s

/-- Evict a context whose cores have drained (R139, R141). -/
def evict (s : State) (slot : Fin 16) (l : Launch) : State :=
  let s := s.setLaunch slot (some (leaveRunning s l .saved))
  (usedCores l).foldl (evictCore slot l.savePA) s

/-- Put a bank into a free bank of core k (R136). -/
def placeBank (s : State) (k : Fin 16) (b : Bank) : State :=
  if (s.bankAt k false).slot.isNone then s.setBankAt k false b else s.setBankAt k true b

/-! ## Admission (R123, R135, R139, R424, R427) -/

/-- The FMT image of a launch (R129, R135). -/
def fmtImage (s : State) (a : Nat) : Vector Word 64 :=
  Vector.ofFn (fun i => if a = 0 then 0 else s.wordAt (a + 8 * i.val))

/-- The bank of core k at a context's admission (R135). -/
def newBank (s : State) (slot : Fin 16) (l : Launch) (k : Fin 16) : Bank :=
  { Bank.init with
    slot := some slot
    ctxid := ctxidOf s (some slot)
    fmt := fmtImage s l.hdr.fmti
    stoppedAt := some s.stamp
    shareEnded := (nextCombo l.hdr k 0).isNone }

/-- Whether a sector's key lies in a checked segment of a launch (R97). -/
def inChecked (s : State) (l : Launch) (key : Nat) : Bool :=
  l.segs.any (fun g =>
    if g.tier = 0 then onKey g.vbase ≤ key && key < onKey (g.vbase + g.len)
    else if !g.chk then false
    else if !g.pg then g.pbase ≤ key && key < g.pbase + g.len
    else (List.range (g.len / 0x10000)).any (fun i => match walk s l.root g.chk (g.vbase + 0x10000 * i) with
      | some (_, e) => ptePPN e ≤ key && key < ptePPN e + 0x10000
      | none => false))

/-- Clear the tags of a launch's checked segments (R123). -/
def clearTags (s : State) (l : Launch) : State :=
  { s with tags := s.tags.filter (fun c => !inChecked s l (32 * c.1)) }

/-- The first admission of a launch (R123, R135, R383, R424, R427). -/
def admitNew (s : State) (slot : Fin 16) (l : Launch) : State :=
  let us := usedCores l
  let gone := us.filter (fun k => (nextCombo l.hdr k 0).isNone)
  let l := { l with
    state := .preempted, phase := 0, sweptAt := none, arrived := 0, ran := Vector.replicate 4 0, phaseStart := s.stamp
    bf := ⟨1, false, 0, 2000⟩, ended := gone.foldl (fun v k => v ||| (1#16 <<< k.val)) 0 }
  let s := us.foldl (fun s k => placeBank s k (newBank s slot l k)) (s.setLaunch slot (some l))
  let s := clearTags s l
  let share := boostShare s.pow.bh ((boosted s).map Prod.snd) l
  setCadence s slot { l with btok := share }

/-- A SAVED context is restored (R157, R158). -/
def restore (s : State) (slot : Fin 16) (l : Launch) : State :=
  let s := s.setLaunch slot (some { leaveRunning s l .preempted with savedBanks := [] })
  l.savedBanks.foldl (fun s p => placeBank s p.1 (restored s (saveKey l p.1) p.2)) s

/-- A launch that waits for admission: eligible, or SAVED and not held (R137, R139). -/
def waits (s : State) (l : Launch) : Bool :=
  l.finishing.isNone && l.hold = .none && ((l.state = .waiting && eligible s l) || l.state = .saved)

/-- Rank (R140): effective priority, then LSEQ, older first. -/
def rankBefore (a b : Launch) : Bool := a.eff < b.eff || (a.eff = b.eff && a.lseq.ult b.lseq)

/-- Insertion in an order of launches. -/
def insertBy (before : Launch → Launch → Bool) (x : Fin 16 × Launch) : List (Fin 16 × Launch) → List (Fin 16 × Launch)
  | [] => [x]
  | y :: r => if before y.2 x.2 then y :: insertBy before x r else x :: y :: r

/-- The launches that meet a condition, in an order. -/
def launchesBy (s : State) (before : Launch → Launch → Bool) (p : Launch → Bool) : List (Fin 16 × Launch) :=
  (List.finRange 16).foldl (fun acc i => match s.launch i with
    | some l => if p l then insertBy before (i, l) acc else acc
    | none => acc) []

/-- A context that holds banks. -/
def residentLaunch (l : Launch) : Bool := l.state = .running || l.state = .preempted || l.state = .held

/-- The order of eviction (R139): the numerically greatest effective priority first, then the youngest. -/
def evictBefore (a b : Launch) : Bool := b.eff < a.eff || (a.eff = b.eff && b.lseq.ult a.lseq)

/-- What an evaluation has settled for the launches before (R139): the victims that still drain, and the banks kept for
the launches that wait for them, by core. -/
structure Admission where
  leaving : List (Fin 16)
  kept : List (Fin 16)

/-- The banks of core k that are free, or will be once some contexts are gone. -/
def banksLeft (s : State) (k : Fin 16) (gone : List (Fin 16)) : Nat :=
  ([false, true].filter (fun x => match (s.bankAt k x).slot with
    | none => true
    | some i => gone.contains i)).length

/-- Whether every core of U has a bank once some contexts are gone, beside those kept for launches of better rank. -/
def banksFree (s : State) (a : Admission) (us : List (Fin 16)) (gone : List (Fin 16)) : Bool :=
  us.all (fun k => a.kept.count k < banksLeft s k (a.leaving ++ gone))

/-- The victims of R139, taken one at a time until the banks suffice; none when they never do. -/
def victims (s : State) (a : Admission) (us : List (Fin 16)) : List (Fin 16 × Launch) → List (Fin 16 × Launch) →
    Option (List (Fin 16 × Launch))
  | [], gone => if banksFree s a us (gone.map Prod.fst) then some gone else none
  | v :: r, gone => if banksFree s a us (gone.map Prod.fst) then some gone else victims s a us r (gone ++ [v])

/-- The contexts an eligible launch may evict: those that hold banks on the cores that lack one, with a greater
number. -/
def candidates (s : State) (a : Admission) (l : Launch) : List (Fin 16 × Launch) :=
  let short := (usedCores l).filter (fun k => !banksFree s a [k] [])
  (launchesBy s evictBefore (fun x => residentLaunch x && x.finishing.isNone && l.eff < x.eff
    && (usedCores x).any (fun k => short.contains k))).filter (fun p => !a.leaving.contains p.1)

/-- Whether a context has stopped and drained on all its cores. -/
def drainedOut (s : State) (slot : Fin 16) (l : Launch) : Bool :=
  (usedCores l).all (fun k => match s.residentAt k slot with
    | some x =>
      let b := s.bankAt k x
      b.stoppedAt.isSome && b.loads.isEmpty && b.posted.isEmpty && !matrixBusy s b
        && !b.jobs.any (fun j => j.eng = .matrix && j.phase = .dispatched)
    | none => true)

/-- Try to admit one launch: at once into free banks, or after the evictions of R139. A victim that still runs is
stopped first; until the victims have drained, the launch keeps a bank on each of its cores, and it is admitted at a later
evaluation. A launch at level 0 that cannot be admitted keeps one as well, so that no launch after it takes the banks it
waits for (R148). -/
def admitOne (st : State × Admission) (slot : Fin 16) : State × Admission :=
  let (s, a) := st
  match s.launch slot with
  | none => st
  | some l =>
    match victims s a (usedCores l) (candidates s a l) [] with
    | none => (s, if l.eff = 0 then { a with kept := a.kept ++ usedCores l } else a)
    | some vs =>
      if vs.all (fun v => drainedOut s v.1 v.2)
          && (usedCores l).all (fun k => 0 < banksLeft s k (vs.map Prod.fst)) then
        let s := vs.foldl (fun s v => evict s v.1 v.2) s
        (if l.state = .saved then restore s slot l else admitNew s slot l, a)
      else
        let s := vs.foldl (fun s v =>
          match s.launch v.1 with
          | some x => if x.state = .running then s.setLaunch v.1 (some (leaveRunning s x .preempted)) else s
          | none => s) s
        (s, ⟨a.leaving ++ vs.map Prod.fst, a.kept ++ usedCores l⟩)

/-- The walk of R140 over the ranked resident contexts: who runs, given the cores earlier ones run on. -/
def chooseRunning : List (Fin 16 × Launch) → BitVec 16 → List (Fin 16) → List (Fin 16)
  | [], _, acc => acc
  | (i, l) :: r, used, acc =>
    if used &&& l.hdr.cormask = 0 then chooseRunning r (used ||| l.hdr.cormask) (acc ++ [i])
    else chooseRunning r used acc

/-- Make the choice of R140 effective. A context that runs for less than 10 ms keeps the level that ageing gave it, and ages
on from it (DEDUCED, log entry 50). -/
def applyRunning (chosen : List (Fin 16)) (s : State) (i : Fin 16) : State :=
  match s.launch i with
  | none => s
  | some l =>
    if l.state = .running && !chosen.contains i && l.finishing.isNone then
      s.setLaunch i (some (leaveRunning s l .preempted))
    else if l.state = .preempted && chosen.contains i then
      s.setLaunch i (some { l with state := .running, since := s.stamp, waited := 0, aged := 0 })
    else s

/-- A context chosen for eviction stops for good: it fills in nowhere until it has drained (R141). -/
def markLeaving (leaving : List (Fin 16)) (s : State) (i : Fin 16) : State :=
  match s.launch i with
  | some l => s.setLaunch i (some { l with leaving := leaving.contains i })
  | none => s

/-- Whether the launch scheduler works: it starts at the end of boot, waits for the end of a park, and stops with the
compute die (R426, R446, R463). -/
def schedulerOn (s : State) : Bool :=
  s.svc.booted && !s.svc.recovery && !s.svc.parked && !s.pow.dieHeld

/-- A context that is to run on parked cores starts their exits: it resumes when they are over (R446). -/
def wakeFor (s : State) (i : Fin 16) : State :=
  match s.launch i with
  | some l => if launchRuns l then (usedCores l).foldl beginExit s else s
  | none => s

/-- R139, R140: an evaluation. -/
def execSchedulerEvaluation (s : State) : Out :=
  .next (
    if !schedulerOn s then s
    else
      let (s, a) := (launchesBy s rankBefore (waits s)).foldl (fun st p => admitOne st p.1) (s, ⟨[], []⟩)
      let ranked := (launchesBy s rankBefore (fun l =>
        (l.state = .running || l.state = .preempted) && l.finishing.isNone && l.hold = .none)).filter
          (fun p => !a.leaving.contains p.1)
      let s := (List.finRange 16).foldl (applyRunning (chooseRunning ranked 0 [])) s
      let s := (List.finRange 16).foldl (markLeaving a.leaving) s
      settleRuns ((List.finRange 16).foldl wakeFor s))

/-! ## Effective priority (R138) -/

/-- R138: a launch has waited another full 10 ms. -/
def execPriorityAging (slot : Fin 16) (s : State) : Out :=
  .next (match s.launch slot with
    | none => s
    | some l =>
      if (l.state = .waiting || l.state = .saved || l.state = .preempted) && (l.aged + 1) * 6000000 ≤ waitedTicks s l
      then s.setLaunch slot (some { l with eff := l.eff - 1, aged := l.aged + 1 })
      else s)

/-- R138: a context has run for 10 ms without interruption. -/
def execPriorityReturnToPrio (slot : Fin 16) (s : State) : Out :=
  .next (match s.launch slot with
    | none => s
    | some l =>
      if l.state = .running && l.since + 6000000 ≤ s.stamp then s.setLaunch slot (some { l with eff := l.prio }) else s)

end Sys2Proof.Machine
end

