-- ==== Sys2Proof/Machine/Items.lean ====
section
/-!
DEFINITION. Work items (R135, R146, R147, R206): their start, `tail` and `exit`, the retirement tracker and the end of
a share; barriers and the tag sweep (R23, R126, R145).
-/
namespace Sys2Proof.Machine

/-! ## The start of a work item (R135) -/

/-- The bank at the start of the item of combination c. -/
def startItem (l : Launch) (b : Bank) (c : Nat) : Bank :=
  let x := Vector.replicate 64 (0 : Word)
  { b with
    mode := .user, pc := BitVec.ofNat 64 l.hdr.entry, stall := none, loads := []
    x := (x.set 2 l.hdr.arg).set 3 (BitVec.ofNat 64 b.item)
    wid := widOf l.hdr (comboVals l.hdr c)
    loops := Vector.replicate 4 LoopLevel.zero, repc := 0, rrb := 0, sp := 0, spm := 0
    handles := Vector.replicate 16 Handle.invalid
    combo := c + 1, itemLive := true }

/-- R135: core k starts the next work item of its context's share. -/
def execWorkItemStart (k : Fin 16) (s : State) : Out :=
  .next (
    let b := s.active k
    match s.launchOf b with
    | none => s
    | some l =>
      if b.itemLive || b.shareEnded || b.stoppedAt.isSome || b.mode = .supervisor || clStalled s k then s
      else
        match nextCombo l.hdr k b.combo with
        | some c => s.setActive k (startItem l b c)
        | none => s)

/-! ## `tail` and `exit` (R146, R147, R206) -/

/-- The end of a work item: its outstanding work goes to the retirement tracker, which must have room; the recorded
latch shapes clear (R299). -/
def endItem (s : State) : Out :=
  finish s (do
    notRepeated s
    let b := s.bk
    match b.slot with
    | none => .ok s
    | some i =>
      if 8 ≤ (s.core s.cur).tracker.length then .error (.wait .tracker)
      else
        let last := match s.launchOf b with
          | some l => (nextCombo l.hdr s.cur b.combo).isNone
          | none => true
        let c := s.core s.cur
        let s := s.setCore s.cur { c with tracker := c.tracker ++ [⟨i, b.item, b.wid, last⟩] }
        let s := s.setBk { b with
          itemLive := false, item := b.item + 1, stall := none
          mat := { b.mat with shapeS := none, shapeV := none, shapeO := none } }
        .ok (endMatrixState s s.cur (s.activeLoc s.cur)))

/-- R146, R206. -/
def execTail (s : State) : Out := endItem s

/-- R147, R206: the same effect as `tail` on the core. -/
def execExit (s : State) : Out := endItem s

/-- The last share of a launch has ended: its last phase is settled (R429). A waiting barrier is released no earlier
than now (R145). -/
def endShare (s : State) (k : Fin 16) (slot : Fin 16) : State :=
  match s.launch slot with
  | none => s
  | some l =>
    let l := { l with ended := l.ended ||| (1#16 <<< k.val), lastArrival := Nat.max l.lastArrival (s.stamp - 12) }
    let s := s.setLaunch slot (some l)
    if l.hdr.cormask &&& ~~~l.ended = 0 then settlePhase s slot l else s

/-- Whether the work of a tracked item has completed: its vector instructions and its jobs (R146). -/
def itemDone (b : Bank) (t : Tracked) : Bool :=
  !b.vec.queue.any (fun e => e.wid = t.wid) && !b.jobs.any (fun j => j.item = t.item && j.phase != .done)

/-- Whether a context's share on core k is over: no further item, and nothing left in the tracker (R147). -/
def shareOver (s : State) (k : Fin 16) (slot : Fin 16) (b : Bank) : Bool :=
  !b.itemLive && !b.shareEnded && !(s.core k).tracker.any (fun t => t.slot = slot)
    && (match s.launch slot with
      | some l => (nextCombo l.hdr k b.combo).isNone
      | none => false)

/-- R146, R147: the first tracker entry of core k whose item's work has completed frees; with the last of a share the
share ends. -/
def execTrackerEntryFree (k : Fin 16) (s : State) : Out :=
  .next (
    let bankOf (t : Tracked) : Option (Loc × Bank) :=
      (s.locOf k t.slot).bind (fun loc => (s.locBank k loc).map (fun b => (loc, b)))
    match (s.core k).tracker.find? (fun t => match bankOf t with
        | some (_, b) => itemDone b t
        | none => true) with
    | none => s
    | some t =>
      let s := s.setCore k { s.core k with tracker := (s.core k).tracker.erase t }
      match bankOf t with
      | none => s
      | some (loc, _) =>
        let s := endMatrixState s k loc
        match s.locBank k loc with
        | none => s
        | some b =>
          if shareOver s k t.slot b then endShare (s.setLocBank k loc { b with shareEnded := true }) k t.slot else s)

/-! ## Tag sweep and barrier release (R23, R126, R145) -/

/-- Whether a tag belongs to the slice of a phase and is 128 phases old or more (R123, R126). -/
def sweeps (ph : BitVec 8) (c : Nat × Tag) : Bool :=
  32 * c.1 / 0x10000 % 128 = ph.toNat % 128 && 128 ≤ (ph - c.2.ph).toNat

/-- R126: the sweeper clears the aged tags of the phase's slice in the launch's checked memory; scratchpad slices must
answer (R446). -/
def execTagSweep (slot : Fin 16) (s : State) : Out :=
  .next (match s.launch slot with
    | none => s
    | some l =>
      if !l.started || l.state = .ended || l.sweptAt.isSome then s
      else
        whenOpen s ((l.segs.filter (fun g => g.tier = 0)).map (fun g => memRegion g.vbase g.len)) (fun s =>
          let s := { s with tags := s.tags.filter (fun c => !(sweeps l.phase c && inChecked s l (32 * c.1))) }
          s.setLaunch slot (some { l with sweptAt := some s.stamp })))

/-- The participants of a launch's barrier (R145). -/
def participants (l : Launch) : BitVec 16 := l.hdr.cormask &&& ~~~l.ended

/-- T, once every participant has arrived and the sweep is done: the first even tick that is at least A + 12 and by
which the sweep has completed (R23). -/
def releaseTick (l : Launch) : Option Nat :=
  match l.sweptAt with
  | some w =>
    if participants l != 0 && participants l &&& ~~~l.arrived = 0 then
      some ((Nat.max (l.lastArrival + 12) w + 1) / 2 * 2)
    else none
  | none => none

/-- A participant's bank at the release (R23, events 4 and 5; R303). -/
def releaseBank (t : Nat) (b : Bank) : Bank :=
  let b := { b with brs := BitVec.ofNat 64 t, mat := { b.mat with h := 0 } }
  if b.barArrived then wakeWfe { b with barReleased := some t } else b

/-- R23: the barrier of the launch in a slot releases at T: power first, then the phase number, then BRS. -/
def execBarrierRelease (slot : Fin 16) (s : State) : Out :=
  .next (match s.launch slot with
    | none => s
    | some l =>
      match releaseTick l with
      | none => s
      | some t =>
        if s.stamp < t then s
        else
          let s := settlePhase s slot l
          let s := match s.launch slot with
            | some l => setCadence s slot l
            | none => s
          let s := match s.launch slot with
            | some l => s.setLaunch slot (some { l with phase := l.phase + 1, arrived := 0, sweptAt := none })
            | none => s
          ((List.finRange 16).filter (fun k => bit (participants l) k.val)).foldl (fun s k =>
            match (s.locOf k slot).bind (fun loc => (s.locBank k loc).map (fun b => (loc, b))) with
            | some (loc, b) => s.setLocBank k loc (releaseBank t b)
            | none => s) s)

end Sys2Proof.Machine
end

