-- ==== Sys2Proof/Machine/Contexts.lean ====
section
/-!
DEFINITION. What ends or holds a context, and what the supervisor and the host do with it: the supervisor's actions on
a trapped fault (R153), page requests and revocation (R105, R152), energy holds (R143), host commands (R456), the end of
a context (R147, R154, R338) and the completion ring (R132, R455).
-/
namespace Sys2Proof.Machine

/-! ## The supervisor (R153) -/

/-- Whether the page request of an XF is marked as a write: the page is present and may not be written (R99). -/
def writeRequest (s : State) (l : Launch) (va : Nat) : Bool :=
  match findSeg l.segs va with
  | some (_, g) => g.pg && (match walk s l.root g.chk va with
    | some (_, e) => !pteW e
    | none => false)
  | none => false

/-- Hold core k on a page: the request goes to the host driver (R153, R156). -/
def holdForPage (s : State) (k : Fin 16) (slot : Fin 16) (l : Launch) (va : Nat) : State :=
  let b := s.active k
  let s := requestPage s (some slot) k va (writeRequest s l va) none
  settleRuns (s.setActive k { b with heldXF := true, stoppedAt := some s.stamp })

/-- The handle a faulting instruction goes through. -/
def handleOf : Instr → Option (Fin 16)
  | .ldh _ r _ _ | .ldhu _ r _ _ | .sth _ r _ _ => some (ix16 r)
  | .amo _ r _ _ _ h _ => if h then some (ix16 r) else none
  | .cas _ r _ _ _ h => if h then some (ix16 r) else none
  | .lda _ r _ h => if h then some (ix16 r) else none
  | .stl r _ _ h => if h then some (ix16 r) else none
  | i => (List.finRange 16).find? (namesHandle i)

/-- The handle a HIV arose through: the vector engine's head entry names it, or the instruction at FLTI. -/
def hivHandle (s : State) (b : Bank) : Option (Fin 16) :=
  if bits b.fltc 8 3 = 1#3 then (b.vec.queue.head?).bind (fun e => handleOf e.i)
  else
    match fetchAt s { b with mode := .user } b.flti with
    | .ok i => handleOf i
    | .error _ => none

/-- A context stops on a BRK: HELD, with its record; it will go on after the `brk` (R153, R207). -/
def holdOnBrk (s : State) (k : Fin 16) (slot : Fin 16) (l : Launch) : State :=
  let b := s.active k
  let s := s.setLaunch slot (some { leaveRunning s l .held with hold := .brk })
  let s := s.setActive k { returnFromFault b with pc := b.flti + 4 }
  settleRuns (pushRecord s (mkRecord s l 7 0x12 false k.val b.flti b.flta) (ctxidOf s (some slot)))

/-- The resident supervisor of core k acts on the fault that entered it (R153). For HIV it looks the handle's address
up again (R105). -/
def supervise (k : Fin 16) (s : State) : State :=
  let b := s.active k
  match b.slot.bind (fun i => (s.launch i).map (fun l => (i, l))) with
  | none => s
  | some (i, l) =>
    if b.mode = .user || b.stoppedAt.isSome || clStalled s k then s
    else
      let code := bits b.fltc 0 8
      if code = 0x05#8 then holdForPage s k i l b.flta.toNat
      else if code = 0x06#8 then
        match hivHandle s b with
        | none => holdForPage s k i l b.flta.toNat
        | some n =>
          match lookUp s k b ((b.handles.get n).va.setWidth 64) with
          | some h => s.setActive k (returnFromFault { b with handles := b.handles.set n.val h n.isLt })
          | none => holdForPage s k i l (b.handles.get n).va.toNat
      else if code = 0x11#8 then s.setActive k { returnFromFault b with pc := b.flti + 4 }
      else if code = 0x12#8 then holdOnBrk s k i l
      else settleRuns (s.endLaunch (some i) (fun l => mkRecord s l 6 code true k.val b.flti b.flta))

/-- R153: the host answers a page request; a core held on it resumes at the faulting instruction, and its walks start
again (R103, R156). -/
def execPageRequestAnswer (idx : Nat) (s : State) : Out :=
  .next (match s.ls.pageReqs[idx]? with
    | none => s
    | some r =>
      let s := { s with ls := { s.ls with pageReqs := s.ls.pageReqs.eraseIdx idx } }
      match r.job, s.locOf r.core r.slot with
      | none, some loc =>
        match s.locBank r.core loc with
        | some b =>
          if b.heldXF then
            settleRuns (s.setLocBank r.core loc { returnFromFault b with heldXF := false })
          else s
        | none => s
      | _, _ => s)

/-! ## Revocation (R105) -/

/-- The banks of a launch, resident or saved, with their places. -/
def launchBanks (s : State) (slot : Fin 16) (l : Launch) : List (Fin 16 × Loc × Bank) :=
  (usedCores l).filterMap (fun k =>
    (s.locOf k slot).bind (fun loc => (s.locBank k loc).map (fun b => (k, loc, b))))

/-- An access that has not performed, by its bytes or through a handle whose window meets the range, or a job of a bank is still at work on a
virtual range (R105). -/
def rangeBusy (lo len : Nat) (b : Bank) : Bool :=
  b.loads.any (fun p => rangesMeet p.va.toNat p.size lo len
      || p.win.any (fun w => w.1 < lo + len && lo < w.2))
    || b.posted.any (fun p => rangesMeet p.va p.bytes.length lo len || p.win.any (fun w => w.1 < lo + len && lo < w.2))
    || b.jobs.any (fun j => (j.phase = .running || j.phase = .ended)
        && (j.reads ++ j.writes).any (regionMeets (memRegion lo len)))

/-- A handle whose window meets the range is revoked. -/
def revokeHandle (lo len : Nat) (h : Handle) : Handle :=
  if h.v && h.lo < lo + len && lo < h.hi then { h with v := false, pd := false, missing := false } else h

/-- Revoke the handles of a bank, and those the squash of an outstanding load would bring back (R105, R163). -/
def revokeBank (lo len : Nat) (b : Bank) : Bank :=
  { b with
    handles := b.handles.map (revokeHandle lo len)
    loads := b.loads.map (fun p => { p with handles := p.handles.map (revokeHandle lo len) }) }

/-- R105: the revocation of a range of a launch, once the accesses and jobs at work on it are over. -/
def execRevocation (slot : Fin 16) (lo len : Nat) (s : State) : Out :=
  .next (match s.launch slot with
    | none => s
    | some l =>
      let bs := launchBanks s slot l
      if bs.any (fun p => rangeBusy lo len p.2.2) then s
      else
        let s := bs.foldl (fun s p =>
          s.setLocBank p.1 p.2.1 (revokeBank lo len p.2.2)) s
        { s with cores := s.cores.map (fun c => { c with tlb := c.tlb.filter (fun t =>
            !(t.1 / 2 ^ 40 = slot.val && rangesMeet (t.1 % 2 ^ 40 * 0x10000) 0x10000 lo len)) }) })

/-! ## Holds (R143) -/

/-- R143: ENRG has reached the allowance: the context is HELD, with its record, whose CODE,
FLTI, CORE and FLTA are 0 (DESIGN CHOICE: there is no fault; log entry 39). -/
def execEnergyHold (slot : Fin 16) (s : State) : Out :=
  .next (match s.launch slot with
    | none => s
    | some l =>
      if l.energy = 0 || l.energyNJ / 1000 < l.energy * 1000 || l.hold != .none || l.finishing.isSome
          || !(l.state = .running || l.state = .preempted) then s
      else
        let s := s.setLaunch slot (some { leaveRunning s l .held with hold := .energy })
        settleRuns (pushRecord s (mkRecord s l 7 0 false 0 0 0) (ctxidOf s (some slot))))

/-- A hold is released: a resident context is PREEMPTED until the next evaluation; what it waited before the hold
counts on (R137, R138). -/
def releaseHold (s : State) (slot : Fin 16) (l : Launch) : State :=
  s.setLaunch slot (some { (if l.state = .held then leaveRunning s l .preempted else l) with hold := .none })

/-! ## Host commands (R456) -/

/-- The slot of a launch that holds one. -/
def slotOfLseq (s : State) (n : BitVec 32) : Option (Fin 16 × Launch) :=
  (List.finRange 16).findSome? (fun i => match s.launch i with
    | some l => if l.lseq = n then some (i, l) else none
    | none => none)

/-- CMDST after a command has been applied. -/
def cmdStatus (s : State) (v : Word) : State := { s with host := { s.host with cmdst := v, cmdPending := none } }

/-- Whether the launch mailbox works: it stops after an IDE failure of the host port (R458). -/
def mailboxOn (s : State) : Bool := s.svc.powered && !s.host.ideStopped

/-- The launch command a host has written is applied: `f` acts on the launch that holds LSEQ (R456). -/
def launchCmd (s : State) (lseq : BitVec 32) (opc : Nat) (f : Fin 16 → Launch → State) : Out :=
  .next (
    if !mailboxOn s || s.host.cmdPending != some (lseq, opc) then s
    else
      match slotOfLseq s lseq with
      | none => cmdStatus s 2
      | some (i, l) => f i l)

/-- R154, R400, R456: abort a launch. Its records in the pending table are discarded. A launch whose end has been taken
keeps its one FINAL record. -/
def execAbort (lseq : BitVec 32) (s : State) : Out :=
  launchCmd s lseq 1 (fun i l =>
    if l.state = .ended then cmdStatus s 0
    else
      let s := (recsOf s (ctxidOf s (some i))).foldl (fun s x => removeRec s x.id) s
      cmdStatus (settleRuns (s.endLaunch (some i) (fun l => mkRecord s l 8 0 true 0 0 0))) 0)

/-- R153, R456: resume a launch held by BRK. -/
def execResume (lseq : BitVec 32) (s : State) : Out :=
  launchCmd s lseq 2 (fun i l =>
    if l.hold = .brk && l.state != .ended && l.finishing.isNone then cmdStatus (releaseHold s i l) 0 else cmdStatus s 3)

/-- R143, R456: set ENERGY from CMDARG; a hold by energy is released when ENRG is below it. -/
def execSetEnergy (lseq : BitVec 32) (s : State) : Out :=
  launchCmd s lseq 3 (fun i l =>
    let e := s.host.cmdarg.toNat
    let l := { l with energy := e, energySet := true }
    cmdStatus (if l.hold = .energy && l.energyNJ / 1000 < e * 1000 then releaseHold s i l else s.setLaunch i (some l)) 0)

/-! ## The end of a context (R147, R153, R154, R400) -/

/-- Whether a started job waits for what the stopped context itself would do, and so without bound: a stream for room in
a full ring (R290; log entry 20). An `mpair` that waits for its partner or its verdict counts as not started (R324). -/
def openWait (s : State) (k : Fin 16) (loc : Loc) (b : Bank) (j : Job) : Bool :=
  streamBlocked s k loc b j || (match j.e.i, b.mat.pair with
    | .mpair _ _, .merging _ _ => false
    | .mpair _ _, _ => true
    | _, _ => false)

/-- A job in flight that completes before its context ends (R154). -/
def inFlight (s : State) (k : Fin 16) (loc : Loc) (b : Bank) (j : Job) : Bool :=
  j.phase = .ended || (j.phase = .running && !openWait s k loc b j)

/-- The work of a stopped context is over on all its cores. -/
def workOver (s : State) (slot : Fin 16) (l : Launch) : Bool :=
  (launchBanks s slot l).all (fun p =>
    (match p.2.1 with
     | .saved _ => true
     | .bank _ => p.2.2.stoppedAt.isSome && p.2.2.posted.isEmpty) && !p.2.2.jobs.any (inFlight s p.1 p.2.1 p.2.2))

/-- A running stream gives back its pins (R286). -/
def dropStream (k : Fin 16) (slot : Fin 16) (s : State) (j : Job) : State :=
  match j.stream with
  | none => s
  | some st =>
    if j.phase = .running then (kvUnpinAll (s.whoOf (some slot) k false) st.pool st.pins ⟨s, st⟩).s else s

/-- Free one bank of an ending context: streams and limiter requests are given up. -/
def freeBank (slot : Fin 16) (s : State) (p : Fin 16 × Loc × Bank) : State :=
  let s := p.2.2.jobs.foldl (dropStream p.1 slot) s
  let s := (p.2.2.jobs.filter (fun j => j.eng = .matrix && j.phase != .done)).foldl (fun s j =>
    dropRequest s p.1 j.seq) s
  match p.2.1 with
  | .bank x => s.setBankAt p.1 x Bank.init
  | .saved _ => s

/-- The activation blocks and scale buffers of a stack without those a context owns: zero, with owner 0 (R338). -/
def clearOwned (ctx : Word) (w : Stack) : Stack :=
  let blocks := (w.actOwner.filter (fun c => c.2 = ctx)).map Prod.fst
  let bufs := (w.scaleOwner.filter (fun c => c.2 = ctx)).map Prod.fst
  { w with
    act := blocks.foldl (fun m o => amapClear m (4096 * o) (4096 * (o + 1))) w.act
    actPoison := blocks.foldl (fun m o => amapClear m (512 * o) (512 * (o + 1))) w.actPoison
    actOwner := w.actOwner.filter (fun c => c.2 != ctx)
    scale := bufs.foldl (fun m g => amapClear m (8192 * g) (8192 * (g + 1))) w.scale
    scaleBad := bufs.foldl (fun m g => amapClear m (1024 * g) (1024 * (g + 1))) w.scaleBad
    scaleLpb := w.scaleLpb.filter (fun c => !bufs.contains c.1)
    scaleOwner := w.scaleOwner.filter (fun c => c.2 != ctx) }

/-- A core without the tracker entries and the translation-cache entries of a slot. -/
def forgetSlot (slot : Fin 16) (c : Core) : Core :=
  { c with
    tracker := c.tracker.filter (fun t => t.slot != slot)
    tlb := c.tlb.filter (fun t => t.1 / 2 ^ 40 != slot.val) }

/-- A context ends with a FINAL record: its records of the pending table, its banks and what it owned in the stacks are
freed; the slot stays until the record is written (R131, R147). -/
def endContext (s : State) (slot : Fin 16) (l : Launch) (r : Record) : State :=
  let ctx := ctxidOf s (some slot)
  let s := (recsOf s ctx).foldl (fun s x => removeRec s x.id) s
  let s := (launchBanks s slot l).foldl (freeBank slot) s
  let s := { s with
    cores := s.cores.map (forgetSlot slot)
    wstacks := s.wstacks.map (clearOwned ctx)
    ls := { s.ls with pageReqs := s.ls.pageReqs.filter (fun p => p.slot != slot) } }
  let s := s.setLaunch slot (some { l with state := .ended, finishing := none, savedBanks := [] })
  settleRuns (pushRecord (noteOutcome s l.lseq (r.status = 0)) r ctx)

/-- R147, R153, R154, R400: the context of a slot ends: every share has ended, or it was stopped and its work is over;
exit records must have completed, except at an abort. -/
def execContextEnd (slot : Fin 16) (s : State) : Out :=
  .next (match s.launch slot with
    | none => s
    | some l =>
      if l.state = .ended then s
      else
        let noRecs := (recsOf s (ctxidOf s (some slot))).isEmpty
        match l.finishing with
        | some r => if workOver s slot l && (noRecs || r.status = 8) then endContext s slot l r else s
        | none =>
          if l.started && participants l = 0 && noRecs then
            endContext s slot l (mkRecord s l 0 0 true 0 0 0)
          else s)

/-! ## The completion ring (R132, R455) -/

/-- The 64 bytes of a completion record (R132). -/
def Record.bytes (r : Record) : List Byte :=
  let dw1 := r.flti.toNat + r.core.toNat * 2 ^ 56
  ([r.dw0, BitVec.ofNat 64 dw1, r.flta, r.enrg, r.stamp, 0, 0, 0] : List Word).flatMap (fun w => toBytes 8 w.toNat)

/-- Whether the ring has room for a record: enabled, not full, and the host port's IDE working (R455, R458). -/
def ringOpen (h : HostLink) : Bool :=
  let n := h.crsize.toNat
  6 ≤ n && n ≤ 16 && !h.ideStopped && (h.crtail.toNat + 1) % 2 ^ n != h.crhead.toNat

/-- A FINAL record frees the launch's slot, and a hold of it ends (R131, R422). -/
def freeSlotOf (s : State) (lseq : BitVec 32) : State :=
  match slotOfLseq s lseq with
  | none => s
  | some (i, _) =>
    let s := s.setLaunch i none
    { s with wstacks := s.wstacks.map (fun w => { w with hold := w.hold.filter (fun h => h.slot != i) }) }

/-- R455: the oldest waiting record is written to the ring, CRTAIL advances, and the interrupt is raised. -/
def execCompletionRecordWrite (s : State) : Out :=
  .next (match s.ls.records with
    | [] => s
    | r :: rest =>
      let h := s.host
      if !ringOpen h || !s.svc.powered then s
      else
        let t := h.crtail.toNat
        let a := h.crbase.toNat + 64 * t
        let s := { s with
          ls := { s.ls with records := rest }
          host := { h with
            hostMem := memWrite h.hostMem a r.bytes
            crtail := BitVec.ofNat 64 ((t + 1) % 2 ^ h.crsize.toNat)
            irqRaised := if bit h.irq 0 then h.irqRaised + 1 else h.irqRaised } }
        if r.final && r.lseq != 0 then freeSlotOf s r.lseq else s)

end Sys2Proof.Machine
end

