-- ==== Sys2Proof/Machine/HostLink.lean ====
section
/-!
DEFINITION. The host link (R447 to R462): the control registers of BAR0 and BAR2, the tier-1 aperture, the CXL.mem
window, inbound peer requests, IDE, and the memory ports.
-/
namespace Sys2Proof.Machine

/-! ## Registers (R450 to R452, R475) -/

/-- Whether the device answers its host at all. -/
def hostOn (s : State) : Bool := s.svc.powered

/-- R425, R450: PS. Windows that have begun keep the allowance of the old value. -/
def writePowlim (v : Word) (s : State) : State :=
  let n := (bits v 0 10).toNat
  if n < 300 || 700 < n then s
  else
    let s := rollAllowance s
    { s with pow := { s.pow with ps := n } }

/-- R450: a write to POWLIM. -/
def execPowlimWrite (v : Word) (s : State) : Out := .next (if hostOn s then writePowlim v s else s)

/-- R451: a peer-table entry; one that names the device's own port is not stored. -/
def writePeer (i : Fin 4) (v : Word) (s : State) : State :=
  if bits v 8 8 = Config.ownPort then s
  else { s with host := { s.host with peers := s.host.peers.set i.val (v &&& 0xFF01) i.isLt } }

/-- R450, R451: a write to PEERi. -/
def execPeerEntryWrite (i : Fin 4) (v : Word) (s : State) : Out := .next (if hostOn s then writePeer i v s else s)

/-- R450, R451: INWB and INWL. -/
def writeInbound (len : Bool) (v : Word) (s : State) : State :=
  { s with host :=
    if len then { s.host with inwl := v &&& 0x1FFFFF } else { s.host with inwb := v &&& 0xFFFFFFFF0001 } }

/-- R450: a write to INWB or INWL. -/
def execInboundWindowWrite (len : Bool) (v : Word) (s : State) : Out :=
  .next (if hostOn s then writeInbound len v s else s)

/-- R450: the aperture base; one at or above 192 GiB is ignored. -/
def writeApbase (v : Word) (s : State) : State :=
  let b := v &&& 0xFFFFFE000000
  if 0x3000000000 ≤ b.toNat then s else { s with host := { s.host with apbase := b } }

/-- R450: a write to APBASE. -/
def execApbaseWrite (v : Word) (s : State) : Out := .next (if hostOn s then writeApbase v s else s)

/-- R455: CRBASE or CRSIZE, which keep their values while records are pending. -/
def writeRing (size : Bool) (v : Word) (s : State) : State :=
  if !s.ls.records.isEmpty || !mailboxOn s then s
  else { s with host := if size then { s.host with crsize := v &&& 0x1F } else { s.host with crbase := v } }

/-- R452, R455: a write to CRBASE or CRSIZE. -/
def execCompletionRingConfigWrite (size : Bool) (v : Word) (s : State) : Out := .next (writeRing size v s)

/-- R475: one doubleword of an injection slot; reserved bits take no effect. -/
def writeInjection (i : Fin 8) (dw : Nat) (v : Word) (s : State) : State :=
  let x := s.svc.inj.get i
  let x := if dw = 0 then { x with dw0 := v &&& 0x3FFF3FFF } else if dw = 1 then { x with target := v } else { x with loc := v }
  { s with svc := { s.svc with inj := s.svc.inj.set i.val x i.isLt } }

/-- R475: a write to the injection area. -/
def execInjectionSlotWrite (i : Fin 8) (dw : Fin 3) (v : Word) (s : State) : Out :=
  .next (if hostOn s then writeInjection i dw.val v s else s)

/-! ## Reads of the registers (R430, R447 to R452, R469) -/

/-- The signed bytes of a firmware image: all but its signature, the last 114 bytes (log entry 25). -/
def signedPart (img : List Byte) : List Byte := img.take (img.length - 114)

/-- The firmware image of a kind that runs. -/
def FwSlots.running (f : FwSlots) : List Byte := if f.runB then f.imgB else f.imgA

/-- The identity page (R449): the revisions of the five kinds of firmware that run stand in doublewords 2 to 6, which is the
model's choice (log entry 75); the rest is the part's. -/
def identityWord (s : State) (n : Nat) : Word :=
  if h : 2 ≤ n ∧ n < 7 then BitVec.ofNat 64 (Config.imageVersion (signedPart (s.svc.fw.get ⟨n - 2, by omega⟩).running))
  else Config.identityPage n

/-- A BAR0 register; an offset that is not listed, and a write-only register, reads as zero (R449; log entry 75). The
aperture is not a register. -/
def readBar0 (s : State) (off : Nat) : Word :=
  let svc := s.svc
  if off % 8 != 0 then 0
  else if off < 0x1000 then identityWord s (off / 8)
  else if 0x10000 ≤ off && off < 0x10140 then s.pow.eni.getD ((off - 0x10000) / 8) 0
  else if off = 0x20000 then BitVec.ofNat 64 s.pow.ps
  else if 0x30000 ≤ off && off < 0x30040 && off % 16 = 0 then s.host.peers.getD ((off - 0x30000) / 16) 0
  else if off = 0x30040 then s.host.inwb
  else if off = 0x30048 then s.host.inwl
  else if off = 0x40000 then s.host.apbase
  else if 0x100000 ≤ off && off < 0x100020 then svc.args.getD ((off - 0x100000) / 8) 0
  else if off = 0x100020 then svc.buf
  else if off = 0x100028 then svc.len
  else if off = 0x100038 then svc.st
  else if off = 0x100040 then svc.res0
  else if off = 0x100048 then svc.res1
  else if 0x101000 ≤ off && off < 0x101100 then
    let x := svc.inj.getD ((off - 0x101000) / 32) ⟨0, 0, 0⟩
    if off % 32 = 0 then x.dw0 else if off % 32 = 8 then x.target else if off % 32 = 16 then x.loc else 0
  else 0

/-- A BAR2 register; an offset that is not listed, and a write-only register, reads as zero (R452; log entry 75). -/
def readBar2 (h : HostLink) (off : Nat) : Word :=
  if off = 0x0000 then h.subhdr
  else if off = 0x0008 then h.subsave
  else if off = 0x0010 then h.subovr
  else if off = 0x0018 then h.suben
  else if off = 0x0020 then h.subres
  else if off = 0x0040 then h.crbase
  else if off = 0x0048 then h.crsize
  else if off = 0x0050 then h.crtail
  else if off = 0x0058 then h.crhead
  else if off = 0x0068 then h.cmdarg
  else if off = 0x0070 then h.cmdst
  else if off = 0x0078 then h.irq
  else 0

/-- A doubleword of the four CXL DVSECs, 64 bytes each: for CXL devices, GPF, the Flex Bus port and the register locator
(R448). The header is the standard's: the extended capability, the CXL vendor and length, the DVSEC's identifier (PRESUMED,
log entry 91); what follows it is the part's. -/
def dvsecWord (n : Nat) : Word :=
  let i := n / 8
  let id := [0, 5, 7, 8].getD i 0
  let next := if i = 3 then 0 else 0x300 + 64 * (i + 1)
  if n % 8 = 0 then BitVec.ofNat 64 (0x0023 + 2 ^ 16 + next * 2 ^ 20 + (0x1E98 + 64 * 2 ^ 20) * 2 ^ 32)
  else if n % 8 = 1 then (Config.dvsecBody i 0 &&& ~~~0xFFFF#64) ||| BitVec.ofNat 64 id
  else Config.dvsecBody i (n % 8 - 1)

/-- DOE status: busy with a request, or an answer ready (R448). -/
def doeStatus (h : HostLink) : Word :=
  (if h.doeBusy then 1 else 0) ||| (if h.doe.isEmpty then 0 else 0x80000000#64)

/-- Configuration space (R447, R448, R457, R458): the bases of BAR0, BAR2 and BAR4; the trained width and speed; the
commit of the HDM decoder; the DOE mailbox, its answer and its status; the CXL DVSECs. The spec gives no offsets: those of
the BARs are the standard's, the others the model's (log entries 75 and 91). -/
def readConfig (h : HostLink) (off : Nat) : Word :=
  if off = 0x10 then h.bars.get 0
  else if off = 0x18 then h.bars.get 1
  else if off = 0x20 then h.bars.get 2
  else if off = 0x70 then BitVec.ofNat 64 (h.linkSpeed + 2 ^ 16 * h.linkWidth)
  else if off = 0x100 then (if h.hdm then 1 else 0)
  else if 0x200 ≤ off && off < 0x280 && off % 8 = 0 then
    BitVec.ofNat 64 (ofBytes ((h.doe.drop (off - 0x200)).take 8))
  else if off = 0x290 then doeStatus h
  else if 0x300 ≤ off && off < 0x400 && off % 8 = 0 then dvsecWord ((off - 0x300) / 8)
  else 0

/-- A write to configuration space: each base is aligned to its BAR's size. A doubleword written to the DOE mailbox joins the
request; its control register hands the request over (bit 31) or drops it and the answer (bit 0) (R448, R458). -/
def writeConfig (off : Nat) (v : Word) (s : State) : State :=
  let h := s.host
  if off = 0x10 then { s with host := { h with bars := h.bars.set 0 (v &&& 0xFFFFFFFFFC000000) } }
  else if off = 0x18 then { s with host := { h with bars := h.bars.set 1 (v &&& 0xFFFFFFFFFFFFE000) } }
  else if off = 0x20 then { s with host := { h with bars := h.bars.set 2 (v &&& 0xFFFFFFF000000000) } }
  else if off = 0x100 then { s with host := { h with hdm := bit v 0 } }
  else if off = 0x280 then (if h.doeBusy then s else { s with host := { h with doeReq := h.doeReq ++ toBytes 8 v.toNat } })
  else if off = 0x288 then
    (if bit v 0 then { s with host := { h with doeReq := [], doeBusy := false, doe := [] } }
     else if bit v 31 && !h.doeReq.isEmpty then { s with host := { h with doeBusy := true, doe := [] } } else s)
  else s

/-! ## Host and peer accesses -/

/-- A completion: the bytes read, whether they are poisoned, and whether the request was refused. -/
def complete (s : State) (bs : List Byte) (poison err : Bool) : State :=
  { s with host := { s.host with rdData := bs, rdPoison := poison, rdError := err } }

/-- An access of n bytes from outside at a physical address: it performs at its home and takes no tags. -/
def outsideAccess (s : State) (pa n : Nat) (data : Option (List Byte)) : State :=
  match data with
  | some bs => s.store pa (bs.take n)
  | none =>
    let s := s.probe pa n 0
    complete s (s.readBytes pa n) (s.poisonIn pa n).isSome false

/-- R450: a host access of `len` bytes at offset `off` of the aperture: a write of `data`, or a read. -/
def execApertureAccess (off len : Nat) (data : Option (List Byte)) (s : State) : Out :=
  .next (
    if !hostOn s || 0x2000000 < off + len then s
    else outsideAccess s (s.host.apbase.toNat + off) len data)

/-- R457: a host access to the CXL.mem window at device physical address d, which is LPDDR-6; with no committed decoder
there is no window. -/
def execHostMemoryAccess (d len : Nat) (data : Option (List Byte)) (s : State) : Out :=
  .next (
    if !hostOn s || !s.host.hdm || s.host.ideStopped || 0x20000000000 < d + len then s
    else outsideAccess s (0x010000000000 + d) len data)

/-- Whether a peer request is accepted (R461): the window is enabled and holds it, its requester is a known peer, and
the memory is populated. -/
def peerAccepts (s : State) (port : Byte) (off len : Nat) : Bool :=
  let h := s.host
  let pa := (bits h.inwb 16 32).toNat * 0x10000 + off
  bit h.inwb 0 && off + len ≤ h.inwl.toNat * 0x10000 && off + len ≤ 0x1000000000
    && h.peers.toList.any (fun p => bit p 0 && bits p 8 8 = port)
    && (tier1Ok pa len || tier2Ok pa len)

/-- The sectors that n bytes at a physical address touch are poisoned: a peer's copy carries poison (R109). -/
def poisonRange (s : State) (pa n : Nat) : State :=
  (List.range (sectorsOf pa n)).foldl (fun s i => s.setPoison (pa + 32 * i) (some .due)) s

/-- R109, R461: an inbound request of a peer: accepted, answered as unsupported (a read), or discarded (a write);
`poisoned` says whether a write carries poison. -/
def execPeerRequest (port : Byte) (off len : Nat) (data : Option (List Byte)) (poisoned : Bool) (s : State) : Out :=
  .next (
    if !hostOn s then s
    else if peerAccepts s port off len then
      let pa := (bits s.host.inwb 16 32).toNat * 0x10000 + off
      let t := outsideAccess s pa len data
      if poisoned && data.isSome && !portFailedAt s pa then poisonRange t pa len else t
    else if data.isSome then s
    else complete s [] false true)

/-- R462: a peer's zero-length read: every earlier write of it has performed here, so it completes at once. -/
def execPeerFlushRead (port : Byte) (s : State) : Out :=
  .next (if !hostOn s then s else complete s [] false (!peerAccepts s port 0 0))

/-! ## IDE and the memory ports (R458 to R460) -/

/-- The bit of a port in the set of established key sets. -/
def portBit : LinkPort → BitVec 3
  | .host => 1
  | .mem0 => 2
  | .mem1 => 4

/-- A memory port is marked failed until module reset: a fatal event (R460, R474). -/
def failPort (p : Fin 2) (s : State) : State :=
  if bit s.host.portFailed p.val then s
  else dumpOwl { s with host := { s.host with portFailed := s.host.portFailed ||| (1#2 <<< p.val) } }

/-- The signature of a byte string by the identity key: Ed448 over its SHAKE256 digest (R467, R468). -/
def identitySign (s : State) (bs : List Byte) : List Byte := edSign s.svc.identity (toBytes 64 (shake256 bs).toNat)

/-- R458, R468: keys of a port are established over an SPDM exchange whose messages are `msgs`: the device signs them with
its identity key, and the DOE mailbox, whose request is answered, holds the signature; on the host port, what an IDE failure
stopped goes on. -/
def execIdeKeyExchange (spdm : LinkPort × List Byte) (s : State) : Out :=
  .next (
    let (port, msgs) := spdm
    if !hostOn s then s
    else { s with host := { s.host with
      ideKeys := s.host.ideKeys ||| portBit port
      doeReq := [], doeBusy := false, doe := identitySign s msgs
      ideStopped := if port = .host then false else s.host.ideStopped } })

/-- R458: an integrity failure of a port that has keys. -/
def execIdeIntegrityFailure (port : LinkPort) (s : State) : Out :=
  .next (
    if s.host.ideKeys &&& portBit port = 0 then s
    else
      let s := { s with host := { s.host with ideKeys := s.host.ideKeys &&& ~~~portBit port } }
      match port with
      | .host => { s with host := { s.host with ideStopped := true } }
      | .mem0 => failPort 0 s
      | .mem1 => failPort 1 s)

/-- R460: the link of a memory port has gone down. -/
def execMemoryPortFailure (p : Fin 2) (s : State) : Out := .next (failPort p s)

/-- R459: an expander has not completed a request within 1 ms. -/
def execExpanderTimeout (p : Fin 2) (s : State) : Out := .next (failPort p s)

end Sys2Proof.Machine
end

