-- ==== Sys2Proof/Machine/Service.lean ====
section
/-!
DEFINITION. Start-up, security and service (R445, R446, R463 to R478): the service mailbox and its commands, logs, the
wear record, attestation, extents, parking, firmware, training records, boot, reset and power loss.
-/
namespace Sys2Proof.Machine

/-! ## The service mailbox (R469) -/

/-- LOST of SVCST (R469). -/
def svcLost (s : State) : Word := s.svc.st &&& 0x8000000000000000#64

/-- A service command that has been carried out: the bytes are in the buffer, and SVCST is done. -/
def svcDone (s : State) (bs : List Byte) (r0 r1 : Nat) : State :=
  { s with
    host := { s.host with hostMem := memWrite s.host.hostMem s.svc.buf.toNat bs }
    svc := { s.svc with
      busy := none, st := svcLost s ||| BitVec.ofNat 64 (bs.length % 2 ^ 32 * 2 ^ 16)
      res0 := BitVec.ofNat 64 r0, res1 := BitVec.ofNat 64 r1 } }

/-- A refused command, with its reason. -/
def svcRefuse (s : State) (reason : Nat) : State :=
  { s with svc := { s.svc with busy := none, st := svcLost s ||| BitVec.ofNat 64 (2 + reason % 256 * 2 ^ 8) } }

/-- The device carries out the service command `opc` that the host has written: the mailbox answers once the device has
booted; in recovery it accepts only some (R467, R469). -/
def svcRun (s : State) (opc : Nat) (inRecovery : Bool) (f : State → State) : Out :=
  .next (
    if !hostOn s || !(s.svc.booted || s.svc.recovery) || s.svc.busy != some opc then s
    else if s.svc.recovery && !inRecovery then svcRefuse s 5
    else f s)

/-- A write to SVCCMD (R469): a busy mailbox discards it and sets LOST; an accepted one clears LOST. An opcode that is not
listed is a bad argument. -/
def writeSvccmd (v : Word) (s : State) : State :=
  let opc := (bits v 0 8).toNat
  if s.svc.busy.isSome then { s with svc := { s.svc with st := s.svc.st ||| 0x8000000000000000#64 } }
  else
    let s := { s with svc := { s.svc with st := 1, busy := some opc } }
    if 1 ≤ opc && opc ≤ 13 then s else svcRefuse { s with svc := { s.svc with st := 0 } } 2

/-- n bytes of the data buffer. -/
def svcBytes (s : State) (off n : Nat) : List Byte := memReadN s.host.hostMem (s.svc.buf.toNat + off) n

def svcArg (s : State) (i : Fin 4) : Nat := (s.svc.args.get i).toNat

/-! ## Logs (R471, R473) -/

/-- The log an id names. -/
def logById (s : State) (id : Nat) : Option Log :=
  let n := id % 256
  let i4 : Fin 4 := ⟨n % 4, Nat.mod_lt _ (by decide)⟩
  let i16 : Fin 16 := ⟨n % 16, Nat.mod_lt _ (by decide)⟩
  if id / 256 = 0 && n < 4 then some (s.svc.cell.get i4)
  else if id / 256 = 1 && n < 4 then some (s.svc.lane.get i4)
  else if id / 256 = 2 && n < 16 then some (s.svc.flash.get i16)
  else if id = 0x300 then some s.svc.power
  else if id / 256 = 4 && n < 16 then some (s.svc.array.get i16)
  else if id / 256 = 5 && n < 16 then some (s.svc.arrayPL.get i16)
  else none

/-- The same log, emptied. -/
def clearLog (s : State) (id : Nat) : State :=
  let n := id % 256
  { s with svc :=
    if id / 256 = 0 then { s.svc with cell := s.svc.cell.setIfInBounds n .empty }
    else if id / 256 = 1 then { s.svc with lane := s.svc.lane.setIfInBounds n .empty }
    else if id / 256 = 2 then { s.svc with flash := s.svc.flash.setIfInBounds n .empty }
    else if id = 0x300 then { s.svc with power := .empty }
    else if id / 256 = 4 then { s.svc with array := s.svc.array.setIfInBounds n .empty }
    else { s.svc with arrayPL := s.svc.arrayPL.setIfInBounds n .empty } }

/-- Entries from ARG1 on, oldest first, as many as fit the buffer. -/
def sendEntries (s : State) (l : List (BitVec 256)) (lost : Nat) : State :=
  let es := (l.drop (svcArg s 1)).take (s.svc.len.toNat / 32)
  svcDone s (es.flatMap (fun e => toBytes 32 e.toNat)) es.length lost

/-- R469: LOGREAD. -/
def execLogread (s : State) : Out :=
  svcRun s 2 false (fun s => match logById s (svcArg s 0) with
    | some l => sendEntries s l.entries l.lost
    | none => svcRefuse s 2)

/-- R469: LOGCLR. -/
def execLogclr (s : State) : Out :=
  svcRun s 3 false (fun s => match logById s (svcArg s 0) with
    | some _ => svcDone (clearLog s (svcArg s 0)) [] 0 0
    | none => svcRefuse s 2)

/-- R469, R473, R474: OWLREAD: the live ring, or a saved dump, the newest first. -/
def execOwlread (s : State) : Out :=
  svcRun s 4 false (fun s =>
    let k := svcArg s 0
    if k = 0 then sendEntries s s.svc.owl.entries s.svc.owl.lost
    else if 4 < k then svcRefuse s 2
    else sendEntries s (if s.svc.dumps.length < k then [] else s.svc.dumps.getD (s.svc.dumps.length - k) []) 0)

/-! ## Wear (R476, R477) -/

/-- One sample of a sensor (R476). -/
def wearStep (w : WearCount) (t : Nat) : WearCount :=
  if !w.armed then
    let l := Nat.min w.low t
    if l + 30 ≤ t then { w with low := l, armed := true, peak := t } else { w with low := l }
  else
    let p := Nat.max w.peak t
    if t + 30 ≤ p then { w with peak := p, cycles := w.cycles + 1, armed := false, low := t } else { w with peak := p }

/-- The counts the boot region of the flash holds: power cycles, powered seconds, the cycles of each sensor. -/
def wearCounts (s : State) : List Nat :=
  [s.svc.powerCycles, s.svc.poweredSecs] ++ s.svc.wearWS.toList.map (fun w => w.cycles) ++ [s.svc.wearDie.cycles]

def saveWear (s : State) : State := { s with svc := { s.svc with savedWear := wearCounts s } }

/-- R476: the sample of a second. -/
def execWearSample (s : State) : Out :=
  .next (
    if !s.svc.booted || s.stamp < s.svc.sampleAt then s
    else
      let ws := Vector.ofFn (fun (j : Fin 16) => wearStep (s.svc.wearWS.get j) (s.stack j).temp)
      let die := wearStep s.svc.wearDie (hottest s)
      let reached (a b : WearCount) : Bool := a.cycles < 40000 && 40000 ≤ b.cycles
      let n := ((List.finRange 16).filter (fun j => reached (s.svc.wearWS.get j) (ws.get j))).length
        + (if reached s.svc.wearDie die then 1 else 0)
      let s := { s with svc := { s.svc with
        wearWS := ws, wearDie := die, poweredSecs := s.svc.poweredSecs + 1, sampleAt := s.svc.sampleAt + 600000000 } }
      (List.range n).foldl (fun s _ => owlOpen s) s)

/-- R476: every 10 minutes the counts go to the boot region. -/
def execWearCountSave (s : State) : Out :=
  .next (
    if !s.svc.booted || s.stamp < s.svc.saveAt then s
    else saveWear { s with svc := { s.svc with saveAt := s.svc.saveAt + 360000000000 } })

/-- The wear record's bytes (R477). -/
def wearBytes (s : State) : List Byte :=
  let worn := (s.svc.wearWS.toList.zip (List.range 16)).foldl (fun n p =>
    if 40000 ≤ p.1.cycles then n + 2 ^ p.2 else n) 0
  toBytes 8 s.svc.powerCycles ++ toBytes 8 s.svc.poweredSecs
    ++ s.svc.wearWS.toList.flatMap (fun w => toBytes 4 w.cycles) ++ toBytes 4 s.svc.wearDie.cycles
    ++ toBytes 4 (worn + (if 40000 ≤ s.svc.wearDie.cycles then 2 ^ 16 else 0)) ++ toBytes 8 0

/-- R477: WEAR. -/
def execWear (s : State) : Out :=
  svcRun s 5 false (fun s => if s.svc.len.toNat < 96 then svcRefuse s 1 else svcDone s (wearBytes s) 0 0)

/-! ## Attestation (R468, R470) -/

/-- The digest of the image that runs, of one kind: over its signed bytes, as its signature is (R467, R470). -/
def runDigest (f : FwSlots) : BitVec 512 := shake256 (signedPart f.running)

/-- The extent tables of all stacks as bytes, in stack order. -/
def extentBytes (s : State) : List Byte :=
  s.wstacks.toList.flatMap (fun w => w.extents.flatMap (fun x =>
    toBytes 4 x.ext.toNat ++ [if x.isSealed then 1 else 0] ++ toBytes 64 x.digest.toNat
      ++ x.runs.flatMap (fun r => toBytes 8 r.toNat)))

/-- The signed part of the report. -/
def attestBody (s : State) : List Byte :=
  let flags := (if s.svc.restored then 1 else 0) + (if s.svc.recovery then 2 else 0)
    + (if s.pow.fallback then 4 else 0)
    + (if s.wstacks.toList.any (fun w => w.extents.any (fun x => x.suspect)) then 8 else 0)
  svcBytes s 0 32 ++ toBytes 8 s.stampW.toNat ++ toBytes 8 s.svc.rollback
    ++ (s.svc.fw.toList.drop 1).flatMap (fun f => toBytes 64 (runDigest f).toNat)
    ++ toBytes 64 (shake256 (extentBytes s)).toNat ++ toBytes 8 flags ++ List.replicate 136 0

/-- R470: ATTEST. -/
def execAttest (s : State) : Out :=
  svcRun s 6 false (fun s =>
    if s.svc.len.toNat < 0x272 then svcRefuse s 1
    else
      let body := attestBody s
      svcDone s (body ++ identitySign s body) 0 0)

/-! ## The clock and extents (R332, R412, R413, R469) -/

/-- R469, R412: TIME; the first after a cold boot queues every extent that is due for scrub; one sensed while the clock
was unknown was last seen then. -/
def execTime (s : State) : Out :=
  svcRun s 7 false (fun s =>
    let t := svcArg s 0
    let seen (x : Extent) : Extent := match x.seenTick with
      | some n => { x with lastSeen := t - (s.stamp - n) / 600000000, seenTick := none }
      | none => x
    let s := { s with
      svc := { s.svc with clock := some (t, s.stamp) }
      wstacks := s.wstacks.map (fun w =>
        let l := w.extents.map seen
        { w with
          extents := l
          scrubQ := w.scrubQ ++ ((l.filter (fun x =>
            x.lastSeen + 2592000 ≤ t && !w.scrubQ.contains x.ext)).map (fun x => x.ext)) }) }
    svcDone s [] 0 0)

/-- A page of an extent as stored: its tag agrees with the identifier, the page and the sealed flag (R329, R352). -/
def extentPage (w : Stack) (ext : Nat) (sealed_ : Bool) (p : Nat × Nat × Nat) : Option (BitVec 73728 × Nat) :=
  match storedPage w p.1 p.2.1 p.2.2 with
  | none => none
  | some (_, f) =>
    let (t, ok) := tagOf f.raw
    if ok && t.ext = ext && t.lp = p.2.2 && t.isSealed = sealed_ then some (f.raw, t.kind) else none

/-- The stored data bytes of an extent's data pages, in (die, plane, logical page) order, when every tag is right. -/
def extentData (w : Stack) (ext : Nat) (sealed_ : Bool) : List (Nat × Nat × Nat) → Option (List Byte)
  | [] => some []
  | p :: r =>
    match extentPage w ext sealed_ p, extentData w ext sealed_ r with
    | some (raw, kind), some bs => some ((if kind = 0 then pageBytes raw else []) ++ bs)
    | _, _ => none

/-- R469: EXTADD: the runs lie in one stack, every page tag is right, and the digest is recomputed. -/
def execExtadd (s : State) : Out :=
  svcRun s 8 false (fun s =>
    let n := s.svc.len.toNat
    if n < 72 then svcRefuse s 1
    else
      let runs := (List.range ((n - 64) / 8)).map (fun i => BitVec.ofNat 64 (ofBytes (svcBytes s (64 + 8 * i) 8)))
      let j : Fin 16 := (bits (runs.headD 0) 0 4).toFin
      let ext : BitVec 32 := BitVec.ofNat 32 (svcArg s 0)
      let x : Extent := ⟨ext, (svcArg s 1).testBit 0, BitVec.ofNat 512 (ofBytes (svcBytes s 0 64)), runs, false, wallClock s,
        if s.svc.clock.isSome then none else some s.stamp⟩
      let w := s.stack j
      if (n - 64) % 8 != 0 || 2 ^ 32 ≤ svcArg s 0 || !runs.all (fun r => bits r 0 4 = bits (runs.headD 0) 0 4) then
        svcRefuse s 2
      else
        match extentData w ext.toNat x.isSealed (extentPages x j) with
        | none => svcRefuse s 2
        | some bs =>
          if shake256 bs != x.digest then svcRefuse s 4
          else svcDone (s.setStack j { w with extents := w.extents.filter (fun y => y.ext != ext) ++ [x] }) [] 0 0)

/-- R469: EXTDEL. -/
def execExtdel (s : State) : Out :=
  svcRun s 9 false (fun s =>
    let ext : BitVec 32 := BitVec.ofNat 32 (svcArg s 0)
    if s.wstacks.toList.any (fun w => w.extents.any (fun x => x.ext.toNat = svcArg s 0)) then
      svcDone { s with wstacks := s.wstacks.map (fun w => { w with extents := w.extents.filter (fun x => x.ext != ext) }) }
        [] 0 0
    else svcRefuse s 2)

/-! ## Retention park (R445, R446) -/

/-- The park of core k's SRAM begins, unless one of its banks holds a RUNNING context: its entry takes 48,000 ticks, and
the power log hears of it (R432, R445; log entry 27). -/
def parkCore (s : State) (k : Fin 16) : State :=
  let c := s.core k
  let runs (x : Bool) : Bool := match s.launchOf (s.bankAt k x) with
    | some l => l.state = .running
    | none => false
  if c.parked || runs false || runs true then s
  else
    logPowerOpen (s.setCore k { c with parked := true, parkAt := s.stamp + 48000, exitAt := none }) 9 (clIsland k).val 0

/-- R445, R469: PARK, while no launch holds a slot: every core is parked, and the stacks idle. The wear counts are saved
(R476). -/
def execPark (s : State) : Out :=
  svcRun s 10 false (fun s =>
    if (List.finRange 16).any (fun i => (s.launch i).isSome) then svcRefuse s 5
    else
      let s := (List.finRange 16).foldl parkCore (saveWear s)
      svcDone { s with svc := { s.svc with parked := true } } [] 0 0)

/-- R469: UNPARK ends the park: every core's exit begins. -/
def execUnpark (s : State) : Out :=
  svcRun s 11 false (fun s =>
    svcDone ((List.finRange 16).foldl beginExit { s with svc := { s.svc with parked := false } }) [] 0 0)

/-- The array and the byte offset of sector n of a core's parked SRAM: its slice, then its accumulator store, then its
vector registers. -/
def parkedSector (n : Nat) : Nat × Nat :=
  if n < 0x60000 then (0, 32 * n) else if n < 0x64000 then (1, 32 * (n - 0x60000)) else (2, 32 * (n - 0x64000))

/-- R446: the exit of a parked slice. It begins when an access has started it or the service core ends the park, and is over
36,000 ticks later; `errs` lists sectors with the code bits found wrong. More than two in one cannot be corrected: the
sector is poisoned without the margin mark, and both logs hear of it. -/
def execRetentionParkExit (k : Fin 16) (errs : List (Nat × List Nat)) (s : State) : Out :=
  .next (
    let c := s.core k
    if !c.parked then s
    else
      match c.exitAt with
      | none => if s.svc.parked then s else beginExit s k
      | some t =>
        if s.stamp < t then s
        else
          let s := logPowerOpen (s.setCore k { c with parked := false, exitAt := none }) 10 (clIsland k).val 0
          (errs.filter (fun e => 2 < e.2.eraseDups.length && e.1 < 0x66000)).foldl (fun s e =>
            let (v, s) := s.draw
            let (arr, o) := parkedSector e.1
            logPowerOpen (logArray (markCore s k arr o .due) k o arr 5 (v.toNat % 256) 0) 10 (clIsland k).val 0) s)

/-! ## Firmware (R467, R469) -/

/-- An image in the inactive slot of its kind. -/
def putImage (f : FwSlots) (img : List Byte) : FwSlots := if f.runB then { f with imgA := img } else { f with imgB := img }

/-- Whether a firmware image verifies (R467): the public key it carries, the 57 bytes before the signature (log entry 25), is
the one whose digest is fused, and the signature over the digest of the signed bytes verifies under it. -/
def imageOk (keyDigest : BitVec 512) (img : List Byte) : Bool :=
  let body := signedPart img
  let key := body.drop (body.length - 57)
  171 ≤ img.length && shake256 key = keyDigest
    && edVerify key (toBytes 64 (shake256 body).toNat) (img.drop (img.length - 114))

/-- R467, R469: FWUPD: the image goes into the inactive slot and is verified. The update starts in fallback (R443); power
firmware switches at once, other firmware at the next cold boot. -/
def execFwupd (s : State) : Out :=
  svcRun s 12 true (fun s =>
    let k := svcArg s 0
    if 5 ≤ k then svcRefuse s 2
    else
      let img := svcBytes s 0 s.svc.len.toNat
      let i : Fin 5 := ⟨k % 5, Nat.mod_lt _ (by decide)⟩
      let s := enterFallback s
      let f := putImage (s.svc.fw.get i) img
      let put (f : FwSlots) : State := { s with svc := { s.svc with fw := s.svc.fw.set i.val f i.isLt } }
      if !imageOk s.svc.keyDigest img then svcRefuse (put f) 3
      else if k = 3 then svcDone (put { f with runB := !f.runB }) [] 0 0
      else svcDone (put f) [] 0 0)

/-- The image a boot takes: the valid one with the highest version that is at least the rollback minimum (R467). -/
def bootSlot (keyDigest : BitVec 512) (minV : Nat) (f : FwSlots) : Option Bool :=
  let va := Config.imageVersion (signedPart f.imgA)
  let vb := Config.imageVersion (signedPart f.imgB)
  let a := imageOk keyDigest f.imgA && minV ≤ va
  let b := imageOk keyDigest f.imgB && minV ≤ vb
  if a && (!b || vb ≤ va) then some false else if b then some true else none

/-! ## Training records (R464 to R466) -/

/-- R466: RETRAIN: both copies are invalid. -/
def execRetrain (s : State) : Out :=
  svcRun s 13 false (fun s =>
    svcDone { s with svc := { s.svc with
      trainA := { s.svc.trainA with valid := false }, trainB := { s.svc.trainB with valid := false } } } [] 0 0)

/-- The lane maps in force: the lanes each channel's spares replace. -/
def laneMap (s : State) : AMap (List Nat) :=
  s.dram.filterMap (fun c => if c.2.spares.isEmpty then none else some (c.1, c.2.spares))

/-- The bytes of a training record that its signature covers; their layout is the model's (log entry 76). -/
def Training.bytes (c : Training) : List Byte :=
  toBytes 8 c.version ++ toBytes 8 c.seqNo ++ toBytes 8 c.temp ++ toBytes 8 c.set.dram.toNat ++ toBytes 8 c.set.lpddr.toNat
    ++ c.set.presets.toList.flatMap (fun w => toBytes 8 w.toNat)
    ++ c.lanes.flatMap (fun x => toBytes 8 x.1 ++ toBytes 8 x.2.length ++ x.2.flatMap (toBytes 8)) ++ c.fingerprint

/-- Whether the signature of a copy verifies (R465): one whose write was interrupted does not (R466). -/
def sigOk (s : State) (c : Training) : Bool :=
  !c.torn && c.sig.length = 114 && edVerify (edPublic s.svc.identity) (toBytes 64 (shake256 c.bytes).toNat) c.sig

/-- Whether a copy is valid in a boot at temperature t (R465). -/
def copyValid (s : State) (t : Nat) (c : Training) : Bool :=
  c.valid && sigOk s c && c.version = Config.trainingVersion && c.fingerprint = s.svc.fingerprint
    && t ≤ c.temp + 25 && c.temp ≤ t + 25

/-- The copy a boot uses: the valid one with the higher sequence number (R465). -/
def bootCopy (s : State) (t : Nat) : Option Training :=
  let a := s.svc.trainA
  let b := s.svc.trainB
  let okA := copyValid s t a
  let okB := copyValid s t b
  if okA && (!okB || b.seqNo ≤ a.seqNo) then some a else if okB then some b else none

/-- Whether copy A is the older one: the lower sequence number; a copy whose write was interrupted is no newer than the
other (R466). -/
def olderIsA (a b : Training) : Bool := if a.torn != b.torn then a.torn else decide (a.seqNo ≤ b.seqNo)

/-- The copy written last. -/
def lastCopy (s : State) : Training := if olderIsA s.svc.trainA s.svc.trainB then s.svc.trainB else s.svc.trainA

/-- Whether a new record is due (R466): after a training in full, and after a spare-lane swap. -/
def recordDue (s : State) : Bool := s.svc.fullTrained || (lastCopy s).lanes != laneMap s

/-- R465, R466: a new record replaces the older copy, with the next sequence number; a power loss during the write
leaves that copy invalid and the other one in force. -/
def execTrainingRecordWrite (powerLost : Bool) (s : State) : Out :=
  .next (
    if !s.svc.booted || !recordDue s then s
    else
      let a := s.svc.trainA
      let b := s.svc.trainB
      let c : Training :=
        { valid := true, torn := powerLost, version := Config.trainingVersion, seqNo := Nat.max a.seqNo b.seqNo + 1
          temp := s.svc.bootTemp, set := s.svc.settings, lanes := laneMap s, fingerprint := s.svc.fingerprint, sig := [] }
      let c := { c with sig := identitySign s c.bytes }
      let svc := { s.svc with fullTrained := false }
      { s with svc := if olderIsA a b then { svc with trainA := c } else { svc with trainB := c } })

/-! ## Boot, reset, power (R463, R474) -/

/-- The relocations that the map, the retired block pairs and the levels call for (R404, R411). -/
def requeue (w : Stack) : Stack :=
  w.map.foldl (fun w m =>
    let pk := m.1 / 8192
    let n := m.1 % 8192
    if isRetired w pk m.2.pblk then queueReloc w (pk / 64) (pk % 64) n .retire 0
    else if levelOf w pk n = 0 then w
    else queueReloc w (pk / 64) (pk % 64) n (levelCause (levelOf w pk n)) 0) w

/-- A stack without what it holds in SRAM or in progress: the cells, the map and the counts of the flash stay; the duty
word is at its reset value (R371). -/
def keepFlash (w : Stack) : Stack :=
  requeue { Stack.init with
    map := w.map.map (fun m => (m.1, { m.2 with moving := false })), pages := w.pages, retired := w.retired
    pec := w.pec, dirty := w.dirty, filling := w.filling, dist := w.dist, level := w.level, wseq := w.wseq
    temp := w.temp, dieTemp := w.dieTemp, retCount := w.retCount
    extents := w.extents }

/-- The extents of a stack whose power is lost: a sense made while the clock was not set has no time any more, for STAMP
starts again at 0, and the extent keeps the time it had before (R412; DESIGN CHOICE, log entry 90). -/
def forgetSeen (w : Stack) : Stack := { w with extents := w.extents.map (fun x => { x with seenTick := none }) }

/-- The lane swaps of a boot: those of the copy it uses, else of the last copy whose signature verifies (R464, R465). -/
def bootLanes (s : State) (use : Option Training) : AMap DramChan :=
  let l := match use with
    | some c => c.lanes
    | none =>
      let c := lastCopy s
      let d := if olderIsA s.svc.trainA s.svc.trainB then s.svc.trainA else s.svc.trainB
      if sigOk s c then c.lanes else if sigOk s d then d.lanes else []
  l.map (fun c => (c.1, { DramChan.init with spares := c.2 }))

/-- "VVO identity" (R468). -/
def identityLabel : List Byte := [0x56, 0x56, 0x4F, 0x20, 0x69, 0x64, 0x65, 0x6E, 0x74, 0x69, 0x74, 0x79]

/-- The settings of a boot (R464): each interface is restored from the copy in use, but for those whose restore fails, which
train in full; without a copy all train. What training finds is a free value. Interfaces: near DRAM, LPDDR-6, then the
nineteen links. -/
def bootSettings (s : State) (use : Option Training) (fails : BitVec 21) : LinkSettings :=
  let free (i : Nat) : Word := Config.freeValue (s.fresh + i)
  let get (i : Nat) (f : LinkSettings → Word) : Word := match use with
    | some c => if bit fails i then free i else f c.set
    | none => free i
  { dram := get 0 (fun x => x.dram), lpddr := get 1 (fun x => x.lpddr)
    presets := Vector.ofFn (fun (i : Fin 19) => get (2 + i.val) (fun x => x.presets.get i)) }

/-- Width and speed the host port trains to (R447): ×8 at 64 GT/s, or one of the widths and speeds below these that CXL 3.1
allows (log entry 75). -/
def trainHost (v : Word) : Nat × Nat :=
  ([8, 4, 2, 1].getD (v.toNat % 4) 8, [64, 32, 16, 8].getD (v.toNat / 4 % 4) 64)

/-- A boot that stays in recovery, a fatal event (R467, R474). -/
def enterRecovery (s : State) : State := dumpOwl { s with svc := { s.svc with recovery := true } }

/-- Step 8's self-test of every band (R318, R463): `bad` has bit 4k + b set for a band of core k whose test fails. -/
def bootTests (bad : BitVec 64) (s : State) : State :=
  (List.finRange 16).foldl (fun s k => (List.finRange 4).foldl (fun s b =>
    if bit bad (4 * k.val + b.val) then fenceBand s k b else passBand s k b) s) s

/-- TR after a boot at temperature t (R465): that of the copy all of whose settings it restored, else of this boot's
training. -/
def trainTemp (use : Option Training) (fails : BitVec 21) (t : Nat) : Nat :=
  match use with
  | some c => if fails = 0 then c.temp else t
  | none => t

/-- Steps 4 to 8 of a boot whose firmware has verified (R463 to R465). -/
def bootInterfaces (fails : BitVec 21) (bad : BitVec 64) (temp : Nat) (s : State) : State :=
  let use := bootCopy s temp
  let (w, s) := ({ s with fresh := s.fresh + 21, svc := { s.svc with settings := bootSettings s use fails } } : State).draw
  let s := { s with
    dram := bootLanes s use
    host := { s.host with linkWidth := (trainHost w).1, linkSpeed := (trainHost w).2 }
    svc := { s.svc with
      restored := use.isSome && fails = 0, fullTrained := use.isNone || fails != 0
      bootTemp := trainTemp use fails temp
      wearWS := Vector.ofFn (fun (j : Fin 16) => { s.svc.wearWS.get j with armed := false, low := (s.stack j).temp })
      wearDie := { s.svc.wearDie with armed := false, low := temp }
      sampleAt := s.stamp + 600000000, saveAt := s.stamp + 360000000000 } }
  -- the ends of steps 4 to 7, and of step 8 after the self-tests
  let s := owlOpen (bootTests bad ((List.range 4).foldl (fun s _ => owlOpen s) s))
  { s with svc := { s.svc with booted := true, step9 := true } }

/-- R463 to R468: cold boot. `copies` says whether stage one reads and verifies from the boot region of WS0, and of WS1,
which is taken when that copy fails; `fails` names the interfaces whose restore fails, and the bands whose self-test
does; `temp` is the hottest compute-die temperature at step 4. Without a stage one, or without a valid image of
every kind, the device stays in recovery. The identity key is derived anew. -/
def execColdBoot (copies : Bool × Bool) (fails : BitVec 21 × BitVec 64) (temp : Nat) (s : State) : Out :=
  .next (
    if s.svc.powered && (s.svc.booted || s.svc.recovery) then s
    else
      let s := if s.svc.powered then s else { s with clk := 0 }
      let s := owlOpen { s with svc := { s.svc with
        powered := true, powerCycles := s.svc.powerCycles + 1, clock := none
        identity := shakeBytes (s.svc.secret ++ identityLabel) 57 } }
      if !(copies.1 || copies.2) then enterRecovery s
      else
        let s := owlOpen s
        let pickSlot (f : FwSlots) : Option Bool := bootSlot s.svc.keyDigest s.svc.rollback f
        if s.svc.fw.toList.any (fun f => (pickSlot f).isNone) then enterRecovery s
        else
          bootInterfaces fails.1 fails.2 temp (owlOpen { s with svc := { s.svc with
            fw := s.svc.fw.map (fun f => { f with runB := (pickSlot f).getD false }) } }))

/-- The power controller after module reset, on a STAMP that goes on. -/
def resetPower (p : Power) : Power :=
  { Power.init with
    clTemp := p.clTemp, uncTemp := p.uncTemp, limNext := p.limNext, budgetWin := p.budgetWin, allowWin := p.allowWin
    energyWin := p.energyWin, boostWin := p.boostWin, uvWin := p.uvWin }

/-- R338, R427, R430, R434, R439, R460, R471: module reset. Memory, flash, logs, firmware and training stay; STAMP goes on
(log entry 24). -/
def execModuleReset (s : State) : Out :=
  .next (
    if !s.svc.powered then s
    else
      { s with
        cores := Vector.replicate 16 Core.init
        ls := .init
        wstacks := s.wstacks.map keepFlash
        bf := ⟨[], 0⟩
        pow := resetPower s.pow
        dram := s.dram.map (fun c => (c.1, { c.2 with active := false, testing := false, swapped := false }))
        host := { HostLink.init with
          hostMem := s.host.hostMem, linkWidth := s.host.linkWidth, linkSpeed := s.host.linkSpeed }
        svc := { s.svc with
          parked := false, busy := none, args := Vector.replicate 4 0, buf := 0, len := 0, st := 0, res0 := 0, res1 := 0
          inj := Vector.replicate 8 ⟨0, 0, 0⟩ } })

/-- What is left without power: the flash, what the boot region holds, and the world outside. -/
def withoutPower (s : State) : State :=
  { State.reset with
    clk := s.clk, cur := s.cur, sched := s.sched, turn := s.turn, fresh := s.fresh
    wstacks := s.wstacks.map (fun w => forgetSeen (keepFlash w))
    host := { HostLink.init with hostMem := s.host.hostMem }
    svc := { Service.init with
      keyDigest := s.svc.keyDigest, secret := s.svc.secret, fingerprint := s.svc.fingerprint
      powered := false, dumps := s.svc.dumps, trainA := s.svc.trainA, trainB := s.svc.trainB, fw := s.svc.fw
      rollback := s.svc.rollback, savedWear := s.svc.savedWear, powerCycles := s.svc.savedWear.getD 0 0
      poweredSecs := s.svc.savedWear.getD 1 0
      wearWS := Vector.ofFn (fun (j : Fin 16) => ⟨false, 0, 0, s.svc.savedWear.getD (2 + j.val) 0⟩)
      wearDie := ⟨false, 0, 0, s.svc.savedWear.getD 18 0⟩ } }

/-- R474: power is lost: the cores stop, the dump and the wear record are written, and the rest is gone. -/
def execPowerLoss (s : State) : Out :=
  .next (if s.svc.powered then withoutPower (saveWear (dumpOwl s)) else s)

/-! ## RESYNC (R478) -/

/-- A section of n bytes: words, zero-filled. -/
def paddedWords (n : Nat) (ws : List Word) : List Byte :=
  (ws.flatMap (fun (w : Word) => toBytes 8 w.toNat) ++ List.replicate n 0).take n

/-- The header: STAMP; the active version and slot of each kind of firmware; recovery and fallback. -/
def resyncHeader (s : State) : List Word :=
  [s.stampW] ++ s.svc.fw.toList.map (fun f =>
      twoHalves (Config.imageVersion (signedPart f.running)) (if f.runB then 1 else 0))
    ++ [flagWord [s.svc.recovery, s.pow.fallback]]

/-- The code of a context's state, in the order of the table of R137; 7 is a launch submitted and not yet checked. -/
def ctxStateCode : CtxState → Nat
  | .waiting => 0
  | .running => 1
  | .preempted => 2
  | .held => 3
  | .saved => 4
  | .ended => 5
  | .submitted => 7

/-- A slot of the launch table: LSEQ, state, PRIO, effective priority, CORMASK, ENRG, BTOK, NREC. -/
def launchWords (s : State) (i : Fin 16) : List Word :=
  match s.launch i with
  | none => List.replicate 8 0
  | some l =>
    [l.lseq.setWidth 64, BitVec.ofNat 64 (ctxStateCode l.state), BitVec.ofNat 64 l.prio, BitVec.ofNat 64 l.eff,
     l.hdr.cormask.setWidth 64, BitVec.ofNat 64 (l.energyNJ / 1000), BitVec.ofInt 64 l.btok,
     BitVec.ofNat 64 (recsOf s (ctxidOf s (some i))).length]

/-- A bank: the occupancy of the six queues and the job-table entries in use, a byte each, then CTXID. -/
def bankWords (b : Bank) : List Word :=
  let n (e : Eng) : Nat := (queueEntries b e).length % 256
  [BitVec.ofNat 64 (ofBytes (([Eng.vector, .matrix, .copy, .kv, .stack, .backfill].map n ++
      [(b.jobs.filter (fun j => j.inTable)).length % 256]).map
      (BitVec.ofNat 8))), if b.slot.isSome then b.ctxid else 0]

/-- The power section: STAMP, PS, BR, BH, CAD of each slot on each cluster, and the islands' voltages. -/
def powerBytes (s : State) : List Byte :=
  paddedWords 32 [s.stampW, BitVec.ofNat 64 s.pow.ps, BitVec.ofInt 64 s.pow.br, BitVec.ofNat 64 s.pow.bh]
    ++ (List.finRange 16).flatMap (fun i => match s.launch i with
      | some l => l.cad.toList.map (BitVec.ofNat 8)
      | none => List.replicate 4 0)
    ++ (List.range 40).flatMap (fun isl => toBytes 2 (islandVolt s isl))
    ++ List.replicate 80 0

/-- The link section: STAMP; the degraded near-DRAM channels, 256 bits; the spare lanes left in all; then the failed memory
ports, the ports under IDE, and whether IDE has stopped the host port. -/
def linkWords (s : State) : List Word :=
  let bad := (List.range 256).foldl (fun n c => if (s.dramAt c).degraded then n + 2 ^ c else n) 0
  let left := (List.range 256).foldl (fun n c => n + (2 - (s.dramAt c).spares.length)) 0
  [s.stampW] ++ (List.range 4).map (fun i => BitVec.ofNat 64 (bad / 2 ^ (64 * i))) ++
    [BitVec.ofNat 64 left, BitVec.ofNat 64 (s.host.portFailed.toNat + 16 * s.host.ideKeys.toNat
      + (if s.host.ideStopped then 256 else 0))]

/-- The summary of R478, section by section; the order of the fields inside the sections is the model's (log entry
26). -/
def resyncBytes (s : State) : List Byte :=
  paddedWords 0x40 (resyncHeader s)
    ++ (List.finRange 16).flatMap (fun i => paddedWords 64 (launchWords s i))
    ++ s.ls.lastStop.toList.flatMap (fun r => match r with
      | some r => r.bytes
      | none => List.replicate 64 0)
    ++ (List.finRange 16).flatMap (fun k => [false, true].flatMap (fun x => paddedWords 16 (bankWords (s.bankAt k x))))
    ++ powerBytes s
    ++ s.wstacks.toList.flatMap (fun w => paddedWords 64 (statRecord s w))
    ++ paddedWords 0x40 (linkWords s)

/-- R478: RESYNC. -/
def execResync (s : State) : Out :=
  svcRun s 1 true (fun s =>
    if s.svc.len.toNat < 0xF80 then svcRefuse s 1
    else svcDone s (resyncBytes s) 0 0)

/-! ## Host writes (R449, R452, R469) -/

/-- The service command that waits, by its opcode. -/
def serviceStep (opc : Nat) : State → Out :=
  if opc = 1 then execResync else if opc = 2 then execLogread else if opc = 3 then execLogclr
  else if opc = 4 then execOwlread else if opc = 5 then execWear else if opc = 6 then execAttest
  else if opc = 7 then execTime else if opc = 8 then execExtadd else if opc = 9 then execExtdel
  else if opc = 10 then execPark else if opc = 11 then execUnpark else if opc = 12 then execFwupd else execRetrain

/-- The launch command that waits. -/
def commandStep (p : BitVec 32 × Nat) : State → Out :=
  if p.2 = 1 then execAbort p.1 else if p.2 = 2 then execResume p.1 else execSetEnergy p.1

/-- A write to CMD (R456): CMDST is busy until the command has been applied. A write while it is busy, and an OPC the table
does not list for a launch in a slot, take no effect (log entry 75). -/
def writeCmd (v : Word) (s : State) : State :=
  let n : BitVec 32 := bits v 0 32
  let opc := (bits v 32 4).toNat
  if !mailboxOn s || s.host.cmdPending.isSome then s
  else if 1 ≤ opc && opc ≤ 3 then { s with host := { s.host with cmdst := 1, cmdPending := some (n, opc) } }
  else if (slotOfLseq s n).isNone then cmdStatus s 2 else s

/-- A write to BAR0 (R449, R450, R469, R475). -/
def writeBar0 (off : Nat) (v : Word) (s : State) : Out :=
  let svc (x : Service) : Out := .next { s with svc := x }
  if off = 0x20000 then .next (writePowlim v s)
  else if 0x30000 ≤ off && off < 0x30040 && off % 16 = 0 then
    (if h : (off - 0x30000) / 16 < 4 then .next (writePeer ⟨(off - 0x30000) / 16, h⟩ v s) else .next s)
  else if off = 0x30040 then .next (writeInbound false v s)
  else if off = 0x30048 then .next (writeInbound true v s)
  else if off = 0x40000 then .next (writeApbase v s)
  else if 0x100000 ≤ off && off < 0x100020 && off % 8 = 0 then
    svc { s.svc with args := s.svc.args.setIfInBounds ((off - 0x100000) / 8) v }
  else if off = 0x100020 then svc { s.svc with buf := v }
  else if off = 0x100028 then svc { s.svc with len := v }
  else if off = 0x100030 then .next (writeSvccmd v s)
  else if 0x101000 ≤ off && off < 0x101100 && off % 8 = 0 && off % 32 < 24 then
    .next (writeInjection ⟨(off - 0x101000) / 32 % 8, Nat.mod_lt _ (by decide)⟩ (off % 32 / 8) v s)
  else if 0x2000000 ≤ off && off < 0x4000000 && off % 8 = 0 then
    .next (outsideAccess s (s.host.apbase.toNat + (off - 0x2000000)) 8 (some (toBytes 8 v.toNat)))
  else .next s

/-- A write to BAR2 (R452, R453). -/
def writeBar2 (off : Nat) (v : Word) (s : State) : Out :=
  let host (x : HostLink) : Out := .next { s with host := x }
  if s.host.ideStopped then .next s
  else if off = 0x0000 then host { s.host with subhdr := v }
  else if off = 0x0008 then host { s.host with subsave := v }
  else if off = 0x0010 then host { s.host with subovr := v &&& 0x3FF07 }
  else if off = 0x0018 then host { s.host with suben := v }
  else if off = 0x0040 then .next (writeRing false v s)
  else if off = 0x0048 then .next (writeRing true v s)
  else if off = 0x0058 then host { s.host with crhead := v }
  else if off = 0x0060 then .next (writeCmd v s)
  else if off = 0x0068 then host { s.host with cmdarg := v }
  else if off = 0x0078 then host { s.host with irq := v &&& 1 }
  else if off = 0x1000 then execDoorbell v s
  else .next s

/-- A host read of a doubleword of a register, or of configuration space (BAR number 7), answers in one completion; a BAR
that is absent, and BAR2 after an IDE failure of the host port, answer as unsupported (R448, R458). -/
def readRegister (bar : BitVec 3) (off : Nat) (s : State) : State :=
  let answer (w : Word) : State := complete s (toBytes 8 w.toNat) false false
  if bar = 0#3 then
    (if 0x2000000 ≤ off && off < 0x4000000 then outsideAccess s (s.host.apbase.toNat + (off - 0x2000000)) 8 none
     else answer (readBar0 s off))
  else if bar = 2#3 && !s.host.ideStopped then answer (readBar2 s.host off)
  else if bar = 7#3 then answer (readConfig s.host off)
  else complete s [] false true

/-- R449, R452: a host write of a doubleword to a register, where an offset that is not listed, or read-only, takes no
effect; or, without data, a host read. -/
def execRegisterWrite (bar : BitVec 3) (off : Nat) (data : Option Word) (s : State) : Out :=
  if !hostOn s then .next s
  else
    match data with
    | none => .next (readRegister bar off s)
    | some v =>
      if bar = 0#3 then writeBar0 off v s
      else if bar = 2#3 then writeBar2 off v s
      else if bar = 7#3 then .next (writeConfig off v s)
      else .next s

end Sys2Proof.Machine
end

