-- ==== Sys2Proof/Machine/Stalls.lean ====
section
/-!
DEFINITION. The waits for stamps (R205), the ends of stalls (R162), and the channel-stall detector (R149).
-/
namespace Sys2Proof.Machine

/-! ## Waits for a stamp (R205) -/

/-- Whether a `cxs` send to core k that has not moved its data yet is due by now: its delivery tick TA, were its path
free, has come (R262). -/
def deliveryOwed (s : State) (k : Fin 16) : Bool :=
  (cxsWaiting s).any (fun p =>
    let (path, len, recv) := cxsShape p.1.val p.2.1.e
    recv = k.val && (p.2.2 + 8 + 2 * path.length + len + 1) / 2 ≤ s.stamp)

/-- Whether a wait for STAMP to reach t is over: what was to be delivered to the core by now has been (R262). -/
def stampReached (s : State) (t : Nat) : Bool := t ≤ s.stamp && !deliveryOwed s s.cur

/-- Stall until STAMP reaches a value (R205). -/
def stampWait (t : Nat) (s : State) : Out :=
  finish s (if stampReached s t then .ok (retire s 1) else .error (.wait (.stamp t)))

/-- R205: an absolute stamp. -/
def execStwait (ra : Reg) (s : State) : Out := stampWait (getReg s.bk ra).toNat s

/-- R205: a stamp relative to BRS. -/
def execStwaitR (ra : Reg) (s : State) : Out := stampWait (s.bk.brs + getReg s.bk ra).toNat s

/-! ## Stalls end (R162) -/

/-- Whether the cause of a stall is gone, so that the instruction issues again. -/
def stallGone (s : State) (b : Bank) : Stall → Bool
  | .loads => b.loads.isEmpty
  | .queue e => if e = .vector then b.vec.queue.length < 32 else (queued b e).length < queueSize e
  | .table => tableUse (s.core s.cur) < 48
  | .handle h =>
    let x := b.handles.get ⟨h % 16, Nat.mod_lt _ (by decide)⟩
    !x.pd || x.missing
  | .vector => b.vec.queue.isEmpty
  | .naming chan n =>
    let i : Fin 16 := ⟨n % 16, Nat.mod_lt _ (by decide)⟩
    if chan then !chanNamed b i else !b.vec.queue.any (fun e => namesHandle e.i i)
  | .job seq => !jobPending b seq
  | .channel n p m _ =>
    let c := chanAt b ⟨n % 16, Nat.mod_lt _ (by decide)⟩
    !c.view && chanReady c p m
  | .stamp t => stampReached s t
  | .tracker => (s.core s.cur).tracker.length < 8
  | .slice k => !shutCore s ⟨k % 16, Nat.mod_lt _ (by decide)⟩
  | .barrier => false
  | .wfe _ => false
  | .pageAnswer => false

/-- R162: the stall of core k's control core ends when its cause is gone; `wfe` retires then (R210), and a barrier
wait retires at T + 4 (R23). -/
def execInstructionStallEnd (k : Fin 16) (s : State) : Out :=
  .next (onCore s k (fun s =>
    let b := s.bk
    if b.stoppedAt.isSome || clStalled s s.cur then s else
    match b.stall with
    | none => s
    | some (.wfe t) => if t ≤ s.clk then retire (s.setBk { b with stall := none }) 1 else s
    | some .barrier => if barrierOver s then leaveBarrier s else s
    | some w => if stallGone s b w then s.setBk { b with stall := none } else s))

/-! ## The channel-stall detector (R149) -/

/-- The channel the control core waits on, when its stall counts for R149: a `cbwait`, or a wait of R194 or R214. -/
def chstOwn : Option Stall → Option Nat
  | some (.channel n _ _ false) => some n
  | some (.naming true n) => some n
  | some (.naming false _) => some 0
  | _ => none

/-- The head entry of each non-empty engine queue of a bank, with its engine; an entry that waits in its place for its
channel is its engine's head (R11). -/
def queueHeads (b : Bank) : List (Eng × Entry) :=
  (b.vec.queue.take 1).map (fun e => (.vector, e)) ++
  [Eng.matrix, .copy, .kv, .stack, .backfill].filterMap (fun e =>
    (b.jobs.find? (fun j => j.eng = e && (j.phase = .queued || j.phase = .dispatched))).map (fun j => (e, j.e)))

/-- The oldest of a list of entries. -/
def oldestEntry : List (Eng × Entry) → Option (Eng × Entry)
  | [] => none
  | e :: r =>
    match oldestEntry r with
    | none => some e
    | some x => if x.2.since < e.2.since then some x else some e

/-- The slots an entry waits for on a channel operand with wait count w: a vector entry for all it moves (R220), a matrix
entry for one beyond those its latches hold (R298), a stream for room for a slot (R285), a stack job for all its slots
(R344). -/
def slotsWanted (b : Bank) (e : Eng × Entry) (c : Chan) (n : Fin 16) (w : Nat) : Nat :=
  match e.1 with
  | .vector => Nat.max w ((chanBytes e.2.shp + c.slot - 1) / c.slot)
  | .matrix => Nat.max w 1 + heldSlots b.mat n
  | .kv => Nat.max w 1
  | .stack => Nat.max w e.2.vd
  | .copy | .backfill => w

/-- The channel an entry waits on: an operand whose wait is not met. -/
def headWaits (s : State) (b : Bank) (loc : Loc) (e : Eng × Entry) : Option Nat :=
  (chanOperands e.2.i).findSome? (fun o =>
    match s.chanHome s.cur b loc o.1 with
    | some (_, _, c) => if chanReady c o.2.1 (slotsWanted b e c o.1 o.2.2) then none else some o.1.val
    | none => none)

/-- The pointers of some channels of a bank, as their homes hold them. -/
def chanPointers (s : State) (b : Bank) (loc : Loc) (l : List Nat) : List Nat :=
  l.flatMap (fun n =>
    match s.chanHome s.cur b loc ⟨n % 16, Nat.mod_lt _ (by decide)⟩ with
    | some (_, _, c) => [n, c.head, c.tail, c.filled]
    | none => [n])

/-- Whether a job of a context runs on any core (R149). -/
def anyRunning (s : State) (slot : Option (Fin 16)) : Bool :=
  (List.finRange 16).any (fun k => [false, true].any (fun x =>
    (s.bankAt k x).slot = slot && (s.bankAt k x).jobs.any (fun j => j.phase = .running || j.phase = .ended)))

/-- R149: the channel-stall detector of core k. Each evaluation restarts the count when a condition fails or a channel the
core waits on has moved; after 600,000,000 ticks it raises CHST. -/
def execChannelStall (k : Fin 16) (s : State) : Out :=
  .next (onCore s k (fun s =>
    let b := s.bk
    let loc := s.activeLoc s.cur
    let heads := queueHeads b
    let waits := heads.map (headWaits s b loc)
    let own := chstOwn b.stall
    let full := match b.stall with
      | some (.queue g) => heads.any (fun e => e.1 = g)
      | _ => false
    let cond := b.mode = .user && b.stoppedAt.isNone && (own.isSome || full) && waits.all Option.isSome
      && !anyRunning s b.slot
    let sig := chanPointers s b loc (own.toList ++ waits.filterMap id)
    if !cond then s.setBk { b with chst := none }
    else
      match b.chst with
      | some (t, p) =>
        if p != sig then s.setBk { b with chst := some (s.stamp, sig) }
        else if t + 600000000 ≤ s.stamp then
          let ch := ((oldestEntry heads).bind (headWaits s b loc)).getD (own.getD 0)
          takeFault (s.setBk { b with chst := none }) ⟨.chst, BitVec.ofNat 64 ch, 3, 0⟩
        else s
      | none => s.setBk { b with chst := some (s.stamp, sig) }))

end Sys2Proof.Machine
end

