-- ==== Sys2Proof/Machine/Start.lean ====
section
/-!
DEFINITION. The start of a dispatched job of the copy, KV, weight-stack and backfill engines (R9, R15, R117), and the
further starts of a job that waits in its place.
-/
namespace Sys2Proof.Machine

/-- Whether a job that has started looks again at what it waits for: pins (R287), room in the pending table (R388), its
records (R395, R396), or a page (R256); a pull goes on with its acknowledgement. -/
def looksAgain (j : Job) : Bool :=
  match j.e.i with
  | .kvfree _ _ | .bfpost _ _ | .bfwait _ _ | .bfflush _ _ => true
  | .cpeer _ f => j.wait.isSome && !bit f.m 0
  | _ => j.wait.isSome

/-- Start a job by its engine. Matrix jobs start in MATRIX_ENTRY_START and vector entries in VECTOR_ENTRY_START. -/
def startByEngine (s : State) (k : Fin 16) (loc : Loc) (b : Bank) (j : Job) : State :=
  match j.eng with
  | .copy => startCopy s k loc b j
  | .kv => startKv s k loc b j
  | .stack => startStack s k loc b j
  | .backfill => startBackfill s k loc b j
  | .vector | .matrix => s

/-- The job of core k whose message the aperture acknowledges: a `cpeer` that waits for its port (R462). -/
def peerWaits (j : Job) : Option Bool :=
  match j.e.i with
  | .cpeer _ f => if j.phase = .running && !looksAgain j then some (bit f.m 0) else none
  | _ => none

/-- R261: a `cxs` that no executing place has taken by its tick completes with SMISS where it waits in the queue; while its
bank is stopped its stamp waits for the shift of the resume (R142). -/
def missedInQueue (s : State) (b : Bank) (j : Job) : Bool :=
  isCxs j.e.i && j.phase = .queued && b.stoppedAt.isNone && !edgeFailed b j && j.e.stamp.getD 0 < s.stamp

/-- The ring a `cpyw` writes (R258); the other jobs with channels reach their rings in later steps. -/
def copyRing (s : State) (k : Fin 16) (b : Bank) (loc : Loc) (i : Instr) : List Region :=
  match i with
  | .cpyw _ _ => ringRegions s k b loc i
  | _ => []

/-- R15: a dispatched job starts once its edges have completed and its channel is ready; one that waits in its place looks
again; a `cpeer` in its place has its acknowledgement. Slices it touches must answer
(R446). -/
def execJobStart (k : Fin 16) (seq : BitVec 16) (s : State) : Out :=
  .next (match s.findJob k seq with
    | none => s
    | some (loc, j) =>
      match s.locBank k loc with
      | none => s
      | some b =>
        if missedInQueue s b j then s.setJob k loc (faultJob j .smiss 0 0 0)
        else if j.phase = .dispatched || (j.phase = .running && looksAgain j) then
          whenOpen s (j.reads ++ j.writes ++ copyRing s k b loc j.e.i) (fun s => startByEngine s k loc b j)
        else
          match peerWaits j with
          | some pull => ackPeer s k loc b j pull
          | none => s)

end Sys2Proof.Machine
end

