-- ==== Sys2Proof/Machine/Dispatch.lean ====
section
/-!
DEFINITION. One arm per constructor of Instr: the meaning of each instruction and step of the device, by a direct call.
-/
namespace Sys2Proof.Machine

def exec (i : Instr) (s : State) : Host.Outcome State Fault Refusal :=
  match i with
  | .add rd ra rb => Sys2Proof.Machine.execAdd rd ra rb s
  | .sub rd ra rb => Sys2Proof.Machine.execSub rd ra rb s
  | .mul rd ra rb => Sys2Proof.Machine.execMul rd ra rb s
  | .mulh rd ra rb => Sys2Proof.Machine.execMulh rd ra rb s
  | .mulhu rd ra rb => Sys2Proof.Machine.execMulhu rd ra rb s
  | .div rd ra rb => Sys2Proof.Machine.execDiv rd ra rb s
  | .divu rd ra rb => Sys2Proof.Machine.execDivu rd ra rb s
  | .rem rd ra rb => Sys2Proof.Machine.execRem rd ra rb s
  | .remu rd ra rb => Sys2Proof.Machine.execRemu rd ra rb s
  | .and rd ra rb => Sys2Proof.Machine.execAnd rd ra rb s
  | .or rd ra rb => Sys2Proof.Machine.execOr rd ra rb s
  | .xor rd ra rb => Sys2Proof.Machine.execXor rd ra rb s
  | .andn rd ra rb => Sys2Proof.Machine.execAndn rd ra rb s
  | .shl rd ra rb => Sys2Proof.Machine.execShl rd ra rb s
  | .shr rd ra rb => Sys2Proof.Machine.execShr rd ra rb s
  | .sar rd ra rb => Sys2Proof.Machine.execSar rd ra rb s
  | .min rd ra rb => Sys2Proof.Machine.execMin rd ra rb s
  | .max rd ra rb => Sys2Proof.Machine.execMax rd ra rb s
  | .minu rd ra rb => Sys2Proof.Machine.execMinu rd ra rb s
  | .maxu rd ra rb => Sys2Proof.Machine.execMaxu rd ra rb s
  | .slt rd ra rb => Sys2Proof.Machine.execSlt rd ra rb s
  | .sltu rd ra rb => Sys2Proof.Machine.execSltu rd ra rb s
  | .clz rd ra => Sys2Proof.Machine.execClz rd ra s
  | .ctz rd ra => Sys2Proof.Machine.execCtz rd ra s
  | .popc rd ra => Sys2Proof.Machine.execPopc rd ra s
  | .addi rd ra imm => Sys2Proof.Machine.execAddi rd ra imm s
  | .andi rd ra imm => Sys2Proof.Machine.execAndi rd ra imm s
  | .ori rd ra imm => Sys2Proof.Machine.execOri rd ra imm s
  | .xori rd ra imm => Sys2Proof.Machine.execXori rd ra imm s
  | .slti rd ra imm => Sys2Proof.Machine.execSlti rd ra imm s
  | .shli rd ra n => Sys2Proof.Machine.execShli rd ra n s
  | .shri rd ra n => Sys2Proof.Machine.execShri rd ra n s
  | .sari rd ra n => Sys2Proof.Machine.execSari rd ra n s
  | .lui rd imm => Sys2Proof.Machine.execLui rd imm s
  | .imad rd ra rb rc => Sys2Proof.Machine.execImad rd ra rb rc s
  | .sel rd ra rb rc => Sys2Proof.Machine.execSel rd ra rb rc s
  | .bfx rd ra pos lenM1 => Sys2Proof.Machine.execBfx rd ra pos lenM1 s
  | .bfi rd ra pos lenM1 => Sys2Proof.Machine.execBfi rd ra pos lenM1 s
  | .lea rd ra rb sh => Sys2Proof.Machine.execLea rd ra rb sh s
  | .wrapa rd ra ch => Sys2Proof.Machine.execWrapa rd ra ch s
  | .beq ra rb off => Sys2Proof.Machine.execBeq ra rb off s
  | .bne ra rb off => Sys2Proof.Machine.execBne ra rb off s
  | .blt ra rb off => Sys2Proof.Machine.execBlt ra rb off s
  | .bge ra rb off => Sys2Proof.Machine.execBge ra rb off s
  | .bltu ra rb off => Sys2Proof.Machine.execBltu ra rb off s
  | .bgeu ra rb off => Sys2Proof.Machine.execBgeu ra rb off s
  | .jmp off => Sys2Proof.Machine.execJmp off s
  | .jal off => Sys2Proof.Machine.execJal off s
  | .jr ra => Sys2Proof.Machine.execJr ra s
  | .loop lvl p ra len => Sys2Proof.Machine.execLoop lvl p ra len s
  | .loopi lvl p cnt len => Sys2Proof.Machine.execLoopi lvl p cnt len s
  | .lbrk lvl ra => Sys2Proof.Machine.execLbrk lvl ra s
  | .lbrkUnconditional lvl => Sys2Proof.Machine.execLbrkUnconditional lvl s
  | .rep ra => Sys2Proof.Machine.execRep ra s
  | .repImmediate cnt => Sys2Proof.Machine.execRepImmediate cnt s
  | .spset imm => Sys2Proof.Machine.execSpset imm s
  | .lds rd base size off => Sys2Proof.Machine.execLds rd base size off s
  | .ldsu rd base size off => Sys2Proof.Machine.execLdsu rd base size off s
  | .sts rd base size off => Sys2Proof.Machine.execSts rd base size off s
  | .ldh rd base size off => Sys2Proof.Machine.execLdh rd base size off s
  | .ldhu rd base size off => Sys2Proof.Machine.execLdhu rd base size off s
  | .sth rd base size off => Sys2Proof.Machine.execSth rd base size off s
  | .xlat h ra => Sys2Proof.Machine.execXlat h ra s
  | .hinv h => Sys2Proof.Machine.execHinv h s
  | .hq rd h => Sys2Proof.Machine.execHq rd h s
  | .amo rd ra rb ord z hnd op => Sys2Proof.Machine.execAmo rd ra rb ord z hnd op s
  | .cas rd ra rb ord z hnd => Sys2Proof.Machine.execCas rd ra rb ord z hnd s
  | .lda rd ra size hnd => Sys2Proof.Machine.execLda rd ra size hnd s
  | .stl ra rb size hnd => Sys2Proof.Machine.execStl ra rb size hnd s
  | .fence scope => Sys2Proof.Machine.execFence scope s
  | .bar => Sys2Proof.Machine.execBar s
  | .bara => Sys2Proof.Machine.execBara s
  | .barw => Sys2Proof.Machine.execBarw s
  | .cbset ch ra => Sys2Proof.Machine.execCbset ch ra s
  | .cbadv ch rb side => Sys2Proof.Machine.execCbadv ch rb side s
  | .cbq rd ch => Sys2Proof.Machine.execCbq rd ch s
  | .cbwait ch rb side => Sys2Proof.Machine.execCbwait ch rb side s
  | .jwait ra => Sys2Proof.Machine.execJwait ra s
  | .jq rd ra => Sys2Proof.Machine.execJq rd ra s
  | .ecfg item ra => Sys2Proof.Machine.execEcfg item ra s
  | .erd rd item => Sys2Proof.Machine.execErd rd item s
  | .stmp rd => Sys2Proof.Machine.execStmp rd s
  | .stwait ra => Sys2Proof.Machine.execStwait ra s
  | .stwaitR ra => Sys2Proof.Machine.execStwaitR ra s
  | .wid rd f => Sys2Proof.Machine.execWid rd f s
  | .tail => Sys2Proof.Machine.execTail s
  | .exit => Sys2Proof.Machine.execExit s
  | .csrr rd csr => Sys2Proof.Machine.execCsrr rd csr s
  | .csrw csr ra => Sys2Proof.Machine.execCsrw csr ra s
  | .trap code => Sys2Proof.Machine.execTrap code s
  | .brk code => Sys2Proof.Machine.execBrk code s
  | .nop => Sys2Proof.Machine.execNop s
  | .sret => Sys2Proof.Machine.execSret s
  | .wfe => Sys2Proof.Machine.execWfe s
  | .vadd h f => Sys2Proof.Machine.execVadd h f s
  | .vsub h f => Sys2Proof.Machine.execVsub h f s
  | .vmul h f => Sys2Proof.Machine.execVmul h f s
  | .vfma h f => Sys2Proof.Machine.execVfma h f s
  | .vfms h f => Sys2Proof.Machine.execVfms h f s
  | .vfnma h f => Sys2Proof.Machine.execVfnma h f s
  | .vdiv h f => Sys2Proof.Machine.execVdiv h f s
  | .vsqrt h f => Sys2Proof.Machine.execVsqrt h f s
  | .vmin h f => Sys2Proof.Machine.execVmin h f s
  | .vmax h f => Sys2Proof.Machine.execVmax h f s
  | .vabs h f => Sys2Proof.Machine.execVabs h f s
  | .vneg h f => Sys2Proof.Machine.execVneg h f s
  | .vcmp h f => Sys2Proof.Machine.execVcmp h f s
  | .vclass h f => Sys2Proof.Machine.execVclass h f s
  | .vexp2 h f => Sys2Proof.Machine.execVexp2 h f s
  | .vlog2 h f => Sys2Proof.Machine.execVlog2 h f s
  | .viadd h f => Sys2Proof.Machine.execViadd h f s
  | .visub h f => Sys2Proof.Machine.execVisub h f s
  | .vimul h f => Sys2Proof.Machine.execVimul h f s
  | .vimad h f => Sys2Proof.Machine.execVimad h f s
  | .viand h f => Sys2Proof.Machine.execViand h f s
  | .vior h f => Sys2Proof.Machine.execVior h f s
  | .vixor h f => Sys2Proof.Machine.execVixor h f s
  | .vishl h f => Sys2Proof.Machine.execVishl h f s
  | .vishr h f => Sys2Proof.Machine.execVishr h f s
  | .visar h f => Sys2Proof.Machine.execVisar h f s
  | .vimin h f => Sys2Proof.Machine.execVimin h f s
  | .vimax h f => Sys2Proof.Machine.execVimax h f s
  | .vicmp h f => Sys2Proof.Machine.execVicmp h f s
  | .vcvt h f => Sys2Proof.Machine.execVcvt h f s
  | .vtfenc h f => Sys2Proof.Machine.execVtfenc h f s
  | .vtfdec h f => Sys2Proof.Machine.execVtfdec h f s
  | .vtfcmp h f => Sys2Proof.Machine.execVtfcmp h f s
  | .vqblk h f => Sys2Proof.Machine.execVqblk h f s
  | .vdqblk h f => Sys2Proof.Machine.execVdqblk h f s
  | .vred h f => Sys2Proof.Machine.execVred h f s
  | .vdot4 h f => Sys2Proof.Machine.execVdot4 h f s
  | .vld h f => Sys2Proof.Machine.execVld h f s
  | .vst h f => Sys2Proof.Machine.execVst h f s
  | .vldc h f => Sys2Proof.Machine.execVldc h f s
  | .vstc h f => Sys2Proof.Machine.execVstc h f s
  | .vmov h f => Sys2Proof.Machine.execVmov h f s
  | .vsel h f => Sys2Proof.Machine.execVsel h f s
  | .vbcast h f => Sys2Proof.Machine.execVbcast h f s
  | .vperm h f => Sys2Proof.Machine.execVperm h f s
  | .vtrans h f => Sys2Proof.Machine.execVtrans h f s
  | .vgat h f => Sys2Proof.Machine.execVgat h f s
  | .vsca h f => Sys2Proof.Machine.execVsca h f s
  | .mlog h f => Sys2Proof.Machine.execMlog h f s
  | .vkeep h f => Sys2Proof.Machine.execVkeep h f s
  | .vrng h f => Sys2Proof.Machine.execVrng h f s
  | .vshape h f => Sys2Proof.Machine.execVshape h f s
  | .vdfr h f => Sys2Proof.Machine.execVdfr h f s
  | .vdrn h f => Sys2Proof.Machine.execVdrn h f s
  | .vdcnt h f => Sys2Proof.Machine.execVdcnt h f s
  | .mlatch h f => Sys2Proof.Machine.execMlatch h f s
  | .mgath h f => Sys2Proof.Machine.execMgath h f s
  | .mmul h f => Sys2Proof.Machine.execMmul h f s
  | .mattn h f => Sys2Proof.Machine.execMattn h f s
  | .mpair h f => Sys2Proof.Machine.execMpair h f s
  | .mdrain h f => Sys2Proof.Machine.execMdrain h f s
  | .mld h f => Sys2Proof.Machine.execMld h f s
  | .mzero h f => Sys2Proof.Machine.execMzero h f s
  | .mmask h f => Sys2Proof.Machine.execMmask h f s
  | .mstat h f => Sys2Proof.Machine.execMstat h f s
  | .mtest h f => Sys2Proof.Machine.execMtest h f s
  | .mwait h f => Sys2Proof.Machine.execMwait h f s
  | .cpy h f => Sys2Proof.Machine.execCpy h f s
  | .cpyw h f => Sys2Proof.Machine.execCpyw h f s
  | .cfill h f => Sys2Proof.Machine.execCfill h f s
  | .cgat h f => Sys2Proof.Machine.execCgat h f s
  | .csca h f => Sys2Proof.Machine.execCsca h f s
  | .cxs h f => Sys2Proof.Machine.execCxs h f s
  | .cpeer h f => Sys2Proof.Machine.execCpeer h f s
  | .kvopen h f => Sys2Proof.Machine.execKvopen h f s
  | .kvseek h f => Sys2Proof.Machine.execKvseek h f s
  | .kvstrm h f => Sys2Proof.Machine.execKvstrm h f s
  | .kvapp h f => Sys2Proof.Machine.execKvapp h f s
  | .kvref h f => Sys2Proof.Machine.execKvref h f s
  | .kvfree h f => Sys2Proof.Machine.execKvfree h f s
  | .kvstat h f => Sys2Proof.Machine.execKvstat h f s
  | .fact h f => Sys2Proof.Machine.execFact h f s
  | .fsa h f => Sys2Proof.Machine.execFsa h f s
  | .fsav h f => Sys2Proof.Machine.execFsav h f s
  | .fsense h f => Sys2Proof.Machine.execFsense h f s
  | .fscal h f => Sys2Proof.Machine.execFscal h f s
  | .frebuild h f => Sys2Proof.Machine.execFrebuild h f s
  | .fmap h f => Sys2Proof.Machine.execFmap h f s
  | .fstat h f => Sys2Proof.Machine.execFstat h f s
  | .fsync h f => Sys2Proof.Machine.execFsync h f s
  | .fprog h f => Sys2Proof.Machine.execFprog h f s
  | .ferase h f => Sys2Proof.Machine.execFerase h f s
  | .fduty h f => Sys2Proof.Machine.execFduty h f s
  | .xconf h f => Sys2Proof.Machine.execXconf h f s
  | .bfpost h f => Sys2Proof.Machine.execBfpost h f s
  | .bfwait h f => Sys2Proof.Machine.execBfwait h f s
  | .bfmode h f => Sys2Proof.Machine.execBfmode h f s
  | .bfq h f => Sys2Proof.Machine.execBfq h f s
  | .bfflush h f => Sys2Proof.Machine.execBfflush h f s
  | .bdgq h f => Sys2Proof.Machine.execBdgq h f s
  | .bdghold h f => Sys2Proof.Machine.execBdghold h f s
  | .instructionStallEnd k => Sys2Proof.Machine.execInstructionStallEnd k s
  | .loadReturn k => Sys2Proof.Machine.execLoadReturn k s
  | .translationWalk k hn => Sys2Proof.Machine.execTranslationWalk k hn s
  | .vectorEntryStart k => Sys2Proof.Machine.execVectorEntryStart k s
  | .vectorFaultTaken k => Sys2Proof.Machine.execVectorFaultTaken k s
  | .matrixEntryStart k => Sys2Proof.Machine.execMatrixEntryStart k s
  | .pairHeaderArrival k => Sys2Proof.Machine.execPairHeaderArrival k s
  | .pairMerge k => Sys2Proof.Machine.execPairMerge k s
  | .pairVerdict k => Sys2Proof.Machine.execPairVerdict k s
  | .pairAbort k => Sys2Proof.Machine.execPairAbort k s
  | .cxsPathReserve k seq => Sys2Proof.Machine.execCxsPathReserve k seq s
  | .streamSlotFill k seq => Sys2Proof.Machine.execStreamSlotFill k seq s
  | .stackCommandArrival j => Sys2Proof.Machine.execStackCommandArrival j s
  | .pairArbitration j die q => Sys2Proof.Machine.execPairArbitration j die q s
  | .senseComplete j die q => Sys2Proof.Machine.execSenseComplete j die q s
  | .pageDecode j die pl errs => Sys2Proof.Machine.execPageDecode j die pl errs s
  | .softReread j die pl errs => Sys2Proof.Machine.execSoftReread j die pl errs s
  | .macPass j die q => Sys2Proof.Machine.execMacPass j die q s
  | .groupReduction j cid gi => Sys2Proof.Machine.execGroupReduction j cid gi s
  | .stackOutput j cid => Sys2Proof.Machine.execStackOutput j cid s
  | .backfillVectorLoad rec j => Sys2Proof.Machine.execBackfillVectorLoad rec j s
  | .backfillRowForm rec layer => Sys2Proof.Machine.execBackfillRowForm rec layer s
  | .backfillSlotWrite rec layer => Sys2Proof.Machine.execBackfillSlotWrite rec layer s
  | .engineDispatch k e => Sys2Proof.Machine.execEngineDispatch k e s
  | .jobStart k seq => Sys2Proof.Machine.execJobStart k seq s
  | .jobCompletion k seq => Sys2Proof.Machine.execJobCompletion k seq s
  | .jobFault k seq => Sys2Proof.Machine.execJobFault k seq s
  | .channelViewRequest k => Sys2Proof.Machine.execChannelViewRequest k s
  | .barrierRelease slot => Sys2Proof.Machine.execBarrierRelease slot s
  | .tagSweep slot => Sys2Proof.Machine.execTagSweep slot s
  | .pageRequestAnswer idx => Sys2Proof.Machine.execPageRequestAnswer idx s
  | .doorbell v => Sys2Proof.Machine.execDoorbell v s
  | .launchDecision slot => Sys2Proof.Machine.execLaunchDecision slot s
  | .preemption k => Sys2Proof.Machine.execPreemption k s
  | .contextResume slot => Sys2Proof.Machine.execContextResume slot s
  | .workItemStart k => Sys2Proof.Machine.execWorkItemStart k s
  | .trackerEntryFree k => Sys2Proof.Machine.execTrackerEntryFree k s
  | .contextEnd slot => Sys2Proof.Machine.execContextEnd slot s
  | .abort lseq => Sys2Proof.Machine.execAbort lseq s
  | .injectionSlotWrite j dw v => Sys2Proof.Machine.execInjectionSlotWrite j dw v s
  | .registerWrite bar off data => Sys2Proof.Machine.execRegisterWrite bar off data s
  | .apertureAccess off len data => Sys2Proof.Machine.execApertureAccess off len data s
  | .hostMemoryAccess d len data => Sys2Proof.Machine.execHostMemoryAccess d len data s
  | .coldBoot copies fails temp => Sys2Proof.Machine.execColdBoot copies fails temp s
  | .encodingNotAnInstruction r => Sys2Proof.Machine.execEncodingNotAnInstruction r s
  | .pageProgram j cid ok ok2 => Sys2Proof.Machine.execPageProgram j cid ok ok2 s
  | .selfTest k b pass => Sys2Proof.Machine.execSelfTest k b pass s
  | .pairWindowExpiry k => Sys2Proof.Machine.execPairWindowExpiry k s
  | .pendingRefetch k seq => Sys2Proof.Machine.execPendingRefetch k seq s
  | .coverageQuery k seq => Sys2Proof.Machine.execCoverageQuery k seq s
  | .flitReplay j ok => Sys2Proof.Machine.execFlitReplay j ok s
  | .stackLinkFailure j => Sys2Proof.Machine.execStackLinkFailure j s
  | .dieNotResponding j die => Sys2Proof.Machine.execDieNotResponding j die s
  | .backfillAgeLimit slot => Sys2Proof.Machine.execBackfillAgeLimit slot s
  | .channelStall k => Sys2Proof.Machine.execChannelStall k s
  | .tier1BurstRead pa errs par ctx => Sys2Proof.Machine.execTier1BurstRead pa errs par ctx s
  | .parityRetry ch par => Sys2Proof.Machine.execParityRetry ch par s
  | .laneTest ch lane => Sys2Proof.Machine.execLaneTest ch lane s
  | .writeParityError pa par ctx => Sys2Proof.Machine.execWriteParityError pa par ctx s
  | .revocation slot lo len => Sys2Proof.Machine.execRevocation slot lo len s
  | .priorityAging slot => Sys2Proof.Machine.execPriorityAging slot s
  | .energyHold slot => Sys2Proof.Machine.execEnergyHold slot s
  | .resume lseq => Sys2Proof.Machine.execResume lseq s
  | .setEnergy lseq => Sys2Proof.Machine.execSetEnergy lseq s
  | .completionRingConfigWrite size v => Sys2Proof.Machine.execCompletionRingConfigWrite size v s
  | .powlimWrite v => Sys2Proof.Machine.execPowlimWrite v s
  | .peerEntryWrite j v => Sys2Proof.Machine.execPeerEntryWrite j v s
  | .inboundWindowWrite len v => Sys2Proof.Machine.execInboundWindowWrite len v s
  | .apbaseWrite v => Sys2Proof.Machine.execApbaseWrite v s
  | .peerRequest port off len data poisoned => Sys2Proof.Machine.execPeerRequest port off len data poisoned s
  | .peerFlushRead port => Sys2Proof.Machine.execPeerFlushRead port s
  | .peerTimeout k at_ => Sys2Proof.Machine.execPeerTimeout k at_ s
  | .ideKeyExchange spdm => Sys2Proof.Machine.execIdeKeyExchange spdm s
  | .ideIntegrityFailure port => Sys2Proof.Machine.execIdeIntegrityFailure port s
  | .memoryPortFailure p => Sys2Proof.Machine.execMemoryPortFailure p s
  | .expanderTimeout p => Sys2Proof.Machine.execExpanderTimeout p s
  | .retentionParkExit k errs => Sys2Proof.Machine.execRetentionParkExit k errs s
  | .trainingRecordWrite powerLost => Sys2Proof.Machine.execTrainingRecordWrite powerLost s
  | .stackTrip j => Sys2Proof.Machine.execStackTrip j s
  | .stackTripClear j => Sys2Proof.Machine.execStackTripClear j s
  | .stackTripPersisted j => Sys2Proof.Machine.execStackTripPersisted j s
  | .dutyCyclingStart j => Sys2Proof.Machine.execDutyCyclingStart j s
  | .dutyCyclingStop j => Sys2Proof.Machine.execDutyCyclingStop j s
  | .boostEpoch em => Sys2Proof.Machine.execBoostEpoch em s
  | .energyWindow uj => Sys2Proof.Machine.execEnergyWindow uj s
  | .undervoltWindow cl errs => Sys2Proof.Machine.execUndervoltWindow cl errs s
  | .marginEvent isl core arr addr => Sys2Proof.Machine.execMarginEvent isl core arr addr s
  | .marginStallEnd isl => Sys2Proof.Machine.execMarginStallEnd isl s
  | .undervoltResume cl => Sys2Proof.Machine.execUndervoltResume cl s
  | .bandSwitchOff c b => Sys2Proof.Machine.execBandSwitchOff c b s
  | .bandWake c b => Sys2Proof.Machine.execBandWake c b s
  | .badgerStep j die q => Sys2Proof.Machine.execBadgerStep j die q s
  | .relocationReadStep j die q wl => Sys2Proof.Machine.execRelocationReadStep j die q wl s
  | .relocationProgramStep j die q ok => Sys2Proof.Machine.execRelocationProgramStep j die q ok s
  | .mapSwitch j die q => Sys2Proof.Machine.execMapSwitch j die q s
  | .compaction j die q => Sys2Proof.Machine.execCompaction j die q s
  | .blockErase j die q blk ok => Sys2Proof.Machine.execBlockErase j die q blk ok s
  | .scrubDue ext => Sys2Proof.Machine.execScrubDue ext s
  | .scrubSense j ext => Sys2Proof.Machine.execScrubSense j ext s
  | .holdEnd j => Sys2Proof.Machine.execHoldEnd j s
  | .idleSlotsEnd j die q => Sys2Proof.Machine.execIdleSlotsEnd j die q s
  | .priorityReturnToPrio slot => Sys2Proof.Machine.execPriorityReturnToPrio slot s
  | .schedulerEvaluation => Sys2Proof.Machine.execSchedulerEvaluation s
  | .completionRecordWrite => Sys2Proof.Machine.execCompletionRecordWrite s
  | .resync => Sys2Proof.Machine.execResync s
  | .logread => Sys2Proof.Machine.execLogread s
  | .logclr => Sys2Proof.Machine.execLogclr s
  | .owlread => Sys2Proof.Machine.execOwlread s
  | .wear => Sys2Proof.Machine.execWear s
  | .attest => Sys2Proof.Machine.execAttest s
  | .time => Sys2Proof.Machine.execTime s
  | .extadd => Sys2Proof.Machine.execExtadd s
  | .extdel => Sys2Proof.Machine.execExtdel s
  | .park => Sys2Proof.Machine.execPark s
  | .unpark => Sys2Proof.Machine.execUnpark s
  | .fwupd => Sys2Proof.Machine.execFwupd s
  | .retrain => Sys2Proof.Machine.execRetrain s
  | .moduleReset => Sys2Proof.Machine.execModuleReset s
  | .powerLoss => Sys2Proof.Machine.execPowerLoss s
  | .wearSample => Sys2Proof.Machine.execWearSample s
  | .wearCountSave => Sys2Proof.Machine.execWearCountSave s
  | .computeDieTrip => Sys2Proof.Machine.execComputeDieTrip s
  | .senseAllowanceWindow => Sys2Proof.Machine.execSenseAllowanceWindow s
  | .watchdogExpiry => Sys2Proof.Machine.execWatchdogExpiry s
  | .fallbackEnd => Sys2Proof.Machine.execFallbackEnd s
  | .limiterStep => Sys2Proof.Machine.execLimiterStep s
  | .badgerBudgetWindow => Sys2Proof.Machine.execBadgerBudgetWindow s

end Sys2Proof.Machine
end

