-- ==== Sys2Proof/Machine/Moves.lean ====
section
/-!
DEFINITION. What moves the module (R5 to R11, R31 to R34, R162, R163, R244): the issue of a control core, sensors, the
passing of cycles, and the order in which the device's own steps are tried when no order is given.
-/
namespace Sys2Proof.Machine

/-! ## Issue -/

/-- Whether the control core of core k may issue: the die has power and is not held in reset, the core is not parked and
its clocks run, its active bank holds a work item of a context that may run, and it is not stalled. -/
def canIssue (s : State) (k : Fin 16) : Bool :=
  let b := s.active k
  s.svc.powered && !s.pow.dieHeld && !(s.core k).parked && !clStalled s k && b.slot.isSome && b.itemLive
    && b.stoppedAt.isNone && b.stall.isNone

/-- One instruction of core `s.cur`, which may issue: a fault its vector engine has reported is taken first (R244);
a word that is no instruction raises its fault (R48); an instruction that must wait for outstanding loads stalls
(R163), and one that must wait for posted stores waits (R185); else it has its effect, which of a store may be to be
posted. -/
def issueNext (post : Bool) (s : State) : Out :=
  if s.bk.vec.fault.isSome && s.bk.mode = .user then
    if s.bk.loads.isEmpty then execVectorFaultTaken s.cur s else .next (stallOn s .loads)
  else
    let s := s.fetched
    match fetchAt s s.bk s.bk.pc with
    | .error r => execEncodingNotAnInstruction r s
    | .ok i =>
      if loadHazard i s.bk then .next (stallOn s .loads)
      else if storeWaits i s then .next s
      else match if post then storeParts i s else none with
        | some (t, win, z, v, tagged) => postStore s t win z v tagged
        | none => exec i s

/-- A cycle in which core k issues (R162); a store of it performs at once or is posted. A core that may not issue lets the
cycle pass. -/
def issueOn (k : Fin 16) (post : Bool) (s : State) : Out :=
  let s := { s with cur := k, clk := s.clk + 1 }
  if canIssue s k then issueNext post s else .next s

/-! ## Sensors (R425, R371, R402) -/

/-- A flash die of stack j reads temperature t; the stack's is that of its hottest die. -/
def readDie (s : State) (j : Fin 16) (die : Fin 8) (t : Nat) : State :=
  let w := s.stack j
  let d := w.dieTemp.set die.val t die.isLt
  s.setStack j { w with dieTemp := d, temp := d.toList.foldl Nat.max 0 }

/-- One move of a powered module. -/
def runMove (m : Move) (s : State) : Out :=
  match m with
  | .issue k => issueOn k false s
  | .issuePosting k => issueOn k true s
  | .loadPerforms k n => .next (loadPerforms s k n)
  | .storePerforms k x n => .next (storePerforms s k x n)
  | .supervise k => .next (supervise k s)
  | .idle n => .next { s with clk := s.clk + n }
  | .clTemp c t => .next { s with pow := { s.pow with clTemp := s.pow.clTemp.set c.val t c.isLt } }
  | .uncTemp t => .next { s with pow := { s.pow with uncTemp := t } }
  | .dieTemp j d t => .next (readDie s j d t)
  | .park k => .next (parkCore s k)
  | .expanderPoison pa => .next (if (portOf pa).isSome then s.setPoison pa (some .due) else s)
  | .event i => exec i s

/-- A move without power: only a cold boot does anything (R463, R474). -/
def runUnpowered (m : Move) (s : State) : Out :=
  match m with
  | .event (.coldBoot c f t) => exec (.coldBoot c f t) s
  | _ => .next s

/-! ## The default order

The manual fixes no order among the module's units. `sched` gives any; with none given, the steps that may have
something to do are tried in turn. -/

/-- A step that the default order may try. -/
abbrev Try := State → Out

def pick (c : Bool) (l : List Try) : List Try := if c then l else []

/-- The steps a job of core k may take. -/
def jobTries (k : Fin 16) (j : Job) : List Try :=
  match j.phase with
  | .queued => pick (isCxs j.e.i) [execJobStart k j.seq]
  | .dispatched => [execJobStart k j.seq]
  | .running =>
    [execJobStart k j.seq] ++
    pick (j.eng = .copy) [execCxsPathReserve k j.seq] ++
    pick j.stream.isSome [execStreamSlotFill k j.seq, execPendingRefetch k j.seq, execCoverageQuery k j.seq]
  | .ended => [if j.code = 0 then execJobCompletion k j.seq else execJobFault k j.seq]
  | _ => []

/-- The steps of core k. -/
def coreTries (s : State) (k : Fin 16) : List Try :=
  let b := s.active k
  let mat := b.jobs.any (fun j => j.eng = .matrix && (j.phase = .queued || j.phase = .dispatched))
  pick (canIssue s k) [if b.mode = .user then issueOn k false else fun s => .next (supervise k s)] ++
  pick b.vec.fault.isSome [execVectorFaultTaken k] ++
  pick b.stall.isSome [execInstructionStallEnd k] ++
  pick (!b.loads.isEmpty) [execLoadReturn k] ++
  [false, true].flatMap (fun x => pick (!(s.bankAt k x).posted.isEmpty) [fun s => .next (storePerforms s k x 0)]) ++
  ((List.finRange 16).filter (fun h => (b.handles.get h).pd)).map (fun h => execTranslationWalk k h) ++
  pick (!b.vec.queue.isEmpty) [execVectorEntryStart k] ++
  pick mat [execMatrixEntryStart k] ++
  pick (b.mat.pair != .idle || b.mat.slot.isSome || b.mat.inbox.isSome)
    [execPairHeaderArrival k, execPairMerge k, execPairVerdict k, execPairWindowExpiry k, execPairAbort k] ++
  ([Eng.copy, .kv, .stack, .backfill].filter (fun g => !(queued b g).isEmpty)).map (fun g => execEngineDispatch k g) ++
  allLocs.flatMap (fun loc => ((s.locBank k loc).map (fun b => b.jobs.flatMap (jobTries k))).getD []) ++
  pick (!(s.core k).tracker.isEmpty) [execTrackerEntryFree k] ++
  pick ((s.bankAt k false).slot.isSome || (s.bankAt k true).slot.isSome) [execWorkItemStart k, execPreemption k, execChannelViewRequest k, execChannelStall k]

/-- The steps of the launch in a slot. -/
def slotTries (s : State) (i : Fin 16) : List Try :=
  pick (s.launch i).isSome
    [execLaunchDecision i, execContextResume i, execBarrierRelease i, execTagSweep i, execEnergyHold i,
      execContextEnd i, execPriorityAging i, execPriorityReturnToPrio i, execBackfillAgeLimit i]

/-- The steps of one page a command senses; reads meet no bit error. -/
def planeTries (j : Fin 16) (p : PlaneWork) : List Try :=
  let die : Fin 8 := ⟨p.die % 8, Nat.mod_lt _ (by decide)⟩
  let pl : Fin 128 := ⟨p.plane % 128, Nat.mod_lt _ (by decide)⟩
  let q : Fin 64 := ⟨p.plane / 2 % 64, Nat.mod_lt _ (by decide)⟩
  [execPairArbitration j die q, execSenseComplete j die q, execPageDecode j die pl [], execSoftReread j die pl [],
    execMacPass j die q]

/-- The steps of stack j; erases and programs succeed. -/
def stackTries (s : State) (j : Fin 16) : List Try :=
  let w := s.stack j
  let die (n : Nat) : Fin 8 := ⟨n % 8, Nat.mod_lt _ (by decide)⟩
  let q (n : Nat) : Fin 64 := ⟨n % 64, Nat.mod_lt _ (by decide)⟩
  pick (!w.cmds.isEmpty) [execStackCommandArrival j] ++
  w.cmds.flatMap (fun c =>
    c.planes.flatMap (planeTries j) ++ ((List.range c.desc.ng).map (fun g => execGroupReduction j c.id g)) ++
    [execPageProgram j c.id true true, execStackOutput j c.id]) ++
  w.relocs.flatMap (fun r => [execBadgerStep j (die r.die) (q r.q), execRelocationReadStep j (die r.die) (q r.q) r.wl,
    execRelocationProgramStep j (die r.die) (q r.q) true, execMapSwitch j (die r.die) (q r.q)]) ++
  w.erasing.map (fun p => execBlockErase j (die (p.1 / 64)) (q p.1) ⟨p.2 % 256, Nat.mod_lt _ (by decide)⟩ true) ++
  ((w.map.map (fun m => m.1 / 8192)).eraseDups).map (fun p => execCompaction j (die (p / 64)) (q p)) ++
  w.duty.map (fun d => execIdleSlotsEnd j (die (d.1 / 64)) (q d.1)) ++
  w.extents.map (fun x => execScrubDue x.ext) ++
  (w.scrubQ.take 1 ++ (w.scrub.map (fun x => x.ext)).toList).map (execScrubSense j) ++
  pick w.hold.isSome [execHoldEnd j] ++
  [execStackTrip j, execStackTripClear j, execStackTripPersisted j, execDutyCyclingStart j, execDutyCyclingStop j]

/-- The steps of the backfill engine. -/
def backfillTries (s : State) : List Try :=
  s.bf.recs.flatMap (fun r =>
    (List.finRange 16).map (fun j => execBackfillVectorLoad r.id j) ++
    r.layers.flatMap (fun l => [execBackfillRowForm r.id l.layer, execBackfillSlotWrite r.id l.layer]))

/-- The steps of the power controller, the host link and the service core; energy meters read 0. -/
def unitTries (s : State) : List Try :=
  let cb : List (Fin 4 × Fin 4) := (List.finRange 4).flatMap (fun c => (List.finRange 4).map (fun b => (c, b)))
  [execSchedulerEvaluation, execCompletionRecordWrite, execLimiterStep, execSenseAllowanceWindow, execEnergyWindow [],
    execBoostEpoch 0, execBadgerBudgetWindow, execComputeDieTrip, execWearSample, execWearCountSave] ++
  pick s.host.captured.isSome [execLaunchDecision 0] ++
  s.svc.busy.toList.map serviceStep ++ s.host.cmdPending.toList.map commandStep ++
  ((List.finRange 16).filter (fun k => (s.core k).parked)).map (fun k => execRetentionParkExit k []) ++
  cb.flatMap (fun p => [execBandSwitchOff p.1 p.2, execBandWake p.1 p.2]) ++
  (List.finRange 4).flatMap (fun c => [execUndervoltWindow c 0, execUndervoltResume c]) ++
  ((List.finRange 40).filter (fun i => bit s.pow.stalled i.val)).map (fun i => execMarginStallEnd i)

/-- Two cycles, a tick, pass. -/
def passTick (s : State) : Out := .next { s with clk := s.clk + 2 }

/-- What may happen next, each step once. Nothing of the compute die acts before the device has booted (R463). -/
def pollTries (s : State) : List Try :=
  if !s.svc.booted then [execColdBoot (true, true) (0, 0) 0]
  else
    (List.finRange 16).flatMap (coreTries s) ++ (List.finRange 16).flatMap (slotTries s) ++
    (List.finRange 16).flatMap (stackTries s) ++ backfillTries s ++ unitTries s ++ [passTick]

/-- The step that comes next in the default order. -/
def nextTry (s : State) : Try :=
  let l := pollTries s
  (l[s.turn % l.length]?).getD passTick

/-! ## Placing one instruction -/

/-- A launch that runs on core k alone, with one executable segment: what a submission, its decision and its admission
leave (R130 to R135). -/
def placedLaunch (k : Fin 16) (pc : Nat) : Launch :=
  let h : Header :=
    { entry := pc, segt := 0, widths := [1, 0, 0, 0, 0, 0], nf := 1, places := [0, 0, 0, 0, 0, 0]
      clmask := 1#4 <<< (k.val / 4), cormask := 1#16 <<< k.val, exts := [0, 0, 0, 0, 0, 0], prio := 0, share := 1
      energy := 0, aft0 := 0, aft1 := 0, fmti := 0, arg := 0, frec := 0 }
  { Launch.submitted 1 ⟨0, 0, 0, 0, 0⟩ 0 with
    hdr := h, segs := [⟨pc, 0x10000, 0x10000, true, false, true, 1, false, false, 0⟩], state := .running, started := true }

/-- The address `withFetchWord` uses where nothing can be fetched. -/
def placedPC : Nat := 0x100000000000

/-- Core `s.cur` about to issue: unchanged where it may issue from its program counter; else a work item of a launch
in slot 0 starts in its active bank. -/
def readyCore (s : State) : State :=
  let b := s.bk
  if canIssue s s.cur && b.loads.isEmpty && b.posted.isEmpty && b.vec.fault.isNone && (fetchKey s b b.pc).isSome
      && (fetchKey s b (b.pc + 4)).isSome then s
  else
    let c := s.core s.cur
    let s := { s with
      svc := { s.svc with powered := true }
      pow := { s.pow with dieHeld := false, stalled := 0 } }
    let s := (s.setCore s.cur { c with parked := false, exitAt := none }).setLaunch 0 (some (placedLaunch s.cur placedPC))
    s.setBk { s.bk with
      slot := some 0, itemLive := true, stoppedAt := none, stall := none, mode := .user
      loads := [], posted := [], pc := BitVec.ofNat 64 placedPC, vec := { s.bk.vec with fault := none } }

/-- Eight instruction bytes at the program counter of core `s.cur`, in its fetch buffer too. -/
def placeWords (s : State) (w0 w1 : IWord) : State :=
  let put (s : State) (a : Word) (w : IWord) : State :=
    match fetchKey s s.bk a with
    | some k =>
      let c := s.core s.cur
      let s := { s with mem := memWrite s.mem k (bytesOfWord w) }
      if c.fbuf.contains (k / 32) then s else s.setCore s.cur { c with fbuf := c.fbuf ++ [k / 32] }
    | none => s
  put (put s s.bk.pc w0) (s.bk.pc + 4) w1

end Sys2Proof.Machine
end

