-- ==== Sys2Proof/Machine/Step.lean ====
section
/-!
DEFINITION. The step of the module, and the placing of one instruction where the next step fetches it.
-/
namespace Sys2Proof.Machine

/-- One step: the next move of `sched`; with none given, the next step of the default order. A module without power
that nothing is asked of stops. -/
def step (s : State) : Out :=
  match s.sched with
  | m :: r => if s.svc.powered then runMove m { s with sched := r } else runUnpowered m { s with sched := r }
  | [] => if s.svc.powered then nextTry s { s with turn := s.turn + 1 } else .fault .poweredOff

/-- The instruction of `nbits` bits `w`, the words above `nbits` zero, where core `s.cur` fetches next, and that core
next to issue. -/
def State.withFetchWord (s : State) (nbits w : Nat) : State :=
  let v : BitVec 64 := BitVec.ofNat 64 (w % 2 ^ nbits)
  { placeWords (readyCore s) (bits v 0 32) (bits v 32 32) with sched := [.issue s.cur] }

end Sys2Proof.Machine
end

