-- ==== Sys2Proof/Safety.lean ====
section
/-!
DEFINITION. The terms in which statements about the machine are made: when an instruction completes, what a state
keeps of another, and what counts as a sound state.
-/
namespace Sys2Proof.Machine

/-! ## Completion and frames -/

/-- The instruction answers a next state, and that state has P. -/
def Completes (i : Instr) (s : State) (P : State → Prop) : Prop := ∃ t, exec i s = .next t ∧ P t

/-- Every byte of memory reads as before. -/
def SameBytes (s t : State) : Prop := ∀ a, t.byteAt a = s.byteAt a

/-- Every byte of memory outside [k, k + n) reads as before. -/
def SameBytesBut (k n : Nat) (s t : State) : Prop := ∀ a, a < k ∨ k + n ≤ a → t.byteAt a = s.byteAt a

/-- Of the whole module, only the active bank of the core that issued changes. -/
def OnlyBank (s t : State) : Prop := t = s.setBk t.bk ∧ SameBytes s t

/-- Of a bank, only the scalar registers, the PC, REPC and the loop state that an end test moves (R160, R171) change. -/
def OnlyRegs (b c : Bank) : Prop :=
  c = { b with x := c.x, pc := c.pc, repc := c.repc, loops := c.loops, rrb := c.rrb, sp := c.sp }

/-- The scalar registers are as before but rd, which reads as v; s0 reads as zero and keeps no write (R159). -/
def Puts (b c : Bank) (rd : Reg) (v : Word) : Prop :=
  ∀ r, getReg c r = if r = rd ∧ rd ≠ 0#6 then v else getReg b r

/-- Every scalar register reads as before. -/
def SameRegs (b c : Bank) : Prop := ∀ r, getReg c r = getReg b r

/-- An instruction of the control core that writes v to rd and, beside the PC and the loop state, nothing else. -/
def WritesReg (i : Instr) (s : State) (rd : Reg) (v : Word) : Prop :=
  Completes i s (fun t => OnlyBank s t ∧ OnlyRegs s.bk t.bk ∧ Puts s.bk t.bk rd v)

/-- The core has taken a fault (R151, R161): supervisor mode at its entry point, FLTC, FLTA and FLTI as given, every
scalar register and byte of memory as before, and in the bank nothing else but PEND and the stall. -/
def TakesFault (s t : State) (code : FaultCode) (flta : Word) (src : BitVec 3) : Prop :=
  OnlyBank s t ∧
  t.bk = { s.bk with mode := .supervisor, pc := Config.supervisorEntry, flti := s.bk.pc, flta := flta,
                     fltc := t.bk.fltc, pend := t.bk.pend, stall := t.bk.stall } ∧
  bits t.bk.fltc 0 8 = code.byte ∧ bits t.bk.fltc 8 3 = src

/-! ## Memory -/

/-- No error is being injected or stands in what the last reads returned (R475), both memory ports work (R460), and every core's slice answers: none is parked
(R445), no cluster's clocks stand still (R440). -/
def State.Quiet (s : State) : Prop :=
  (∀ i, bit (s.svc.inj.get i).dw0 12 = false) ∧ s.flips = [] ∧ s.host.portFailed = 0 ∧ ∀ k, shutCore s k = false

/-- Of the whole module, only the active bank of the core that issued, memory with its poison, and race-detection tags
change. -/
def StoreFrame (s t : State) : Prop := t = { s.setBk t.bk with mem := t.mem, poison := t.poison, tags := t.tags }

/-- An access of z bytes by the core passes the footprint check (R121), and at its home the tag check (R124), as a read
or a write. -/
def AccessPasses (s : State) (t : Target) (z : Nat) (w : Bool) : Prop :=
  mmxClash s.bk t.va z w = false ∧ (s.checkTag t (s.phaseOf s.bk) s.cur w).isSome = true

/-- The value a load of z bytes gives: little-endian, sign- or zero-extended (R108, R183). -/
def loadValue (s : State) (t : Target) (z : Nat) (signed : Bool) : Word :=
  let v : BitVec (8 * z) := BitVec.ofNat (8 * z) (s.natAt t.key z)
  if signed then v.signExtend 64 else v.setWidth 64

/-- The access lies in a segment that is not paged, so that no page-table entry changes with it. -/
def Unpaged (s : State) (va : Nat) : Prop := ∀ g, findSeg (s.segsOf s.bk) va = some g → g.2.pg = false

/-! ## Control flow -/

/-- What a branch that is taken leaves: the PC at the target, and nothing else changed: no loop state, no register. -/
def JumpsTo (i : Instr) (s : State) (target : Word) : Prop :=
  Completes i s (fun t => OnlyBank s t ∧ t.bk = { s.bk with pc := target })

/-- What a branch that is not taken leaves: control falls through to the next word. -/
def FallsOn (i : Instr) (s : State) : Prop :=
  Completes i s (fun t => OnlyBank s t ∧ t.bk = retireBank s.bk 1)

/-- A user-mode bank one of whose levels alone ends at an address. -/
def EndsAlone (b : Bank) (l : Fin 4) (next : Word) : Prop :=
  b.mode = .user ∧ (getLoop b l).act = true ∧ (getLoop b l).stop = lo56 next ∧
  ∀ m, m ≠ l → (getLoop b m).act = true → (getLoop b m).stop ≠ lo56 next

/-! ## Configuration -/

/-- The writable configuration items (R39). -/
def writableItems : List Nat :=
  [0x000, 0x100, 0x101, 0x102, 0x103, 0x104, 0x640, 0x641] ++ (List.range 64).map (fun i => 0x600 + i)

/-! ## Engine instructions (R8 to R17) -/

/-- R14, R48, R49, R58: the enqueue of an engine instruction goes ahead: no active level ends inside it, a privileged one
is in supervisor mode, its engine's queue has room, and so has the footprint table. -/
def JobReady (s : State) (eng : Eng) (priv : Bool) : Prop :=
  loopSpan s.bk = false ∧ (priv = true → s.bk.mode = .supervisor) ∧ (queued s.bk eng).length < queueSize eng ∧
  tableUse (s.core s.cur) < 48

/-- R199: the channels an instruction names are set. -/
def ChannelsSet (b : Bank) (i : Instr) : Prop :=
  (∀ c, chanAOf i = some c → (b.chans.get c).set = true) ∧ (∀ c, chanBOf i = some c → (b.chans.get c).set = true)

/-- The same for a vector instruction, whose queue holds 32 entries (R8). -/
def VectorReady (s : State) (i : Instr) : Prop :=
  loopSpan s.bk = false ∧ s.bk.vec.queue.length < 32 ∧ ChannelsSet s.bk i

/-- Of a bank, only what an enqueue may write changes: registers, jobs, the PC, REPC and loop state, and matrix state. -/
def BankOfJob (b c : Bank) : Prop :=
  c = { b with x := c.x, jobs := c.jobs, pc := c.pc, repc := c.repc, loops := c.loops, rrb := c.rrb, sp := c.sp,
               mat := c.mat }

/-- R13 to R16: SEQ counts up; the job is the youngest of its context, waits, has its entry in the footprint table with the
regions given and edges to the earlier jobs they clash with, and a token that is not final. No byte of memory changes, and
the PC passes both words. -/
def JobJoins (i : Instr) (s t : State) (eng : Eng) (dst : Reg) (reads writes : List Region) : Prop :=
  let seq := (s.core s.cur).seq + 1
  (t.core s.cur).seq = seq ∧ t.bk.pc = (retireBank s.bk 2).pc ∧ SameBytes s t ∧ BankOfJob s.bk t.bk ∧
  (eng ≠ .matrix → t.bk.mat = s.bk.mat) ∧
  ∃ j, t.bk.jobs = makeRoom s.bk.jobs ++ [j] ∧ j.seq = seq ∧ j.eng = eng ∧ j.e.i = i ∧ j.dst = dst ∧ j.phase = .queued ∧
    j.inTable = true ∧ j.token = seq.setWidth 64 ∧ j.reads = reads ∧ j.writes = writes ∧
    j.edges = edgesOf s.bk reads writes

/-- The instruction enqueues a job and writes its token, DONE = 0, to its destination register (R13, R16). -/
def EnqueuesJob (i : Instr) (s : State) (eng : Eng) (dst : Reg) (reads writes : List Region) : Prop :=
  Completes i s (fun t => JobJoins i s t eng dst reads writes ∧
    Puts s.bk t.bk dst (((s.core s.cur).seq + 1).setWidth 64))

/-- R8, R13, R214: the instruction joins the vector queue with what it captures; of the rest only the PC and the loop
state change, and the PC passes both words. -/
def EnqueuesVector (i : Instr) (h : Head) (s : State) (P : Entry → Prop) : Prop :=
  Completes i s (fun t => OnlyBank s t ∧ t.bk.pc = (retireBank s.bk 2).pc ∧
    ∃ e, t.bk = { s.bk with vec := { s.bk.vec with queue := s.bk.vec.queue ++ [e] }, pc := t.bk.pc, repc := t.bk.repc,
                            loops := t.bk.loops, rrb := t.bk.rrb, sp := t.bk.sp } ∧
      e.i = i ∧ e.iaddr = s.bk.pc ∧ e.wid = s.bk.wid ∧ e.shp = s.bk.shp ∧ e.kp = vctlKP s.bk.vec.vctl ∧
      e.tag = tagFor s.bk h ∧ P e)

/-- The operands a vector instruction of layout A captures: rotated register numbers and scalars (R177, R214). -/
def CapturesA (b : Bank) (h : Head) (f : LayA) (e : Entry) : Prop :=
  e.vd = rotReg b h.dst ∧ e.va = rotReg b f.a ∧ e.vb = rotReg b f.b ∧ e.vc = rotReg b f.c ∧ e.xa = getReg b f.a ∧
  e.xb = getReg b f.b ∧ e.xc = getReg b f.c

/-- The same for layout B. -/
def CapturesB (b : Bank) (h : Head) (f : LayB) (e : Entry) : Prop :=
  e.vd = rotReg b h.dst ∧ e.va = rotReg b f.a ∧ e.vb = rotReg b f.b ∧ e.xa = getReg b f.a ∧ e.xb = getReg b f.b

/-- An engine instruction whose stage predicate is 0: it retires with no effect (R178). -/
def RetiresTwo (i : Instr) (s : State) : Prop :=
  Completes i s (fun t => OnlyBank s t ∧ t.bk = retireBank s.bk 2)

/-- R277, R344: n bytes at an on-chip address lie in one tier-0 segment with the rights. -/
def InTier0 (s : State) (a : Word) (n : Nat) (r w : Bool) : Prop :=
  ∃ g, findSeg (s.segsOf s.bk) a.toNat = some g ∧ g.2.tier = 0 ∧ a.toNat + n ≤ g.2.vbase + g.2.len ∧
    (r = true → g.2.r = true) ∧ (w = true → g.2.w = true)

/-- R277: a KV descriptor's address: 64-byte aligned, in a segment of tier 0 or 1 with both rights. -/
def KvDescriptor (s : State) (a : Word) : Prop :=
  a.toNat % 64 = 0 ∧ ∃ g, findSeg (s.segsOf s.bk) a.toNat = some g ∧ g.2.tier ≤ 1 ∧ g.2.r = true ∧ g.2.w = true ∧
    a.toNat + 64 ≤ g.2.vbase + g.2.len

/-- A job of core k, by SEQ, whose accesses are over and whose outcome is P; its final token is still to be written. -/
def JobEnds (t : State) (k : Fin 16) (loc : Loc) (seq : BitVec 16) (P : Job → Prop) : Prop :=
  ∃ d, t.findJob k seq = some (loc, d) ∧ d.phase = .ended ∧ P d

/-- The job of core k with SEQ, if it is not over, is of a context that holds a bank: what changes in it changes no save
area (R157). -/
def Resident (s : State) (k : Fin 16) (seq : BitVec 16) : Prop :=
  ∀ loc j, s.findJob k seq = some (loc, j) → ∃ x, loc = .bank x

/-- The same for the job a weight-stack command belongs to, if one does. -/
def OwnerResident (s : State) (c : StackCmd) : Prop := ∀ k x seq, c.owner = .job k x seq → Resident s k seq

/-! ## The vector engine (R212 to R223) -/

/-- R221, R243, R244: the vector engine of core k may run its head entry e now: the context runs, no fault of the
engine is held or being dealt with, no error is injected, and e neither names a channel nor reads a poisoned register. -/
def VectorRuns (s : State) (k : Fin 16) (e : Entry) (rest : List Entry) : Prop :=
  s.Quiet ∧ vecMayStart (s.active k) = true ∧ clStalled s k = false ∧ (s.active k).vec.queue = e :: rest ∧
  chanAOf e.i = none ∧ chanBOf e.i = none ∧ ∀ r ∈ vregsRead e, amapGet (s.active k).vec.vmark r = none

/-- The head entry has left the queue with its result in its destination register; beside the poison of that register
and the sticky flags the bank is as before, and so is every byte of memory. -/
def VectorWrites (s : State) (k : Fin 16) (e : Entry) (rest : List Entry) (P : Img → Prop) : Prop :=
  Completes (.vectorEntryStart k) s (fun t =>
    let v := (s.active k).vec
    SameBytes s t ∧ P (getVReg (t.active k) e.vd) ∧
    t.active k = { s.active k with vec := { v with
      queue := rest, v := v.v.set (e.vd % 64) (getVReg (t.active k) e.vd) (Nat.mod_lt _ (by decide))
      vctl := (t.active k).vec.vctl, vmark := (t.active k).vec.vmark } })

/-- R215, R219: in the shape, active elements hold f and inactive ones are kept, or zero with `z`; outside it the
register is kept. -/
def Elementwise (shp : Word) (w : Nat) (me mz : Bool) (m : MaskReg) (d d' : Img) (f : Nat → Nat → Nat) : Prop :=
  ∀ i j, i < 16 → w * j < 2048 → elt d' w i j =
    if i < shpRows shp ∧ j < eCount shp w then
      (if isActive me m w i j then f i j else if mz then 0 else elt d w i j)
    else elt d w i j

/-- A pattern of width w read as a signed number, and the pattern of an exact result. -/
def signedOf (w a : Nat) : Int := (BitVec.ofNat w a).toInt
def patternOf (w : Nat) (x : Int) : Nat := (x % (2 ^ w : Nat)).toNat

/-- Saturation to the signed or the unsigned range of width w (R223). -/
def clampSigned (w : Nat) (x : Int) : Int := max (-(2 ^ (w - 1) : Nat)) (min ((2 ^ (w - 1) : Nat) - 1) x)
def clampUnsigned (w : Nat) (x : Int) : Int := max 0 (min ((2 ^ w : Nat) - 1) x)

/-! ## The service mailbox (R469) -/

/-- R469: the service mailbox holds the command `opc`: the device has power and has booted, not into recovery, and the
host has written the command. -/
def ServiceUp (s : State) (opc : Nat) : Prop :=
  s.svc.powered = true ∧ s.svc.booted = true ∧ s.svc.recovery = false ∧ s.svc.busy = some opc

/-- R469: a command has been done: SVCST is no longer busy, counts the bytes that stand in the buffer and keeps LOST; what
the command does not name is as before. -/
def ServiceDone (s t : State) (bs : List Byte) : Prop :=
  SameBytes s t ∧ t.svc.busy = none ∧ t.svc.st.toNat = (if s.svc.st.getLsbD 63 then 2 ^ 63 else 0) + bs.length * 2 ^ 16 ∧
  memReadN t.host.hostMem s.svc.buf.toNat bs.length = bs

/-- R469: a command has been refused, with its reason; beside SVCST nothing changes. -/
def Refuses (i : Instr) (s : State) (reason : Nat) : Prop :=
  exec i s = .next { s with svc := { s.svc with
    busy := none, st := (s.svc.st &&& 0x8000000000000000#64) ||| BitVec.ofNat 64 (2 + reason * 256) } }

/-! ## Sound states -/

/-- Both byte memories have their canonical form: the module's and the host's. -/
def State.Sound (s : State) : Prop := Memory.wf s.mem = true ∧ Memory.wf s.host.hostMem = true

end Sys2Proof.Machine
end

