-- ==== Sys2Proof/Certificates/Slice0/Obligations.lean ====
section
/-!
DEFINITION. What is claimed of the model, for the provers. Each statement cites the rules of spec/ that it states.
Statements about an instruction's completion conclude that `exec` answers a next state and say what that state holds.
-/
open Sys2Proof Sys2Proof.Machine

/-! ## Integer arithmetic (R159, R164 to R167, R36) -/

/-- R164: each three-register operation of the control core completes in every state, with its value modulo 2^64 in sD;
s0 keeps no write; no other register, no byte of memory and nothing else of the module but the PC and the loop state
changes. -/
def Claims.IntegerResults : Prop :=
  ∀ (s : State) (rd ra rb : Reg),
    let a := getReg s.bk ra
    let b := getReg s.bk rb
    WritesReg (.add rd ra rb) s rd (BitVec.ofNat 64 (a.toNat + b.toNat)) ∧
    WritesReg (.sub rd ra rb) s rd (BitVec.ofInt 64 (a.toInt - b.toInt)) ∧
    WritesReg (.mul rd ra rb) s rd (BitVec.ofNat 64 (a.toNat * b.toNat)) ∧
    WritesReg (.mulh rd ra rb) s rd (BitVec.ofInt 64 (a.toInt * b.toInt / 2 ^ 64)) ∧
    WritesReg (.mulhu rd ra rb) s rd (BitVec.ofNat 64 (a.toNat * b.toNat / 2 ^ 64)) ∧
    WritesReg (.and rd ra rb) s rd (a &&& b) ∧
    WritesReg (.or rd ra rb) s rd (a ||| b) ∧
    WritesReg (.xor rd ra rb) s rd (a ^^^ b) ∧
    WritesReg (.andn rd ra rb) s rd (a &&& ~~~b) ∧
    WritesReg (.shl rd ra rb) s rd (BitVec.ofNat 64 (a.toNat * 2 ^ (b.toNat % 64))) ∧
    WritesReg (.shr rd ra rb) s rd (BitVec.ofNat 64 (a.toNat / 2 ^ (b.toNat % 64))) ∧
    WritesReg (.sar rd ra rb) s rd (BitVec.ofInt 64 (a.toInt / 2 ^ (b.toNat % 64))) ∧
    WritesReg (.min rd ra rb) s rd (if a.toInt ≤ b.toInt then a else b) ∧
    WritesReg (.max rd ra rb) s rd (if a.toInt ≤ b.toInt then b else a) ∧
    WritesReg (.minu rd ra rb) s rd (if a.toNat ≤ b.toNat then a else b) ∧
    WritesReg (.maxu rd ra rb) s rd (if a.toNat ≤ b.toNat then b else a) ∧
    WritesReg (.slt rd ra rb) s rd (if a.toInt < b.toInt then 1 else 0) ∧
    WritesReg (.sltu rd ra rb) s rd (if a.toNat < b.toNat then 1 else 0)

/-- R164: `clz`, `ctz` and `popc` complete in every state. The count of leading zeros is the n for which the value lies
in [2^(63−n), 2^(64−n)), that of trailing zeros the place of the lowest one bit, and both are 64 for zero. -/
def Claims.BitCounts : Prop :=
  ∀ (s : State) (rd ra : Reg),
    let a := getReg s.bk ra
    (∃ n, WritesReg (.clz rd ra) s rd (BitVec.ofNat 64 n) ∧ n ≤ 64 ∧ (n = 64 ↔ a = 0) ∧
      (a ≠ 0 → 2 ^ (63 - n) ≤ a.toNat ∧ a.toNat < 2 ^ (64 - n))) ∧
    (∃ n, WritesReg (.ctz rd ra) s rd (BitVec.ofNat 64 n) ∧ n ≤ 64 ∧ (n = 64 ↔ a = 0) ∧
      (a ≠ 0 → a.getLsbD n = true) ∧ ∀ i, i < n → a.getLsbD i = false) ∧
    WritesReg (.popc rd ra) s rd (BitVec.ofNat 64 ((List.range 64).countP (fun i => a.getLsbD i)))

/-- R165: division truncates toward zero and a remainder follows the sign of the dividend; a division by zero gives all
ones and the dividend, and −2^63 by −1 gives −2^63 and 0. Each completes in every state. -/
def Claims.DivisionResults : Prop :=
  ∀ (s : State) (rd ra rb : Reg),
    let a := getReg s.bk ra
    let b := getReg s.bk rb
    let overflow := a = 0x8000000000000000#64 ∧ b = 0xFFFFFFFFFFFFFFFF#64
    (b ≠ 0 → ¬overflow →
      WritesReg (.div rd ra rb) s rd (BitVec.ofInt 64 (a.toInt.tdiv b.toInt)) ∧
      WritesReg (.rem rd ra rb) s rd (BitVec.ofInt 64 (a.toInt.tmod b.toInt))) ∧
    (b ≠ 0 →
      WritesReg (.divu rd ra rb) s rd (BitVec.ofNat 64 (a.toNat / b.toNat)) ∧
      WritesReg (.remu rd ra rb) s rd (BitVec.ofNat 64 (a.toNat % b.toNat))) ∧
    (b = 0 →
      WritesReg (.div rd ra rb) s rd 0xFFFFFFFFFFFFFFFF#64 ∧ WritesReg (.divu rd ra rb) s rd 0xFFFFFFFFFFFFFFFF#64 ∧
      WritesReg (.rem rd ra rb) s rd a ∧ WritesReg (.remu rd ra rb) s rd a) ∧
    (overflow →
      WritesReg (.div rd ra rb) s rd 0x8000000000000000#64 ∧ WritesReg (.rem rd ra rb) s rd 0)

/-- R36, R166: the immediate forms complete in every state: `addi`, `andi`, `ori`, `xori` and `slti` (signed) on the
sign-extended imm13, the shifts by n, and `lui` with the sign-extended imm19 times 2^13. -/
def Claims.ImmediateResults : Prop :=
  ∀ (s : State) (rd ra : Reg) (imm : BitVec 13) (n : BitVec 6) (u : BitVec 19),
    let a := getReg s.bk ra
    let i : Word := BitVec.ofInt 64 imm.toInt
    WritesReg (.addi rd ra imm) s rd (BitVec.ofInt 64 (a.toInt + imm.toInt)) ∧
    WritesReg (.andi rd ra imm) s rd (a &&& i) ∧
    WritesReg (.ori rd ra imm) s rd (a ||| i) ∧
    WritesReg (.xori rd ra imm) s rd (a ^^^ i) ∧
    WritesReg (.slti rd ra imm) s rd (if a.toInt < imm.toInt then 1 else 0) ∧
    WritesReg (.shli rd ra n) s rd (BitVec.ofNat 64 (a.toNat * 2 ^ n.toNat)) ∧
    WritesReg (.shri rd ra n) s rd (BitVec.ofNat 64 (a.toNat / 2 ^ n.toNat)) ∧
    WritesReg (.sari rd ra n) s rd (BitVec.ofInt 64 (a.toInt / 2 ^ n.toNat)) ∧
    WritesReg (.lui rd u) s rd (BitVec.ofInt 64 (u.toInt * 2 ^ 13))

/-- R167: `imad`, `sel`, `bfx`, `bfi` and `lea` complete in every state, with the values R167 gives; a `bfx` or `bfi`
whose field does not lie inside the word is ILL: its encoding is no instruction. -/
def Claims.ThreeOperandResults : Prop :=
  ∀ (s : State) (rd ra rb rc : Reg) (pos lm : BitVec 6) (sh : BitVec 3),
    let a := getReg s.bk ra
    let b := getReg s.bk rb
    let len := lm.toNat + 1
    WritesReg (.imad rd ra rb rc) s rd (BitVec.ofNat 64 (a.toNat * b.toNat + (getReg s.bk rc).toNat)) ∧
    WritesReg (.sel rd ra rb rc) s rd (if getReg s.bk rc = 0 then b else a) ∧
    WritesReg (.lea rd ra rb sh) s rd (BitVec.ofNat 64 (a.toNat + b.toNat * 2 ^ sh.toNat)) ∧
    (pos.toNat + len ≤ 64 →
      (∃ v : Word, WritesReg (.bfx rd ra pos lm) s rd v ∧
        ∀ i, v.getLsbD i = (decide (i < len) && a.getLsbD (pos.toNat + i))) ∧
      (∃ v : Word, WritesReg (.bfi rd ra pos lm) s rd v ∧
        ∀ i, i < 64 → v.getLsbD i =
          if pos.toNat ≤ i ∧ i < pos.toNat + len then a.getLsbD (i - pos.toNat) else (getReg s.bk rd).getLsbD i)) ∧
    (64 < pos.toNat + len → ∀ w1, decode (word0 (.bfx rd ra pos lm)) w1 = .error (.ill 0) ∧
      decode (word0 (.bfi rd ra pos lm)) w1 = .error (.ill 0))

/-! ## Control flow (R34, R168 to R176) -/

/-- R168, R169: outside a repeat, a conditional branch whose comparison holds sets the PC to its own address plus
4 × off13, and otherwise goes on to the next word; `jmp` goes to its address plus 4 × off25; `jal` also sets s1 to its
address + 4; `jr` sets the PC to sA when that is word aligned and below 2^56. -/
def Claims.Branches : Prop :=
  ∀ (s : State) (ra rb : Reg) (o : BitVec 13) (j : BitVec 25),
    (s.bk.mode = .supervisor ∨ s.bk.repc = 0) →
    let a := getReg s.bk ra
    let b := getReg s.bk rb
    let target := s.bk.pc + BitVec.ofInt 64 (4 * o.toInt)
    let far := s.bk.pc + BitVec.ofInt 64 (4 * j.toInt)
    (if a = b then JumpsTo (.beq ra rb o) s target ∧ FallsOn (.bne ra rb o) s
     else FallsOn (.beq ra rb o) s ∧ JumpsTo (.bne ra rb o) s target) ∧
    (if a.toInt < b.toInt then JumpsTo (.blt ra rb o) s target ∧ FallsOn (.bge ra rb o) s
     else FallsOn (.blt ra rb o) s ∧ JumpsTo (.bge ra rb o) s target) ∧
    (if a.toNat < b.toNat then JumpsTo (.bltu ra rb o) s target ∧ FallsOn (.bgeu ra rb o) s
     else FallsOn (.bltu ra rb o) s ∧ JumpsTo (.bgeu ra rb o) s target) ∧
    JumpsTo (.jmp j) s far ∧
    Completes (.jal j) s (fun t => OnlyBank s t ∧ t.bk.pc = far ∧ Puts s.bk t.bk 1#6 (s.bk.pc + 4) ∧
      t.bk = { s.bk with pc := t.bk.pc, x := t.bk.x }) ∧
    (a.toNat % 4 = 0 → a.toNat < 2 ^ 56 → JumpsTo (.jr ra) s a)

/-- R34, R169: in user mode, outside a repeat and with no load outstanding, a `jr` to a target that is not word aligned
raises ALIGN, and one to a target with bits above 56 raises SEGV, both with FLTA := sA and FLTI at the `jr`. The FLTA of the
ALIGN (log entry 39) and ALIGN before SEGV (log entry 78) are the model's. -/
def Claims.JumpFaults : Prop :=
  ∀ (s : State) (ra : Reg), s.bk.mode = .user → s.bk.repc = 0 → s.bk.loads = [] →
    let a := getReg s.bk ra
    (a.toNat % 4 ≠ 0 → Completes (.jr ra) s (fun t => TakesFault s t .align a 0)) ∧
    (a.toNat % 4 = 0 → 2 ^ 56 ≤ a.toNat → Completes (.jr ra) s (fun t => TakesFault s t .segv a 0))

/-- R170, R176: outside a repeat, a loop instruction with a count of 0 only sets the PC to END; with another count it
starts its level (ACT, PIPE, UT, NT, LC, IDX, START, END) and control falls through to the body; `spset` sets SPM and
SP. -/
def Claims.LoopStarts : Prop :=
  ∀ (s : State) (lvl : BitVec 2) (p : Bool) (ra : Reg) (len : BitVec 16) (cnt : BitVec 12) (l10 : BitVec 10)
    (imm : BitVec 8),
    (s.bk.mode = .supervisor ∨ s.bk.repc = 0) → s.bk.pc.toNat + 2 ^ 19 < 2 ^ 56 →
    let start := s.bk.pc + 4
    let starts (i : Instr) (n : Word) (len : Nat) : Prop :=
      let stop := start + BitVec.ofNat 64 (4 * len)
      (n = 0 → JumpsTo i s stop) ∧
      (n ≠ 0 → Completes i s (fun t => OnlyBank s t ∧
        t.bk = fallThrough { s.bk with loops := s.bk.loops.set lvl.toNat ⟨true, p, false, false, n, 0, start, stop⟩ lvl.isLt }
          start))
    starts (.loop lvl p ra len) (getReg s.bk ra) len.toNat ∧
    starts (.loopi lvl p cnt l10) (cnt.setWidth 64) l10.toNat ∧
    Completes (.spset imm) s (fun t => OnlyBank s t ∧
      t.bk = retireBank { s.bk with spm := imm, sp := imm &&& 1 } 1)

/-- R171: control that falls through past the last word of the body of level L runs the end test: LC falls by one unless
it is 0, IDX rises by one, a pipelined level turns RRB back by one modulo ROTN and shifts SP; the level goes back to
START while LC or, for a pipelined level, SP is not 0, and else becomes inactive and control goes on. -/
def Claims.LoopEndTest : Prop :=
  ∀ (b : Bank) (l : Fin 4) (next : Word), EndsAlone b l next →
    let v := getLoop b l
    let c := fallThrough b next
    let w := getLoop c l
    let lc : Nat := v.lc.toNat - 1
    let sp : BitVec 8 := if v.pipe then ((b.sp <<< 1) ||| (if 0 < lc then 1 else 0)) &&& b.spm else b.sp
    w.lc.toNat = lc ∧ w.idx = v.idx + 1 ∧ c.sp = sp ∧
    (v.pipe = true → b.rotn.toNat ≠ 0 → c.rrb.toNat = (b.rrb.toNat + b.rotn.toNat - 1) % b.rotn.toNat) ∧
    (v.pipe = false ∨ b.rotn = 0 → c.rrb = b.rrb) ∧
    (if 0 < lc ∨ (v.pipe = true ∧ sp ≠ 0) then w.act = true ∧ c.pc = v.start else w.act = false ∧ c.pc = next) ∧
    (∀ m, m ≠ l → getLoop c m = getLoop b m) ∧
    c.x = b.x ∧ c.mode = b.mode ∧ c.repc = b.repc

/-- R161, R171: in supervisor mode no end test applies; where no active level ends, control goes on to the next word;
and REPC falls by one as a repetition retires, the PC staying until the last (R174). -/
def Claims.Retirement : Prop :=
  ∀ (b : Bank) (words : Nat),
    let next := b.pc + BitVec.ofNat 64 (4 * words)
    (b.mode = .supervisor → retireBank b words = { b with pc := next }) ∧
    (b.mode = .user → b.repc = 0 → (∀ l, (getLoop b l).act = true → (getLoop b l).stop ≠ lo56 next) →
      retireBank b words = { b with pc := next }) ∧
    (b.mode = .user → 1 < b.repc.toNat → retireBank b words = { b with repc := b.repc - 1 }) ∧
    (b.mode = .user → b.repc = 1 → retireBank b words = fallThrough { b with repc := 0 } next)

/-- R174: outside a repeat, `rep` with a count other than 0 sets REPC and goes on to the next instruction; with a count
of 0, where that instruction is a legal one the mode may run, it is skipped; one of two words with a loop end between them
raises ILL instead (R58). -/
def Claims.Repeat : Prop :=
  ∀ (s : State) (ra : Reg) (cnt : BitVec 12), (s.bk.mode = .supervisor ∨ s.bk.repc = 0) →
    let reps (i : Instr) (n : Word) : Prop :=
      (n ≠ 0 → Completes i s (fun t => OnlyBank s t ∧ t.bk = { retireBank s.bk 1 with repc := n })) ∧
      (n = 0 → ∀ j, fetchAt (retire s 1) (retireBank s.bk 1) (retireBank s.bk 1).pc = .ok j →
        (needsSupervisor j = true → s.bk.mode = .supervisor) →
        (wordsOf j = 2 → loopSpan (retireBank s.bk 1) = false) →
        Completes i s (fun t => OnlyBank s t ∧
          t.bk = fallThrough (retireBank s.bk 1) ((retireBank s.bk 1).pc + BitVec.ofNat 64 (4 * wordsOf j)))) ∧
      (n = 0 → s.bk.mode = .user → s.bk.loads = [] →
        ∀ j, fetchAt (retire s 1) (retireBank s.bk 1) (retireBank s.bk 1).pc = .ok j → wordsOf j = 2 →
        loopSpan (retireBank s.bk 1) = true → Completes i s (fun t => TakesFault (retire s 1) t .ill 0 0))
    reps (.rep ra) (getReg s.bk ra) ∧ reps (.repImmediate cnt) (cnt.setWidth 64)

/-! ## Memory access of the control core (R103, R104, R163, R183 to R190) -/

/-- R104: an on-chip access of z bytes is let through exactly when it lies inside a tier-0 segment with the needed right
and is a multiple of z; outside, SEGV, and inside but misaligned, ALIGN, both with the address in FLTA. R104 names neither that FLTA nor the order of
the two: they are the model's (log entry 39). -/
def Claims.OnChipAddressCheck : Prop :=
  ∀ (s : State) (b : Bank) (a : Word) (z : Nat) (r w : Bool),
    let inside := ∃ i g, findSeg (s.segsOf b) a.toNat = some (i, g) ∧ g.tier = 0 ∧ a.toNat + z ≤ g.vbase + g.len ∧
      (r = true → g.r = true) ∧ (w = true → g.w = true)
    (inside → a.toNat % z = 0 → onChipTarget s b a z r w = .ok ⟨0x1000000000000 + a.toNat, a.toNat, true⟩) ∧
    (inside → a.toNat % z ≠ 0 → onChipTarget s b a z r w = .error (.flt ⟨.align, a, 0, 0⟩)) ∧
    (¬inside → onChipTarget s b a z r w = .error (.flt ⟨.segv, a, 0, 0⟩))

/-- R103: through a handle with V = 0 an access raises HIV; outside its window or without its right, SEGV with FLTA the
address; misaligned, ALIGN; it waits while PD = 1 and the walk has not found the page missing; on a page found missing
it raises XF; otherwise, outside a paged segment, it goes to the address the window translates to. The FLTA of the ALIGN is the model's
(log entry 39). -/
def Claims.HandleAddressCheck : Prop :=
  ∀ (s : State) (b : Bank) (hr : Reg) (off : Int) (z : Nat) (r w : Bool),
    let h := getHandle b hr
    let a : Int := (h.va.toNat : Int) + off
    let window := (h.lo : Int) ≤ a ∧ a + z ≤ (h.hi : Int) ∧ (r = true → h.r = true) ∧ (w = true → h.w = true)
    let res := handleTarget s b hr off z r w
    let faults (c : FaultCode) (flta : Word) : Prop := res = .error (.flt ⟨c, flta, 0, 0⟩)
    (h.v = false → faults .hiv 0) ∧
    (h.v = true → ¬window → faults .segv (BitVec.ofInt 64 a)) ∧
    (h.v = true → window → a % (z : Int) ≠ 0 → faults .align (BitVec.ofInt 64 a)) ∧
    (h.v = true → window → a % (z : Int) = 0 →
      (h.pd = true → h.missing = false → ∃ n, res = .error (.wait (.handle n))) ∧
      (h.missing = true → faults .xf (BitVec.ofInt 64 a)) ∧
      (h.pd = false → h.missing = false → ((s.segsOf b)[h.seg]?.all (fun g => !g.pg)) = true →
        res = .ok ⟨h.phys + (a.toNat - h.lo), a.toNat, h.ck⟩))

/-- R162, R163, R183, R184: a load that has passed its address and footprint checks completes. From the core's own slice,
where its home's tag check passes and the data is not poisoned, it writes the value at once; any other becomes
outstanding and no register changes yet (which loads answer at once is the model's, log entries 37 and 38). Memory keeps
every byte. -/
def Claims.LoadsComplete : Prop :=
  ∀ (s : State) (rd base : Reg) (size : BitVec 2) (off : BitVec 11) (t : Target), s.Quiet →
    let z := 2 ^ size.toNat
    let loads (i : Instr) (target : Except Stop Target) (signed : Bool) : Prop :=
      target = .ok t →
      (ownSlice s.cur t = true → AccessPasses s t z false → s.poisonIn t.key z = none →
        Completes i s (fun u => StoreFrame s u ∧ u.mem = s.mem ∧ u.poison = s.poison ∧ OnlyRegs s.bk u.bk ∧
          Puts s.bk u.bk rd (loadValue s t z signed))) ∧
      (ownSlice s.cur t = false → mmxClash s.bk t.va z false = false →
        Completes i s (fun u => OnlyBank s u ∧ SameRegs s.bk u.bk ∧
          ∃ p, u.bk.loads = s.bk.loads ++ [p] ∧ p.rd = rd ∧ p.key = t.key ∧ p.size = z ∧ p.signed = signed ∧
            p.pc = s.bk.pc))
    let onChip := onChipTarget s s.bk (getReg s.bk base + BitVec.ofInt 64 off.toInt) z true false
    let handle := handleTarget s s.bk base off.toInt z true false
    loads (.lds rd base size off) onChip true ∧ loads (.ldsu rd base size off) onChip false ∧
    loads (.ldh rd base size off) handle true ∧ loads (.ldhu rd base size off) handle false

/-- R163: the oldest outstanding load of core k returns: one that has performed brings the value it read; another performs
now: unpoisoned, and passing its tag check, its value reaches its register; poisoned, what follows it is squashed, the
registers are those at the load, and DUE is taken precisely at the load, with the load's address in FLTA (the model's, log
entry 39). -/
def Claims.LoadReturns : Prop :=
  ∀ (s : State) (k : Fin 16) (p : PendingLoad) (rest : List PendingLoad), s.Quiet →
    let b := s.active k
    let t : Target := ⟨p.key, p.va.toNat, p.checked⟩
    b.loads = p :: rest → b.stoppedAt = none →
    (∀ v, p.got = some v →
      Completes (.loadReturn k) s (fun u => u.mem = s.mem ∧ u.cur = s.cur ∧ Puts b (u.active k) p.rd v ∧
        (u.active k).loads.length = rest.length ∧ (u.active k).pc = b.pc)) ∧
    (p.got = none → (s.checkTag t (s.phaseOf b) k false).isSome = true →
    (s.poisonIn p.key p.size = none →
      Completes (.loadReturn k) s (fun u => u.mem = s.mem ∧ u.cur = s.cur ∧ Puts b (u.active k) p.rd (loadValue s t p.size p.signed) ∧
        (u.active k).loads.length = rest.length ∧ (u.active k).pc = b.pc)) ∧
    (s.poisonIn p.key p.size = some .due → b.mode = .user →
      Completes (.loadReturn k) s (fun u => u.mem = s.mem ∧ (u.active k).mode = .supervisor ∧ (u.active k).flti = p.pc ∧
        (u.active k).flta = p.va ∧ bits (u.active k).fltc 0 8 = 0x0D#8 ∧ (u.active k).x = p.x ∧ (u.active k).loads = [] ∧
        (u.active k).loops = p.loops ∧ (u.active k).handles = p.handles ∧ (u.active k).repc = p.repc)))

/-- R183, R184: a store that has passed its address check, the footprint check and its home's tag check completes: the
low bytes of the register stand at the address, little-endian; every other byte of memory, every register, and the rest
of the module but tags and poison are as before. Only where the page is paged may its leaf entry change as well: it gains
D (R98). A store that is posted (R185; the moment is the schedule's, log entry 37) leaves its bytes to perform later: every
byte of an unpaged segment is as before, and when it performs, not before older ones to its home (R107), they are stored. -/
def Obligations.StoresComplete : Prop :=
  ∀ (s : State) (rd base : Reg) (size : BitVec 2) (off : BitVec 11) (t : Target), s.Quiet →
    let z := 2 ^ size.toNat
    let stores (i : Instr) (target : Except Stop Target) : Prop :=
      target = .ok t → AccessPasses s t z true →
      Completes i s (fun u => StoreFrame s u ∧ SameRegs s.bk u.bk ∧ OnlyRegs s.bk u.bk ∧
        u.natAt t.key z = (getReg s.bk rd).toNat % 2 ^ (8 * z) ∧
        (Unpaged s t.va → SameBytesBut t.key z s u) ∧
        ∀ n g loc e, findSeg (s.segsOf s.bk) t.va = some (n, g) → g.pg = true →
          walk s (s.rootOf s.bk) g.chk t.va = some (loc, e) →
          (∀ a, (a < t.key ∨ t.key + z ≤ a) → (a < loc ∨ loc + 8 ≤ a) → u.byteAt a = s.byteAt a) ∧
          (t.key + z ≤ loc ∨ loc + 8 ≤ t.key → u.wordAt loc = e ||| 0x8))
    stores (.sts rd base size off) (onChipTarget s s.bk (getReg s.bk base + BitVec.ofInt 64 off.toInt) z false true) ∧
    stores (.sth rd base size off) (handleTarget s s.bk base off.toInt z false true) ∧
    (AccessPasses s t z true → ∀ win v, ∃ u, postStore s (.ok t) win z v true = .next u ∧ StoreFrame s u ∧
      SameRegs s.bk u.bk ∧ (Unpaged s t.va → SameBytes s u) ∧
      u.bk.posted = s.bk.posted ++ [⟨t.key, t.va, win, toBytes z v.toNat⟩]) ∧
    ∀ (k : Fin 16) (x : Bool) (n : Nat) (p : PostedStore), (s.bankAt k x).posted[n]? = some p →
      (∀ q, q ∈ (s.bankAt k x).posted.take n → homeOf q.key ≠ homeOf p.key) →
      storePerforms s k x n =
        (s.setBankAt k x { s.bankAt k x with posted := (s.bankAt k x).posted.eraseIdx n }).store p.key p.bytes

/-- R186, R187, R189: an atomic that has passed its address check and the footprint check, on unpoisoned data outside a
paged segment, completes: the old value, sign-extended, in sD; at the address OP of the old value and sB (for `cas`, sB
where the old value is that of sD, else the old value); every other byte as before. -/
def Claims.AtomicsComplete : Prop :=
  ∀ (s : State) (rd ra rb : Reg) (ord : BitVec 2) (z8 hnd : Bool) (op : BitVec 3) (t : Target), s.Quiet →
    let z := if z8 then 8 else 4
    let m := 2 ^ (8 * z)
    let target := if hnd then handleTarget s s.bk ra 0 z true true else onChipTarget s s.bk (getReg s.bk ra) z true true
    let old := s.natAt t.key z
    let b := (getReg s.bk rb).toNat % m
    let sv (v : Nat) : Int := (BitVec.ofNat (8 * z) v).toInt
    let combined :=
      if op = 0 then (old + b) % m else if op = 1 then b else if op = 2 then old &&& b else if op = 3 then old ||| b
      else if op = 4 then old ^^^ b else if op = 5 then (if sv old ≤ sv b then old else b)
      else if op = 6 then (if sv old ≤ sv b then b else old) else (if old ≤ b then b else old)
    let does (i : Instr) (new : Nat) : Prop :=
      Completes i s (fun u => StoreFrame s u ∧ OnlyRegs s.bk u.bk ∧ Puts s.bk u.bk rd (loadValue s t z true) ∧
        u.natAt t.key z = new ∧ SameBytesBut t.key z s u)
    target = .ok t → mmxClash s.bk t.va z true = false → s.poisonIn t.key z = none → Unpaged s t.va →
    does (.amo rd ra rb ord z8 hnd op) combined ∧
    does (.cas rd ra rb ord z8 hnd) (if old = (getReg s.bk rd).toNat % m then b else old)

/-- R188, R189: `lda` completes with the zero-extended value in sD and `stl` with the low bytes of sB at the address,
where their checks pass (`lda` on unpoisoned data, `stl` outside a paged segment, on poisoned data too, which is the model's
reading, log entry 9). -/
def Claims.OrderedAccesses : Prop :=
  ∀ (s : State) (r ra : Reg) (size : BitVec 2) (hnd : Bool) (t : Target), s.Quiet →
    let z := 2 ^ size.toNat
    let target (rd wr : Bool) :=
      if hnd then handleTarget s s.bk ra 0 z rd wr else onChipTarget s s.bk (getReg s.bk ra) z rd wr
    (target true false = .ok t → mmxClash s.bk t.va z false = false → s.poisonIn t.key z = none →
      WritesReg (.lda r ra size hnd) s r (loadValue s t z false)) ∧
    (target false true = .ok t → mmxClash s.bk t.va z true = false → Unpaged s t.va →
      Completes (.stl ra r size hnd) s (fun u => StoreFrame s u ∧ SameRegs s.bk u.bk ∧
        u.natAt t.key z = (getReg s.bk r).toNat % 2 ^ (8 * z) ∧ SameBytesBut t.key z s u))

/-- R112, R190: a fence whose core has no vector instruction under way retires and changes nothing else; `nop` and a
`stmp`, which sets sD to STAMP, complete in every state (R205, R210). -/
def Claims.FenceNopStamp : Prop :=
  ∀ (s : State) (scope : BitVec 2) (rd : Reg),
    (s.bk.vec.queue = [] → FallsOn (.fence scope) s) ∧ FallsOn .nop s ∧
    WritesReg (.stmp rd) s rd (BitVec.ofNat 64 (s.clk / 2))

/-! ## Handles (R98 to R103) and `wrapa` (R198) -/

/-- R101, R102: `xlat` of an address in an unpaged segment fills the handle: V, the segment's rights and tier, CK, the
window and no walk; `hinv` clears V and PD; both wait only while a vector instruction names the handle, and leave every
register and byte alone. `hq` completes in every state. -/
def Claims.Handles : Prop :=
  ∀ (s : State) (h ra rd : Reg) (n : Nat) (g : Seg),
    let va := getReg s.bk ra
    s.bk.vec.queue.any (fun e => namesHandle e.i (ix16 h)) = false →
    (findSeg (s.segsOf s.bk) va.toNat = some (n, g) → g.pg = false →
      Completes (.xlat h ra) s (fun u => OnlyBank s u ∧ SameRegs s.bk u.bk ∧
        let x := getHandle u.bk h
        x.v = true ∧ x.pd = false ∧ x.va = va.setWidth 56 ∧ x.lo = g.vbase ∧ x.hi = g.vbase + g.len ∧ x.r = g.r ∧
        x.w = g.w ∧ x.x = g.x ∧ x.tier = BitVec.ofNat 2 g.tier ∧ x.ck = (decide (g.tier = 0) || g.chk) ∧ x.seg = n ∧
        ∀ q, ix16 q ≠ ix16 h → getHandle u.bk q = getHandle s.bk q)) ∧
    Completes (.hinv h) s (fun u => OnlyBank s u ∧ SameRegs s.bk u.bk ∧ (getHandle u.bk h).v = false ∧
      (getHandle u.bk h).pd = false ∧ ∀ q, ix16 q ≠ ix16 h → getHandle u.bk q = getHandle s.bk q) ∧
    ∃ v, WritesReg (.hq rd h) s rd v ∧ v.getLsbD 63 = (getHandle s.bk h).v ∧ v.getLsbD 62 = (getHandle s.bk h).pd ∧
      v.getLsbD 61 = (getHandle s.bk h).ck ∧ v.setWidth 56 = (getHandle s.bk h).va

/-- R101: an `xlat` of an address that lies in no segment takes SEGV in user mode, with the address in FLTA. -/
def Claims.XlatOutside : Prop :=
  ∀ (s : State) (h ra : Reg), s.bk.mode = .user → s.bk.loads = [] →
    s.bk.vec.queue.any (fun e => namesHandle e.i (ix16 h)) = false →
    findSeg (s.segsOf s.bk) (getReg s.bk ra).toNat = none →
    Completes (.xlat h ra) s (fun u => TakesFault s u .segv (getReg s.bk ra) 0)

/-- R98, R99, R101, R103: the walk pending on a handle of core k ends: on a present leaf entry PD clears and the window
translates to the page it names; without one, PD clears too, and the page is marked missing. -/
def Claims.WalkEnds : Prop :=
  ∀ (s : State) (k hn : Fin 16), s.Quiet →
    let b := s.active k
    let h := b.handles.get hn
    let chk := ((s.segsOf b)[h.seg]?.map Seg.chk).getD false
    h.v = true → h.pd = true → h.missing = false →
    (∀ loc e, walk s (s.rootOf b) chk h.va.toNat = some (loc, e) →
      Completes (.translationWalk k hn) s (fun u =>
        let x := (u.active k).handles.get hn
        x.pd = false ∧ x.v = true ∧ x.phys = (bits e 16 32).toNat * 0x10000 ∧ (u.active k).x = b.x ∧
        ∀ a, (a < loc ∨ loc + 8 ≤ a) → u.byteAt a = s.byteAt a)) ∧
    (walk s (s.rootOf b) chk h.va.toNat = none →
      Completes (.translationWalk k hn) s (fun u =>
        ((u.active k).handles.get hn).missing = true ∧ ((u.active k).handles.get hn).pd = false ∧
        (u.active k).x = b.x ∧ SameBytes s u))

/-- R198: `wrapa` sets sD to BASE + ((sA − BASE) mod (SLOT × COUNT)), the modulus non-negative; on an unset channel it
takes SEGV with FLTA 0. -/
def Claims.WrapAddress : Prop :=
  ∀ (s : State) (rd ra ch : Reg),
    let c := getChan s.bk ch
    (c.set = true →
      WritesReg (.wrapa rd ra ch) s rd
        (BitVec.ofInt 64 (c.base + ((getReg s.bk ra).toNat - (c.base : Int)) % ((c.slot * c.count : Nat) : Int)))) ∧
    (c.set = false → s.bk.mode = .user → s.bk.loads = [] →
      Completes (.wrapa rd ra ch) s (fun u => TakesFault s u .segv 0 0))

/-! ## Barriers (R23, R145, R191, R192) -/

/-- R191, R192: outside a repeat, with no `bara` outstanding and no vector instruction under way, `bar` records the core's
arrival and stalls at the instruction, and `bara` records it and goes on. With a `bara` outstanding whose barrier released
at T, `barw` retires from T + 4 on. The arrival is the launch's: its bit for the core, and the tick. Registers and memory
stay. -/
def Claims.Barriers : Prop :=
  ∀ (s : State) (i : Fin 16) (l : Launch), (s.bk.mode = .supervisor ∨ s.bk.repc = 0) →
    let arrived (u : State) : Prop := u.bk.barArrived = true ∧ SameRegs s.bk u.bk ∧ SameBytes s u ∧
      u.launch i = some { l with arrived := l.arrived ||| (1#16 <<< s.cur.val), lastArrival := s.stamp }
    (s.bk.slot = some i → s.launch i = some l → s.bk.baraOut = false → s.bk.vec.queue = [] →
      (s.bk.barArrived = false → Completes .bar s (fun u => arrived u ∧ u.bk.stall = some .barrier ∧ u.bk.pc = s.bk.pc)) ∧
      Completes .bara s (fun u => arrived u ∧ u.bk.baraOut = true ∧ u.bk.stall = s.bk.stall)) ∧
    (∀ r, s.bk.baraOut = true → s.bk.barReleased = some r → r + 4 ≤ s.stamp →
      Completes .barw s (fun u => OnlyBank s u ∧ SameRegs s.bk u.bk ∧ u.bk.baraOut = false ∧ u.bk.barArrived = false))

/-- R192: in user mode, outside a repeat and with no load outstanding, `barw` without an outstanding `bara` is ILL, and so
are `bar` and `bara` with one. -/
def Claims.BarrierIll : Prop :=
  ∀ (s : State), s.bk.mode = .user → s.bk.repc = 0 → s.bk.loads = [] →
    (s.bk.baraOut = false → Completes .barw s (fun u => TakesFault s u .ill 0 0)) ∧
    (s.bk.baraOut = true → Completes .bar s (fun u => TakesFault s u .ill 0 0) ∧
      Completes .bara s (fun u => TakesFault s u .ill 0 0))

/-! ## Channels (R18, R19, R193 to R197) -/

/-- R193, R194: outside a repeat, where no entry or job names the channel, `cbset` with a descriptor that passes R104, the
footprint and tag checks and is not poisoned sets the channel: a valid descriptor makes it the home register of a channel
in the core's own slice, its pointers zero, or a view of another core's; a descriptor of zeros unsets it. -/
def Obligations.ChannelSet : Prop :=
  ∀ (s : State) (ch ra : Reg) (t : Target), s.Quiet → (s.bk.mode = .supervisor ∨ s.bk.repc = 0) →
    onChipTarget s s.bk (getReg s.bk ra) 32 true false = .ok t → AccessPasses s t 32 false →
    s.poisonIn t.key 32 = none → chanNamed s.bk (ix16 ch) = false →
    let w (i : Nat) : Word := s.wordAt (t.key + 8 * i)
    let base := (w 0).toNat
    let slot := (w 1).toNat
    let count := (w 2).toNat
    let home := base / 2 ^ 24
    let sets (P : Chan → Prop) : Prop :=
      Completes (.cbset ch ra) s (fun u => StoreFrame s u ∧ u.mem = s.mem ∧ u.poison = s.poison ∧ SameRegs s.bk u.bk ∧
        P (getChan u.bk ch) ∧ ∀ q, ix16 q ≠ ix16 ch → getChan u.bk q = getChan s.bk q)
    (base < 2 ^ 28 → base % 32 = 0 → slot % 32 = 0 → 32 ≤ slot → slot ≤ 65536 → 1 ≤ count → count ≤ 4096 →
      base % 2 ^ 24 + slot * count ≤ 0xC00000 → w 3 = 0 →
      sets (fun c => c.set = true ∧ c.base = base ∧ c.slot = slot ∧ c.count = count ∧ c.head = 0 ∧ c.tail = 0 ∧
        c.filled = 0 ∧ c.home.val = home ∧ c.view = decide (home ≠ s.cur.val))) ∧
    (w 0 = 0 → w 1 = 0 → w 2 = 0 → w 3 = 0 → sets (fun c => c.set = false))

/-- R19, R195, R196: on a home register, `cbadv` moves its side by n slots (1 for n = 0) when that many are free or filled
and n is at most COUNT, and `cbwait` retires when they are; with too few, each stalls at the instruction. -/
def Claims.ChannelMoves : Prop :=
  ∀ (s : State) (ch rb : Reg),
    let c := getChan s.bk ch
    let v := (getReg s.bk rb).toNat
    let n := if v = 0 then 1 else v
    let moves (side : Bool) (d : Chan) : Prop :=
      Completes (.cbadv ch rb side) s (fun u => SameRegs s.bk u.bk ∧ SameBytes s u ∧ getChan u.bk ch = d)
    let stalls (i : Instr) : Prop :=
      Completes i s (fun u => OnlyBank s u ∧ u.bk = { s.bk with stall := u.bk.stall } ∧ u.bk.stall.isSome = true)
    c.set = true → c.view = false → c.filled ≤ c.count →
    (n ≤ c.count - c.filled → moves true { c with head := (c.head + n) % c.count, filled := c.filled + n }) ∧
    (n ≤ c.filled → moves false { c with tail := (c.tail + n) % c.count, filled := c.filled - n }) ∧
    (n ≤ c.count → c.count - c.filled < n → stalls (.cbadv ch rb true)) ∧
    (n ≤ c.count → c.filled < n → stalls (.cbadv ch rb false)) ∧
    (v ≤ c.count - c.filled → FallsOn (.cbwait ch rb true) s) ∧ (v ≤ c.filled → FallsOn (.cbwait ch rb false) s) ∧
    (v ≤ c.count → c.count - c.filled < v → stalls (.cbwait ch rb true)) ∧
    (v ≤ c.count → c.filled < v → stalls (.cbwait ch rb false))

/-- R195, R196, R199: in user mode with no load outstanding, `cbadv` and `cbwait` raise SEGV on an unset channel with FLTA
0, and with n above COUNT on a set one with FLTA its BASE. -/
def Claims.ChannelFaults : Prop :=
  ∀ (s : State) (ch rb : Reg) (side : Bool), s.bk.mode = .user → s.bk.loads = [] →
    let c := getChan s.bk ch
    let v := (getReg s.bk rb).toNat
    (c.set = false → Completes (.cbadv ch rb side) s (fun u => TakesFault s u .segv 0 0) ∧
      Completes (.cbwait ch rb side) s (fun u => TakesFault s u .segv 0 0)) ∧
    (c.set = true → c.count < v → Completes (.cbadv ch rb side) s (fun u => TakesFault s u .segv (BitVec.ofNat 64 c.base) 0) ∧
      Completes (.cbwait ch rb side) s (fun u => TakesFault s u .segv (BitVec.ofNat 64 c.base) 0))

/-! ## Jobs, configuration, CSRs (R40, R197, R201 to R205, R209) -/

/-- R197, R201, R202, R205: `jwait` retires when its token is final or the table holds no such job unfinished, else it
stalls; `jq` writes the table's token, or the final token of no job; `cbq` completes in every state, 0 for an unset
channel, and for a home register its fields; `stwait` retires once STAMP has reached its value (relative to BRS with
`.r`), where no send to the core is owed by then (the model's reading of R262, log entry 72), and else stalls. -/
def Claims.QueriesAndWaits : Prop :=
  ∀ (s : State) (rd ra ch : Reg),
    let a := getReg s.bk ra
    let seq : BitVec 16 := a.setWidth 16
    let c := getChan s.bk ch
    let stalls (i : Instr) : Prop :=
      Completes i s (fun u => OnlyBank s u ∧ u.bk = { s.bk with stall := u.bk.stall } ∧ u.bk.stall.isSome = true)
    (a.getLsbD 63 = true ∨ (∀ j ∈ s.bk.jobs, j.seq = seq → j.phase = .done) → FallsOn (.jwait ra) s) ∧
    (a.getLsbD 63 = false → (∃ j ∈ s.bk.jobs, j.seq = seq ∧ j.phase ≠ .done) → stalls (.jwait ra)) ∧
    (∀ j, s.bk.jobs.find? (fun j => j.seq = seq) = some j → WritesReg (.jq rd ra) s rd j.token) ∧
    ((∀ j ∈ s.bk.jobs, j.seq ≠ seq) → WritesReg (.jq rd ra) s rd (0x8000000000000000#64 + seq.setWidth 64)) ∧
    (c.set = false → WritesReg (.cbq rd ch) s rd 0) ∧
    (c.set = true → c.view = false → c.filled < 2 ^ 13 → c.head < 2 ^ 12 → c.tail < 2 ^ 12 →
      ∃ v : Word, WritesReg (.cbq rd ch) s rd v ∧ (bits v 0 13).toNat = c.filled ∧ (bits v 13 12).toNat = c.head ∧
        (bits v 25 12).toNat = c.tail ∧ (bits v 37 4).toNat = c.home.val ∧ v.getLsbD 61 = false ∧
        v.getLsbD 62 = false ∧ v.getLsbD 63 = true) ∧
    (if a.toNat ≤ s.clk / 2 ∧ deliveryOwed s s.cur = false then FallsOn (.stwait ra) s else stalls (.stwait ra)) ∧
    (if (s.bk.brs + a).toNat ≤ s.clk / 2 ∧ deliveryOwed s s.cur = false then FallsOn (.stwaitR ra) s
     else stalls (.stwaitR ra))

/-- R203, R204, R86, R88, R216, R295: an `ecfg` with a value its item takes completes: the item then reads as that value,
every other writable item reads as before, no register and no byte of memory changes, and a write of ROTN sets RRB to 0;
with another value it raises ILL with FLTA the item. The values an item takes: VCTL with its reserved bits [15:6] and [63:32]
zero; a MASH of one to four bands; an MFX with bits 7, 15, 23 and [63:31] zero; an MSC with [63:32] zero; an MMSK with
[31:3] zero and, with a window, one of 1 or more; an MBMP with [63:28] and [4:0] zero; an FMT entry with bits 7 and [63:20] zero;
an FMTL below 8; a ROTN of at most 64. -/
def Obligations.ConfigWrites : Prop :=
  ∀ (s : State) (item : BitVec 12) (ra : Reg), item.toNat ∈ writableItems →
    let v := getReg s.bk ra
    let n := item.toNat
    (itemValid item v = true ↔
      (n = 0 → bits v 6 10 = 0 ∧ bits v 32 32 = 0) ∧ (n = 0x100 → v = 0x1 ∨ v = 0x3 ∨ v = 0x7 ∨ v = 0xF) ∧
      (n = 0x101 → v.getLsbD 7 = false ∧ v.getLsbD 15 = false ∧ v.getLsbD 23 = false ∧ bits v 31 33 = 0) ∧
      (n = 0x102 → v.toNat < 2 ^ 32) ∧
      (n = 0x103 → bits v 3 29 = 0 ∧ (v.getLsbD 1 = true → bits v 32 32 ≠ 0)) ∧
      (n = 0x104 → bits v 28 36 = 0 ∧ bits v 0 5 = 0) ∧ (0x600 ≤ n → n < 0x640 → v.getLsbD 7 = false ∧ v.toNat < 2 ^ 20) ∧
      (n = 0x640 → v.toNat < 8) ∧ (n = 0x641 → v.toNat ≤ 64)) ∧
    (itemValid item v = true → (item = 0 → s.bk.vec.queue = []) →
      Completes (.ecfg item ra) s (fun u => OnlyBank s u ∧ SameRegs s.bk u.bk ∧ readItem u.bk item = v ∧
        (∀ j : BitVec 12, j.toNat ∈ writableItems → j ≠ item → readItem u.bk j = readItem s.bk j) ∧
        (item = 0x641 → ∃ b : Bank, b.rrb = 0 ∧ u.bk = retireBank b 1))) ∧
    (itemValid item v = false → s.bk.mode = .user → s.bk.loads = [] →
      Completes (.ecfg item ra) s (fun u => TakesFault s u .ill (item.setWidth 64) 0))

/-- R40, R203, R209: `erd` gives an item's value, for VCTL and the deferral counts once no vector instruction is under
way; `csrr` gives a CSR's value to a mode that may read it. -/
def Claims.ConfigAndCsrReads : Prop :=
  ∀ (s : State) (rd : Reg),
    let b := s.bk
    let erd (item : BitVec 12) (v : Word) : Prop := WritesReg (.erd rd item) s rd v
    let csr (n : BitVec 12) (v : Word) : Prop := WritesReg (.csrr rd n) s rd v
    (b.vec.queue = [] → erd 0x000 b.vec.vctl ∧ erd 0x010 (BitVec.ofNat 64 b.vec.dq0.length) ∧
      erd 0x011 (BitVec.ofNat 64 b.vec.dq1.length)) ∧
    erd 0x0F0 b.vec.vfi ∧ erd 0x0F1 b.vec.vfa ∧ erd 0x0F2 b.vec.vfs ∧ erd 0x100 b.mat.mash ∧ erd 0x101 b.mat.mfx ∧
    erd 0x102 b.mat.msc ∧ erd 0x103 b.mat.mmsk ∧ erd 0x104 b.mat.mbmp ∧ erd 0x640 b.fmtl ∧ erd 0x641 b.rotn ∧
    (∀ i : Fin 64, erd (BitVec.ofNat 12 (0x600 + i.val)) (b.fmt.get i)) ∧
    csr 0x400 b.shp ∧ csr 0x401 b.rrb ∧ csr 0x402 b.rotn ∧ csr 0x403 b.fmtl ∧ csr 0x404 b.ashp ∧ csr 0x405 b.brs ∧
    csr 0x406 b.slip ∧ csr 0x407 b.wid ∧ csr 0x408 b.ctxid ∧ csr 0x409 b.xlive ∧
    csr 0xC01 ((s.core s.cur).adef.setWidth 64) ∧ csr 0xC02 (BitVec.ofNat 64 (s.clk / 2)) ∧
    (b.mode = .supervisor → csr 0x800 b.fltc ∧ csr 0x801 b.flta ∧ csr 0x802 b.flti)

/-- R40, R209: in supervisor mode a `csrw` writes its register, of which only the fields the spec assigns take effect, and
leaves memory and every scalar register as before. -/
def Claims.CsrWrites : Prop :=
  ∀ (s : State) (ra : Reg), s.bk.mode = .supervisor →
    let v := getReg s.bk ra
    let csr (n : BitVec 12) (P : Bank → Prop) : Prop :=
      Completes (.csrw n ra) s (fun u => OnlyBank s u ∧ SameRegs s.bk u.bk ∧ P u.bk)
    csr 0x400 (fun b => b.shp = v &&& 0x7F1F) ∧ csr 0x401 (fun b => b.rrb = v &&& 0x7F) ∧
    csr 0x402 (fun b => b.rotn = v &&& 0x7F) ∧ csr 0x403 (fun b => b.fmtl = v &&& 0x7) ∧
    csr 0x404 (fun b => b.mat.mash = v &&& 0xF) ∧ csr 0x405 (fun b => b.brs = v) ∧ csr 0x406 (fun b => b.slip = v) ∧
    csr 0x407 (fun b => b.wid = v) ∧ csr 0x408 (fun b => b.ctxid = v) ∧ csr 0x409 (fun b => b.xlive = v &&& 0xFF) ∧
    csr 0x800 (fun b => b.fltc = v &&& 0x7F07FF) ∧ csr 0x801 (fun b => b.flta = v) ∧ csr 0x802 (fun b => b.flti = v)

/-! ## Faults, privilege, the end of a work item (R48, R135, R146, R147, R151, R161, R206 to R210) -/

/-- R151, R161, R207, R48, R34: in user mode with no load outstanding, `trap` and `brk`, outside a repeat, take TRAP and
BRK with FLTA their code; a word that is no instruction takes ILL, and one that cannot be fetched SEGV. The core is then
in supervisor mode with FLTI the instruction's address and nothing else changed. -/
def Claims.SystemFaults : Prop :=
  ∀ (s : State) (code : BitVec 12) (a : Word), s.bk.mode = .user → s.bk.loads = [] →
    (s.bk.repc = 0 → Completes (.trap code) s (fun u => TakesFault s u .trap (code.setWidth 64) 0) ∧
      Completes (.brk code) s (fun u => TakesFault s u .brk (code.setWidth 64) 0)) ∧
    Completes (.encodingNotAnInstruction (.ill a)) s (fun u => TakesFault s u .ill a 0) ∧
    Completes (.encodingNotAnInstruction .fetch) s (fun u => TakesFault s u .segv 0 0)

/-- R40, R48, R208, R209: in user mode, with no load outstanding, `sret`, `csrr` of a supervisor register, `csrw` of any
register of classes 01 and 10, and `fprog`, `ferase` and `fduty` take PRIV. -/
def Claims.PrivilegeFaults : Prop :=
  ∀ (s : State) (r : Reg) (c : BitVec 12) (h : Head) (f : LayA), s.bk.mode = .user → s.bk.loads = [] →
    let priv (i : Instr) : Prop := Completes i s (fun u => TakesFault s u .priv 0 0)
    (s.bk.repc = 0 → priv .sret) ∧
    ((bits c 10 2 = 2#2) → priv (.csrr r c)) ∧
    ((bits c 10 2 = 1#2 ∨ bits c 10 2 = 2#2) → priv (.csrw c r)) ∧
    (loopSpan s.bk = false → priv (.fprog h f) ∧ priv (.ferase h f) ∧ priv (.fduty h f))

/-- R103, R208: in supervisor mode `sret` returns to user mode at FLTI and changes nothing else, save that the walk of a
handle that an XF has left with PD = 1 runs again. -/
def Claims.ReturnFromFault : Prop :=
  ∀ (s : State), s.bk.mode = .supervisor →
    Completes .sret s (fun u => OnlyBank s u ∧ u.bk = { s.bk with
      mode := .user, pc := s.bk.flti
      handles := s.bk.handles.map (fun h => if h.pd && h.missing then { h with missing := false } else h) })

/-- R161: a fault raised in supervisor mode does not nest: the context of the core ends with a FAULT record that names the
fault, and no fault register changes. -/
def Claims.NestedFault : Prop :=
  ∀ (s : State) (i : Fin 16) (l : Launch) (e : Exc), s.bk.mode = .supervisor → s.bk.slot = some i → s.launch i = some l →
    l.finishing = none →
    let u := takeFault s e
    (∃ r, u.launch i = some { l with finishing := some r } ∧ r.status = 6#8 ∧ r.code = e.code.byte ∧ r.final = true) ∧
    u.bk = { s.bk with stall := u.bk.stall } ∧ SameBytes s u

/-- R210: outside a repeat, `wfe` stalls at the instruction for at most 4,096 cycles. -/
def Claims.WaitForEvent : Prop :=
  ∀ (s : State), (s.bk.mode = .supervisor ∨ s.bk.repc = 0) →
    Completes .wfe s (fun u => OnlyBank s u ∧ u.bk = { s.bk with stall := some (.wfe (s.clk + 4096)) })

/-- R146, R147, R206: outside a repeat, with room in the retirement tracker and no latch held, `tail` and `exit` end the
work item: it joins the tracker, and the core holds no live item; registers and memory stay. -/
def Claims.ItemEnds : Prop :=
  ∀ (s : State) (i : Fin 16), (s.bk.mode = .supervisor ∨ s.bk.repc = 0) → s.bk.slot = some i →
    (s.core s.cur).tracker.length < 8 → s.bk.mat.latchS = none → s.bk.mat.latchV = none → s.bk.mat.latchO = none →
    let ends (x : Instr) : Prop := Completes x s (fun u => SameBytes s u ∧ SameRegs s.bk u.bk ∧ u.bk.itemLive = false ∧
      u.bk.item = s.bk.item + 1 ∧ ∃ t, (u.core s.cur).tracker = (s.core s.cur).tracker ++ [t] ∧ t.slot = i ∧
        t.item = s.bk.item ∧ t.wid = s.bk.wid)
    ends .tail ∧ ends .exit

/-- R135: core k, whose context runs and has no live item, starts the next item of its share: WID is that item's, every
scalar register is 0 but s2, which holds ARG, and s3, which holds the item's index; every handle and loop level is
invalid; the PC is ENTRY. -/
def Claims.ItemStarts : Prop :=
  ∀ (s : State) (k i : Fin 16) (l : Launch) (c : Nat),
    let b := s.active k
    b.slot = some i → s.launch i = some l → b.itemLive = false → b.shareEnded = false → b.stoppedAt = none →
    b.mode = .user → clStalled s k = false → nextCombo l.hdr k b.combo = some c →
    Completes (.workItemStart k) s (fun u =>
      let d := u.active k
      d.pc = BitVec.ofNat 64 l.hdr.entry ∧ d.wid = widOf l.hdr (comboVals l.hdr c) ∧
      (∀ r, getReg d r = if r = 2#6 then l.hdr.arg else if r = 3#6 then BitVec.ofNat 64 b.item else 0) ∧
      (∀ q, (getHandle d q).v = false) ∧ (∀ m, (getLoop d m).act = false) ∧ d.repc = 0 ∧ d.itemLive = true ∧
      d.vec = b.vec ∧ d.mat = b.mat ∧ d.chans = b.chans ∧ d.shp = b.shp ∧ d.fmt = b.fmt ∧ SameBytes s u)

/-- R133, R206: `wid` gives field f of the work identifier: for f = 6 the whole of WID, for f ≥ NF zero. -/
def Claims.WorkIdentifier : Prop :=
  ∀ (s : State) (i : Fin 16) (l : Launch) (rd : Reg) (f : BitVec 3), s.bk.slot = some i → s.launch i = some l →
    l.hdr.nf ≤ 6 →
    (f = 6 → WritesReg (.wid rd f) s rd s.bk.wid) ∧
    (f ≠ 6 → l.hdr.nf ≤ f.toNat → WritesReg (.wid rd f) s rd 0) ∧
    (f.toNat < l.hdr.nf → WritesReg (.wid rd f) s rd
      (BitVec.ofNat 64 (s.bk.wid.toNat / 2 ^ ((l.hdr.widths.take l.hdr.nf).drop (f.toNat + 1)).sum %
        2 ^ l.hdr.widths.getD f.toNat 0)))

/-- R179: in user mode, outside a repeat, on an active level that no untagged entry marks: `lbrk` at an index above IDX has
no effect; at IDX, with no entry tagged by the level waiting, it makes the level and the active levels inside its body
inactive and sets the PC to END. -/
def Claims.LoopBreak : Prop :=
  ∀ (s : State) (lvl : BitVec 2) (ra : Reg), (s.bk.mode = .supervisor ∨ s.bk.repc = 0) →
    let v := getLoop s.bk lvl.toFin
    let breaks (i : Instr) : Prop :=
      Completes i s (fun u => SameBytes s u ∧ SameRegs s.bk u.bk ∧ u.bk.pc = v.stop ∧
        (getLoop u.bk lvl.toFin).act = false ∧
        ∀ m, let x := getLoop s.bk m
          (getLoop u.bk m).act = (x.act && !(v.start.ule x.start && x.stop.ule v.stop)))
    v.act = true → v.ut = false → (∀ j ∈ s.bk.jobs, tagBeyond lvl.toFin v.idx j.e.tag = false) →
    (v.idx.toNat < (getReg s.bk ra).toNat → FallsOn (.lbrk lvl ra) s) ∧
    (getReg s.bk ra = v.idx → breaks (.lbrk lvl ra)) ∧ breaks (.lbrkUnconditional lvl)

/-- R162, R191, R210: the stall of a control core ends when its cause is gone: one for loads when none is outstanding, so
that the instruction issues again; a `wfe` after its cycles, and a barrier wait four ticks after the release, retire. -/
def Claims.StallEnds : Prop :=
  ∀ (s : State) (k : Fin 16),
    let b := s.active k
    let ends (P : Bank → Prop) : Prop := Completes (.instructionStallEnd k) s (fun u =>
      SameBytes s u ∧ P (u.active k) ∧ SameRegs b (u.active k) ∧ (u.active k).stall = none)
    b.stoppedAt = none → clStalled s k = false →
    (b.stall = some .loads → b.loads = [] → ends (fun c => c.pc = b.pc)) ∧
    (∀ t, b.stall = some (.wfe t) → t ≤ s.clk → ends (fun c => c.pc = (retireBank b 1).pc)) ∧
    (∀ t, b.stall = some .barrier → b.barReleased = some t → t + 4 ≤ s.stamp →
      ends (fun c => c.pc = (retireBank b 1).pc ∧ c.barArrived = false))

/-! ## Engine instructions at the control core (R8 to R17, R44, R49, R178, R199, R214) -/

/-- R8, R13, R214, R217: where the vector queue has room, no active level ends inside the instruction and its channels
are set, a vector instruction of layout A joins the queue with its captured operands; `mlog` names a mask, which does not
rotate. -/
def Claims.VectorEnqueues : Prop :=
  ∀ (s : State) (h : Head) (f : LayA),
    (∀ i ∈ [Instr.vadd h f, .vsub h f, .vmul h f, .vfma h f, .vfms h f, .vfnma h f, .vdiv h f, .vsqrt h f, .vmin h f,
        .vmax h f, .vabs h f, .vneg h f, .vcmp h f, .vclass h f, .vexp2 h f, .vlog2 h f, .viadd h f, .visub h f,
        .vimul h f, .vimad h f, .viand h f, .vior h f, .vixor h f, .vishl h f, .vishr h f, .visar h f, .vimin h f,
        .vimax h f, .vicmp h f, .vtfcmp h f, .vred h f, .vldc h f, .vmov h f, .vsel h f, .vperm h f, .vkeep h f,
        .vrng h f, .vdrn h f, .vdcnt h f],
      VectorReady s i → EnqueuesVector i h s (CapturesA s.bk h f)) ∧
    (VectorReady s (.mlog h f) → EnqueuesVector (.mlog h f) h s (fun e => e.vd = h.dst.toNat ∧
      e.va = rotReg s.bk f.a)) ∧
    (shpRows s.bk.shp = 16 → eCount s.bk.shp (intWidth (cmT f)) % 16 = 0 → VectorReady s (.vtrans h f) →
      EnqueuesVector (.vtrans h f) h s (CapturesA s.bk h f))

/-- R217, R225, R227, R230, R234, R235, R238: the vector instructions with enqueue checks of their own join the queue
when these pass: the conversions, the block instructions (which capture their format entry), `vbcast`, `vgat` and `vsca`;
`vshape` sets SHP at enqueue. -/
def Claims.VectorChecksPass : Prop :=
  ∀ (s : State) (h : Head) (f : LayB) (g : LayA) (w : Word),
    let x := cvFrom f
    let y := cvTo f
    let conv (i : Instr) : Prop := VectorReady s i → EnqueuesVector i h s (CapturesB s.bk h f)
    (x < 14 → y < 14 → cvPART f < Nat.max (fmtWidth x) (fmtWidth y) / Nat.min (fmtWidth x) (fmtWidth y) →
      cvRZ f = false → cvSAT f = false →
      (isTaper x = false → isTaper y = false → conv (.vcvt h f)) ∧ (x ≠ 13 → isTaper y = true → conv (.vtfenc h f)) ∧
      (isTaper x = true → isTaper y = false → y ≠ 13 → conv (.vtfdec h f))) ∧
    (blockEntry s.bk (bkFX f) (bkL f) = .ok w → fmtROW w ≤ shpLN s.bk.shp * 32 / fmtWidth (wideFC f) →
      (fmtBND w = false → VectorReady s (.vqblk h f) →
        EnqueuesVector (.vqblk h f) h s (fun e => CapturesB s.bk h f e ∧ e.fxs = w)) ∧
      (VectorReady s (.vdqblk h f) →
        EnqueuesVector (.vdqblk h f) h s (fun e => CapturesB s.bk h f e ∧ e.fxs = w))) ∧
    (blockEntry s.bk (mHi g) (mL g) = .ok w → fmtBND w = false → fmtROW w % 8 = 0 → VectorReady s (.vdot4 h g) →
      EnqueuesVector (.vdot4 h g) h s (fun e => CapturesA s.bk h g e ∧ e.fxs = w)) ∧
    ((bcR f = true → bcIDX f < eCount s.bk.shp (bcastWidth f)) → conv (.vbcast h f)) ∧ conv (.vgat h f) ∧
    conv (.vsca h f) ∧
    (vsLN f ≠ 0 → vsLN f ≤ 64 → vsROWS f ≠ 0 → vsROWS f ≤ 16 → VectorReady s (.vshape h f) →
      Completes (.vshape h f) s (fun t => OnlyBank s t ∧ SameRegs s.bk t.bk ∧ t.bk.pc = (retireBank s.bk 2).pc ∧
        shpLN t.bk.shp = vsLN f ∧ shpRows t.bk.shp = vsROWS f ∧
        ∃ e, t.bk.vec = { s.bk.vec with queue := s.bk.vec.queue ++ [e] } ∧ e.i = .vshape h f))

/-- R178: with its stage predicate 1, or none, a `vld`, `vst`, `vstc` or `vdfr` joins the queue; with it 0 it retires with
no effect, whatever the queue holds. -/
def Claims.StagePredicates : Prop :=
  ∀ (s : State) (h : Head) (f : LayB) (g : LayA),
    (∀ i ∈ [Instr.vld h f, .vst h f],
      (mfPE f = true → bit s.bk.sp (mfSPK f) = false → loopSpan s.bk = false → RetiresTwo i s) ∧
      ((mfPE f = true → bit s.bk.sp (mfSPK f) = true) → VectorReady s i →
        EnqueuesVector i h s (CapturesB s.bk h f))) ∧
    (∀ i ∈ [Instr.vstc h g, .vdfr h g],
      (cmPE g = true → bit s.bk.sp (cmSPK g) = false → loopSpan s.bk = false → RetiresTwo i s) ∧
      ((cmPE g = true → bit s.bk.sp (cmSPK g) = true) → VectorReady s i →
        EnqueuesVector i h s (CapturesA s.bk h g)))

/-- R250, R297, R339: a descriptor read at enqueue goes ahead on an on-chip range of a tier-0 segment with R, clear of
jobs in flight, whose sectors pass the tag check and are not poisoned; it changes race-detection tags only. -/
def Obligations.DescriptorReads : Prop :=
  ∀ (s : State) (ptr : Word) (n : Nat), s.Quiet → InTier0 s ptr n true false → mmxClash s.bk ptr.toNat n false = false →
    (∀ q ∈ parts ptr.toNat n, s.poisonIn (onKey q.1) q.2 = none ∧
      (s.checkTag ⟨onKey q.1, q.1, true⟩ (s.phaseOf s.bk) s.cur false).isSome = true) →
    ∃ g, enqRead s ptr ptr n = .ok { s with tags := g }

/-- R249 to R264: each copy instruction whose operands pass the checks of R250 becomes a job of the copy engine whose
footprint is the bounds of its maps; `cpyw` writes a ring, which footprints leave out, and `cpeer` covers its local side
only. -/
def Obligations.CopyEnqueues : Prop :=
  ∀ (s s1 : State) (h : Head) (f : LayA) (x y : List Word), s.Quiet →
    let a := if f.ka then 0 else getReg s.bk f.a
    let b := if f.kb then 0 else getReg s.bk f.b
    let c := getReg s.bk f.c
    let mx := toMap x
    let my := toMap y
    let within (m : TMap) (r w : Bool) : Prop := boundOk s1 m.lo m.hi r w = true
    let enq (i : Instr) (reads writes : List Region) : Prop := EnqueuesJob i s .copy h.dst reads writes
    let goes (restart : Nat) : Prop := (getReg s.bk (mHi f)).toNat * 32 < restart
    JobReady s .copy false →
    (a.toNat % 64 = 0 → readMap s a = .ok (s1, x) → mapBad x = false → within mx false true → goes mx.total →
      enq (.cfill h f) [] [mx.region]) ∧
    (a.toNat % 64 = 0 → b.toNat % 64 = 0 → readTwoMaps s a b = .ok (s1, x, y) → mapBad x = false → mapBad y = false →
      (mx.total = my.total → within mx false true → within my true false →
        regionsMeet [my.region] [mx.region] = false →
        (goes mx.total → enq (.cpy h f) [my.region] [mx.region]) ∧
        (mx.total ≤ 65536 → boundSlice my = some s.cur.val → (boundSlice mx).isSome = true →
          enq (.cxs h f) [my.region] [mx.region])) ∧
      (mx.total = my.total → c.toNat < 4 → peerV s1 c.toNat = true → goes mx.total →
        (within mx true false → bit f.m 0 = false → enq (.cpeer h f) [mx.region] []) ∧
        (within mx false true → bit f.m 0 = true → enq (.cpeer h f) [] [mx.region])) ∧
      (let m := mx.total / my.n0
       let reads := [my.region, memRegion c.toNat (4 * m)]
       c.toNat % 4 = 0 → InTier0 s1 c (4 * m) true false → gatherOk y my mx = true → within mx false true →
       within my true false → regionsMeet reads [mx.region] = false → goes mx.total →
       enq (.cgat h f) reads [mx.region]) ∧
      (let m := my.total / mx.n0
       let reads := [my.region, memRegion c.toNat (4 * m)]
       c.toNat % 4 = 0 → InTier0 s1 c (4 * m) true false → gatherOk x mx my = true → within mx false true →
       within my true false → regionsMeet reads [mx.region] = false → goes my.total →
       enq (.csca h f) reads [mx.region])) ∧
    (let d := getChan s.bk f.a
     let ring := (ringOf d).1
     let n := (ringOf d).2
     b.toNat % 64 = 0 → c.toNat % 64 = 0 → readTwoMaps s b c = .ok (s1, x, y) → mapBad x = false → mapBad y = false →
     mx.total = my.total → ChannelsSet s.bk (.cpyw h f) → f.ka = true → ring ≤ my.base → my.base < ring + n →
     my.hi - my.lo ≤ n → within mx true false → boundOk s1 ring (ring + n : Nat) false true = true → goes my.total →
     enq (.cpyw h f) [mx.region] [])

/-- R276 to R283, R287: each KV instruction on a descriptor aligned and with both rights becomes a job of the KV engine
that reads or writes the descriptor's head, whose bookkeeping bytes 0x24 to 0x26 lie in no footprint, and its row or
report. -/
def Obligations.KvEnqueues : Prop :=
  ∀ (s : State) (h : Head) (f : LayA) (w : Word),
    let a := if f.ka then 0 else getReg s.bk f.a
    let b := if f.kb then 0 else getReg s.bk f.b
    let c := getReg s.bk f.c
    let enq (i : Instr) (reads writes : List Region) : Prop := EnqueuesJob i s .kv h.dst reads writes
    JobReady s .kv false →
    (KvDescriptor s a →
      enq (.kvfree h f) [] (headRegions a) ∧
      (1 ≤ b.toNat → b.toNat ≤ 255 → enq (.kvref h f) [] (headRegions a)) ∧
      (c.toNat % 32 = 0 → InTier0 s c 32 false true → enq (.kvseek h f) (headRegions a) [memRegion c.toNat 32]) ∧
      (b.toNat % 32 = 0 → InTier0 s b 64 false true → enq (.kvstat h f) (headRegions a) [memRegion b.toNat 64]) ∧
      (fmtRowEntry s.bk (mHi f) (mL f) = .ok w →
        let n := 2 * rowBytes w (fmtROW w)
        (1 ≤ c.toNat → c.toNat ≤ 65535 → enq (.kvopen h f) [] (headRegions a)) ∧
        (bit f.m 0 = true → b.toNat % 32 = 0 → enq (.kvapp h f) [] (headRegions a)) ∧
        (bit f.m 0 = false → b.toNat % 32 = 0 → InTier0 s b n true false →
          enq (.kvapp h f) [memRegion b.toNat n] (headRegions a)))) ∧
    (∀ s1, s.Quiet → c.toNat % 32 = 0 → enqRead s c c 32 = .ok s1 →
      let ws := onWords s1 c 4
      let d : Word := (bits (ws.getD 0 0) 0 56).setWidth 64
      KvDescriptor s1 d → ChannelsSet s.bk (.kvstrm h f) → ix16 f.a ≠ ix16 f.b →
      (ws.getD 1 0).toNat < (ws.getD 2 0).toNat → bits (ws.getD 0 0) 56 8 = 0 → ws.getD 3 0 = 0 →
      enq (.kvstrm h f) (memRegion c.toNat 32 :: headRegions d) [])

/-- R294 to R317, R320, R321: each matrix instruction whose operands pass its enqueue checks becomes a job of the matrix
engine that reads and writes its tiles and operands; `mmask` also writes items 0x103 and 0x104. The checks on captured
formats and recorded shapes are those of R302, R307 and R312. -/
def Claims.MatrixEnqueues : Prop :=
  ∀ (s : State) (h : Head) (f : LayA), s.Quiet →
    let a := if f.ka then 0 else getReg s.bk f.a
    let b := if f.kb then 0 else getReg s.bk f.b
    let tile := getTile s.bk (mxT f)
    let t := tileRegion (mxT f)
    let enq (i : Instr) (reads writes : List Region) : Prop := EnqueuesJob i s .matrix h.dst reads writes
    JobReady s .matrix false →
    enq (.mzero h f) [] ((zeroTiles f).map tileRegion) ∧ enq (.mtest h f) [] [] ∧ enq (.mwait h f) [] [] ∧
    (itemValid 0x103 a = true → itemValid 0x104 b = true → enq (.mmask h f) [] [] ∧
      Completes (.mmask h f) s (fun u => u.bk.mat.mmsk = a ∧ u.bk.mat.mbmp = b)) ∧
    (a.toNat % 32 = 0 → 0 < mxN f → InTier0 s a (8 * mxN f) false true →
      enq (.mstat h f) [t] [memRegion a.toNat (8 * mxN f)]) ∧
    (∀ l, s.launchOf s.bk = some l → a.toNat < 16 → bit l.hdr.cormask a.toNat = true → a.toNat / 4 ≠ s.cur.val / 4 →
      tile.kind ≠ .attn → chainScaled tile = false → enq (.mpair h f) [t] (if mxROLE f then [] else [t])) ∧
    (∀ s1 ws, a.toNat % 32 = 0 → (mDesc ws).bad = false → (mDesc ws).ntab = 0 → 512 ≤ (mDesc ws).pitch →
      readDesc s a [] (fun d => [rangeBad s (d.span d.n 512).1 (d.span d.n 512).2 true false]) = .ok (s1, ws) →
      f.b = 0#6 → enq (.mld h f) [memRegion ((mDesc ws).span (mDesc ws).n 512).1 ((mDesc ws).span (mDesc ws).n 512).2] [t]) ∧
    (∀ s1 ws w, let d := mDesc ws
      let fp := rowBytes (mfxRaw s.bk 24) (fmtROW (mfxRaw s.bk 24))
      a.toNat % 32 = 0 → d.bad = false → d.ntab = 0 → fp ≤ d.pitch → f.b = 0#6 → mfxEntry s.bk 24 = .ok w →
      fmtFC w ≠ 5 → fmtFC w ≠ 9 → fmtROW w ≤ 128 →
      readDesc s a [] (fun d => [rangeBad s (d.span d.n fp).1 (d.span d.n fp).2 false true]) = .ok (s1, ws) →
      enq (.mdrain h f) [t] (memRegion (d.span d.n fp).1 (d.span d.n fp).2 :: (if mxFREE f then [t] else []))) ∧
    (∀ s1 ws w, let d := mDesc ws
      let n := mxN f
      let fp := rowBytes (mfxRaw s.bk 0) (fmtROW (mfxRaw s.bk 0))
      a.toNat % 32 = 0 → b.toNat % 4 = 0 → d.bad = false → fp ≤ d.pitch → mfxEntry s.bk 0 = .ok w →
      (fmtFC w ≠ 5 ∨ fmtRSC w = true) → (classG (fmtFC w)).isSome = true → readDesc s a [rangeBad s b.toNat (4 * n) true false] (fun d =>
        [rangeBad s (d.span d.ntab fp).1 (d.span d.ntab fp).2 true false]) = .ok (s1, ws) →
      enq (.mgath h f) [memRegion (d.span d.ntab fp).1 (d.span d.ntab fp).2, memRegion b.toNat (4 * n)] [])

/-- R294, R298, R299, R302, R307, R309, R311, R312: `mlatch`, `mmul` and `mattn` on an operand A that enqueue accepts become
jobs of the matrix engine; `mlatch` records the shape of its latch, an `mmul` the kind and the scales of its tile's chain,
and an `mattn` its kind. Each recorded shape must fit the operand, a latch none is recorded of skips the checks of its shape
(log entry 45), the rows a latch holds count with the format they were stored under (log entry 71), and no latched operand
carries scales (log entry 30). A chain that is not empty must be of the same kind, and for `mmul` of the same scales. -/
def Claims.ProductsEnqueue : Prop :=
  ∀ (s s1 : State) (h : Head) (f : LayA) (o : OpA) (fxs fxk fxv : Word), s.Quiet → JobReady s .matrix false →
    o.ill = false →
    let m := s.bk.mat
    let t := tileRegion (mxT f)
    let tile := getTile s.bk (mxT f)
    let nb := bandCount m.mash
    let enq (i : Instr) (reads writes : List Region) (P : Bank → Prop) : Prop :=
      EnqueuesJob i s .matrix h.dst reads writes ∧ Completes i s (fun u => P u.bk)
    let e := matEntry s (.mmul h f) h f
    let sx := streamEntry m f fxs
    let kk := latchEntry m.shapeS fxk
    let vv := latchEntry m.shapeV fxv
    (∀ w, mfxEntry s.bk (if mxARR f then 16 else 8) = .ok w →
      operandA s f false (mxVB f) (if mxARR f then e.fxv else e.fxk) (fun _ => []) = .ok (s1, o) →
      let red := if mxTR f then o.elems else o.n
      let cols := if mxTR f then o.n else o.elems
      red ≤ 32 * nb → cols ≤ 128 → fmtFC w ≠ 5 → (classG (fmtFC w)).isSome = true →
      enq (.mlatch h f) o.regions [] (fun b => ∃ sh, (if mxARR f then b.mat.shapeV else b.mat.shapeS) = some sh ∧
        sh.red = red ∧ sh.cols = cols ∧ sh.tr = mxTR f ∧ sh.fx = w)) ∧
    (mfxEntry s.bk 0 = .ok fxs → mfxEntry s.bk 8 = .ok fxk →
      (operandA s f (mxOL f) false e.fxs (fun _ => []) = .ok (s1, o) →
        let two := mxTWO f
        let sid : ScaleId := ⟨latchIdentity m.shapeS, fmtRSC sx, o.scale⟩
        (two = true → mfxEntry s.bk 16 = .ok fxv ∧ latchSpans m.shapeV = false ∧
          latchIdentity m.shapeV = latchIdentity m.shapeS) →
        (∀ x, m.shapeS = some x → x.tr = false ∧ x.red ≤ 32 * nb ∧ (two = false → o.elems = x.red) ∧
          (two = true → ∀ y, m.shapeV = some y → y.cols = x.cols ∧ y.red ≤ 32 * nb ∧ o.elems = x.red + y.red)) →
        mmulFormats fxs [fxk, if two then fxv else fxk] = true → mmulFormats sx [kk, if two then vv else kk] = true →
        latchSpans m.shapeS = false → tile.kind ≠ .attn →
        (tile.kind = .plain → tile.scaleId = some sid ∧ fmtRSC sx = false) →
        enq (.mmul h f) (o.regions ++ [t]) [t] (fun b =>
          (getTile b (mxT f)).kind = .plain ∧ (getTile b (mxT f)).scaleId = some sid)) ∧
      (let bmp := bit m.mmsk 2
       let span (n : Nat) : Nat × Nat := ((bits m.mbmp 0 28).toNat, 16 * n)
       let maps (n : Nat) : List (Option Nat) := if bmp then [rangeBad s (span n).1 (span n).2 true false] else []
       mfxEntry s.bk 16 = .ok fxv → operandA s f (mxOL f) false e.fxs maps = .ok (s1, o) →
        (∀ x, m.shapeS = some x → x.tr = true ∧ x.red ≤ 32 * nb ∧ o.elems = x.red) →
        (∀ y, m.shapeV = some y → y.red ≤ 32 * nb ∧ ∀ x, m.shapeS = some x → x.cols = y.red) →
        (∀ w ∈ [fxs, fxk, fxv, sx, kk, vv], fmtBND w = false ∧ fmtFC w ≠ 5 ∧ (classG (fmtFC w)).isSome = true) →
        classG (fmtFC fxs) = classG (fmtFC fxk) → classG (fmtFC sx) = classG (fmtFC kk) → tile.kind ≠ .plain →
        enq (.mattn h f) (o.regions ++ (if bmp then [memRegion (span o.n).1 (span o.n).2] else []) ++ [t]) [t]
          (fun b => (getTile b (mxT f)).kind = .attn)))

/-- R344 to R350, R358 to R371: each weight-stack instruction whose operands pass its enqueue checks becomes a job of the
stack engine; `fprog`, `ferase` and `fduty` only in supervisor mode. -/
def Obligations.StackEnqueues : Prop :=
  ∀ (s : State) (h : Head) (f : LayA), s.Quiet →
    let a := if f.ka then 0 else getReg s.bk f.a
    let b := if f.kb then 0 else getReg s.bk f.b
    let enq (i : Instr) (reads writes : List Region) : Prop := EnqueuesJob i s .stack h.dst reads writes
    (JobReady s .stack false →
      (b ≠ 0 → b.toNat < 65536 → enq (.fsync h f) [] [actRegion 0 (16 * stackSpan)] ∧
        (a.toNat % 32 = 0 → InTier0 s a (64 * (maskStacks b.toNat).length) false true →
          enq (.fstat h f) [] [memRegion a.toNat (64 * (maskStacks b.toNat).length)])) ∧
      (let m := (bits b 0 16).toNat
       let off := (bits b 16 19).toNat
       let n := (bits b 35 20).toNat
       let acts := [actRegion (lowStack m * stackSpan + off) (highStack m * stackSpan + off + n)]
       m ≠ 0 → bits b 55 9 = 0 → off % 32 = 0 → 32 ≤ n → n % 32 = 0 → off + n ≤ 524288 →
       ChannelsSet s.bk (.fact h f) →
       (f.ka = false → a.toNat % 32 = 0 → InTier0 s a n true false → enq (.fact h f) [memRegion a.toNat n] acts) ∧
       (f.ka = true → slotSpan (getChan s.bk f.a) n ≤ (getChan s.bk f.a).count →
         enq (.fact h f) [] acts)) ∧
      (∀ s1 ws, b.toNat % 64 = 0 → readSDesc s b [] = .ok (s1, ws) → (sDesc ws).splitPair = false → (sDesc ws).pmap = 0 →
        let d := sDesc ws
        let n := 4 * d.nout
        let reads := [actBound d] ++ (if d.omode = 2 then [scaleBound d] else [])
        (∀ i ∈ [Instr.fsa h f, .fsav h f], ChannelsSet s.bk i → f.ka = false → d.oacc = false → a.toNat % 32 = 0 → 0 < d.nout →
          InTier0 s a n false true → descIll i ws none = false → enq i reads [memRegion a.toNat n]) ∧
        (a.toNat % 32 = 0 → InTier0 s a 16416 false true → descIll (.fsense h f) ws none = false →
          enq (.fsense h f) [] [memRegion a.toNat 16416]) ∧
        (descIll (.fscal h f) ws none = false → enq (.fscal h f) [] [scaleBound d]) ∧
        (descIll (.frebuild h f) ws none = false → enq (.frebuild h f) [] []) ∧
        (a.toNat % 32 = 0 → InTier0 s a 32 false true → descIll (.fmap h f) ws none = false →
          enq (.fmap h f) [] [memRegion a.toNat 32]))) ∧
    (JobReady s .stack true →
      (let n := (bits b 20 5).toNat
       bits b 0 16 ≠ 0 → 1 ≤ n → n ≤ 16 → bits b 25 39 = 0 → enq (.fduty h f) [] []) ∧
      (∀ s1 ws, b.toNat % 64 = 0 → readSDesc s b [] = .ok (s1, ws) → (sDesc ws).splitPair = false →
        (a.toNat % 32 = 0 → InTier0 s a 16384 true false → descIll (.fprog h f) ws none = false →
          enq (.fprog h f) [memRegion a.toNat 16384] []) ∧
        (descIll (.ferase h f) ws none = false → enq (.ferase h f) [] [])))

/-- R378 to R397, R418, R419: each backfill or maintenance instruction whose operands pass its enqueue checks becomes a
job of that engine. `xconf` writes SEQ to its result register too, `bfwait` raises the launch's horizon to sA, and
`bfmode` sets its mode. -/
def Obligations.BackfillEnqueues : Prop :=
  ∀ (s : State) (h : Head) (f : LayA), s.Quiet → JobReady s .backfill false →
    let a := if f.ka then 0 else getReg s.bk f.a
    let b := if f.kb then 0 else getReg s.bk f.b
    let enq (i : Instr) (reads writes : List Region) : Prop := EnqueuesJob i s .backfill h.dst reads writes
    enq (.bfflush h f) [pendRegion] [] ∧ enq (.bfwait h f) [pendRegion] [] ∧
    (∀ i l, s.bk.slot = some i → s.launch i = some l →
      Completes (.bfwait h f) s (fun u => ∃ m, u.launch i = some m ∧ m.bf.hv = true ∧
        m.bf.hz.toNat = Nat.max l.bf.hz.toNat a.toNat) ∧
      (modeIll a = false → Completes (.bfmode h f) s (fun u => ∃ m, u.launch i = some m ∧
        (bits a 0 2 ≠ 0 → m.bf.mode = bits a 0 2) ∧ (bits a 0 2 = 0 → m.bf.mode = l.bf.mode) ∧
        m.bf.alim = if bit a 2 then (bits a 8 16).toNat else l.bf.alim))) ∧
    (modeIll a = false → enq (.bfmode h f) [] []) ∧
    (a.toNat % 32 = 0 → InTier0 s a 32 false true →
      enq (.bfq h f) [pendRegion] [memRegion a.toNat 32] ∧
      (let n := (bits b 16 21).toNat
       bits b 0 16 ≠ 0 → 1 ≤ n → n ≤ 1200000 → bits b 37 27 = 0 → enq (.bdghold h f) [] [memRegion a.toNat 32])) ∧
    (b ≠ 0 → b.toNat < 65536 → a.toNat % 32 = 0 → InTier0 s a (64 * (maskStacks b.toNat).length) false true →
      enq (.bdgq h f) [] [memRegion a.toNat (64 * (maskStacks b.toNat).length)]) ∧
    (∀ s1, a.toNat % 64 = 0 → InTier0 s a 64 true false → enqRead s a a 48 = .ok s1 → postIll (onWords s1 a 6) = false →
      enq (.bfpost h f) [] [pendRegion]) ∧
    (let n := 4 * xconfN b
     let seq : Word := ((s.core s.cur).seq + 1).setWidth 64
     a.toNat % 4 = 0 → InTier0 s a n true false → f.c ≠ 0#6 → f.c ≠ h.dst → bits b 46 18 = 0 →
     Completes (.xconf h f) s (fun t => JobJoins (.xconf h f) s t .backfill h.dst [memRegion a.toNat n] [] ∧
       ∀ r, getReg t.bk r = if r = f.c ∨ (r = h.dst ∧ r ≠ 0#6) then seq else getReg s.bk r))
/-! ## The vector engine (R212 to R245) -/

/-- R215, R219, R223, R233: what the vector engine writes for the integer and movement instructions: in every active
element of the captured shape the exact result narrowed to the element's width, by wrapping or saturation as FN says. -/
def Obligations.VectorIntegerResults : Prop :=
  ∀ (s : State) (k : Fin 16) (e : Entry) (rest : List Entry) (h : Head) (f : LayA), VectorRuns s k e rest →
    shpRows e.shp ≤ 16 → shpLN e.shp ≤ 64 →
    let b := s.active k
    let m := match maskOf e.i with
      | some r => getMReg b r.toNat
      | none => 0
    let x := getVReg b e.va
    let y := getVReg b e.vb
    let z := getVReg b e.vc
    let w := intWidth (cmT f)
    let fn := cmFN f
    let writes (i : Instr) (w : Nat) (me mz : Bool) (g : Nat → Nat → Nat) : Prop :=
      e.i = i → VectorWrites s k e rest (fun d => Elementwise e.shp w me mz m (getVReg b e.vd) d g)
    let lanes (i : Instr) (g : Nat → Nat → Int) : Prop :=
      writes i w (cmME f) (cmMZ f) (fun i j => patternOf w (g (elt x w i j) (elt y w i j)))
    let sat (op : Int → Int → Int) (a b : Nat) : Int :=
      if fn = 1 then clampSigned w (op (signedOf w a) (signedOf w b))
      else if fn = 2 then clampUnsigned w (op a b) else op a b
    let sh (b : Nat) : Nat := 2 ^ (b % w)
    let rel (a b : Nat) : Prop := match fn with
      | 0 => a = b
      | 1 => a ≠ b
      | 2 => signedOf w a < signedOf w b
      | 3 => signedOf w a ≤ signedOf w b
      | 4 => signedOf w a > signedOf w b
      | 5 => signedOf w a ≥ signedOf w b
      | 6 => a < b
      | 7 => a ≤ b
      | 8 => a > b
      | _ => a ≥ b
    lanes (.viadd h f) (sat (· + ·)) ∧ lanes (.visub h f) (sat (· - ·)) ∧
    lanes (.vimul h f) (fun a b => if fn = 1 then signedOf w a * signedOf w b / (2 ^ w : Nat)
      else if fn = 2 then a * b / 2 ^ w else a * b) ∧
    writes (.vimad h f) w (cmME f) (cmMZ f) (fun i j => (elt x w i j * elt y w i j + elt z w i j) % 2 ^ w) ∧
    lanes (.viand h f) (fun a b => (a &&& b : Nat)) ∧ lanes (.vior h f) (fun a b => (a ||| b : Nat)) ∧
    lanes (.vixor h f) (fun a b => (a ^^^ b : Nat)) ∧ lanes (.vishl h f) (fun a b => (a * sh b : Nat)) ∧
    lanes (.vishr h f) (fun a b => (a / sh b : Nat)) ∧ lanes (.visar h f) (fun a b => signedOf w a / (sh b : Nat)) ∧
    (fn ≤ 1 → lanes (.vimin h f) (fun a b => if fn = 0 then min (signedOf w a) (signedOf w b) else (min a b : Nat)) ∧
      lanes (.vimax h f) (fun a b => if fn = 0 then max (signedOf w a) (signedOf w b) else (max a b : Nat))) ∧
    (e.i = .vicmp h f → VectorWrites s k e rest (fun d => ∃ g, Elementwise e.shp w (cmME f) (cmMZ f) m (getVReg b e.vd) d g ∧
      ∀ i j, (rel (elt x w i j) (elt y w i j) → g i j = 2 ^ w - 1) ∧ (¬ rel (elt x w i j) (elt y w i j) → g i j = 0))) ∧
    writes (.vmov h f) 32 (cmME f) (cmMZ f) (fun i j => elt x 32 i j) ∧
    writes (.vsel h f) 32 false false (fun i j => if maskBit m i j then elt x 32 i j else elt y 32 i j) ∧
    writes (.vperm h f) w (cmME f) (cmMZ f) (fun i j => elt x w i (elt y w i j % eCount e.shp w)) ∧
    writes (.vtrans h f) w false false (fun i j => elt x w (j % 16) (16 * (j / 16) + i))

/-- R219, R222: for the floating-point arithmetic, minimum, maximum and square root the engine writes in each active element
what the model's own fAdd, fSub, fMul, fDiv, fMin, fMax, fFma and fSqrt give for the operands there; `vabs` and `vneg` clear
and flip the sign bit and leave VCTL as it was. -/
def Obligations.VectorFloatResults : Prop :=
  ∀ (s : State) (k : Fin 16) (e : Entry) (rest : List Entry) (h : Head) (f : LayA), VectorRuns s k e rest →
    shpRows e.shp ≤ 16 → shpLN e.shp ≤ 64 →
    let b := s.active k
    let m := match maskOf e.i with
      | some r => getMReg b r.toNat
      | none => 0
    let fc := fpType (cmT f)
    let w := fmtWidth fc
    let val (r : Nat) (i j : Nat) : Val := decodeVal fc (elt (getVReg b r) w i j)
    let writes (i : Instr) (g : Nat → Nat → Nat) : Prop :=
      e.i = i → VectorWrites s k e rest (fun d => Elementwise e.shp w (cmME f) (cmMZ f) m (getVReg b e.vd) d g)
    let two (i : Instr) (g : Val → Val → Nat × FFlags) : Prop := writes i (fun i j => (g (val e.va i j) (val e.vb i j)).1)
    let fma (i : Instr) (p c : Bool) : Prop :=
      writes i (fun i j => (fFma fc p c (val e.va i j) (val e.vb i j) (val e.vc i j)).1)
    let clean (t : State) : Prop := (t.active k).vec.vctl = b.vec.vctl
    two (.vadd h f) (fAdd fc) ∧ two (.vsub h f) (fSub fc) ∧ two (.vmul h f) (fMul fc) ∧ two (.vdiv h f) (fDiv fc) ∧
    two (.vmin h f) (fMin fc) ∧ two (.vmax h f) (fMax fc) ∧ fma (.vfma h f) false false ∧ fma (.vfms h f) false true ∧
    fma (.vfnma h f) true false ∧ writes (.vsqrt h f) (fun i j => (fSqrt fc (val e.va i j)).1) ∧
    writes (.vabs h f) (fun i j => elt (getVReg b e.va) w i j % 2 ^ (w - 1)) ∧
    writes (.vneg h f) (fun i j => (elt (getVReg b e.va) w i j + 2 ^ (w - 1)) % 2 ^ w) ∧
    (e.i = .vabs h f ∨ e.i = .vneg h f → Completes (.vectorEntryStart k) s clean)

/-- R243, R244, R151: a `vld` or `vst` through an invalid handle, with an active lane, is reported as HIV and held at the
head of the queue with no effect; the control core, in user mode with no load outstanding, then takes the held fault: SRC
001, FLTA the address, FLTI its own PC. -/
def Obligations.VectorFaults : Prop :=
  ∀ (s : State) (k : Fin 16) (e : Entry) (rest : List Entry) (h : Head) (f : LayB) (v : VFault),
    let b := s.active k
    (VectorRuns s k e rest → (e.i = .vld h f ∨ e.i = .vst h f) → mfH f = true → mfME f = false →
      0 < shpRows e.shp → 0 < shpLN e.shp → (getHandle b f.a).v = false →
      Completes (.vectorEntryStart k) s (fun t => SameBytes s t ∧
        t.active k = { b with vec := { b.vec with vfi := e.iaddr, vfa := 0, vfs := (t.active k).vec.vfs
                                                  fault := some ⟨.hiv, 0, 0, false⟩ } } ∧
        bits (t.active k).vec.vfs 0 8 = FaultCode.hiv.byte)) ∧
    (b.vec.fault = some v → b.mode = .user → b.loads = [] → b.stoppedAt = none → clStalled s k = false →
      Completes (.vectorFaultTaken k) s (fun t =>
        let c := t.active k
        SameBytes s t ∧ SameRegs b c ∧ c.mode = .supervisor ∧ c.pc = Config.supervisorEntry ∧ c.flti = b.pc ∧
        c.flta = v.addr ∧ bits c.fltc 0 8 = v.code.byte ∧ bits c.fltc 8 3 = 1#3 ∧ c.vec.fault = none ∧
        c.vec.queue = b.vec.queue))
/-! ## The life of a job (R8 to R17, R117 to R120, R252 to R264) -/

/-- R11, R8, R16, R152, R120: the head entry of an engine's queue is dispatched into a free executing place. A job whose
accesses are over in success writes its final token over the one its enqueue wrote and leaves the footprint table; once
its work item has ended, the job table alone keeps that token (R146). A job that stopped with a fault does the same with
FLT and its CODE, and every job that waits on it completes with that CODE. -/
def Obligations.JobLifecycle : Prop :=
  ∀ (s : State) (k : Fin 16) (seq : BitVec 16) (x : Bool) (j : Job),
    let b := s.bankAt k x
    (∀ e r, e ≠ .vector → e ≠ .matrix → (s.active k).slot.isSome = true → (s.active k).stoppedAt = none →
      queued (s.active k) e = j :: r → placesUsed s k e < places e →
      exec (.engineDispatch k e) s =
        .next (s.setActive k (setJobIn (s.active k) { j with phase := .dispatched, due := s.clk }))) ∧
    (s.findJob k seq = some (.bank x, j) → j.seq = seq → j.phase = .ended → j.due ≤ s.stamp → frecOf s b.slot = 0 →
      (∀ h f, j.e.i ≠ .xconf h f) → b.itemLive = true → j.item = b.item → j.dst ≠ 0#6 →
      getReg b j.dst = seq.setWidth 64 →
      let ends (i : Instr) (P : State → Prop) : Prop := Completes i s (fun t =>
        let c := t.bankAt k x
        let token := getReg c j.dst
        SameBytes s t ∧ (∀ r, r ≠ j.dst → getReg c r = getReg b r) ∧ tokenDone token = true ∧ tokenSeq token = seq ∧
        bits token 48 8 = j.code ∧ bit token 61 = j.psn ∧ bits token 16 32 = j.prog ∧
        (∀ i ∈ c.jobs, i.seq = seq → i.phase = .done) ∧ P t)
      (j.code = 0 → ends (.jobCompletion k seq) (fun t => bit (getReg (t.bankAt k x) j.dst) 62 = false)) ∧
      (j.code ≠ 0 → (∀ i ∈ b.jobs, i.edges.contains seq = false) →
        ends (.jobFault k seq) (fun t => bit (getReg (t.bankAt k x) j.dst) 62 = true))) ∧
    (s.findJob k seq = some (.bank x, j) → j.seq = seq → j.phase = .ended → j.code = 0 → j.due ≤ s.stamp →
      frecOf s b.slot = 0 → ¬(b.itemLive = true ∧ j.item = b.item) → Completes (.jobCompletion k seq) s (fun t =>
        SameBytes s t ∧ SameRegs b (t.bankAt k x) ∧
        ∀ i ∈ (t.bankAt k x).jobs, i.seq = seq → i.phase = .done ∧ ∃ d ∈ b.jobs, i = d ∨ i = doneJob s d)) ∧
    (s.findJob k seq = some (.bank x, j) → j.seq = seq → j.phase = .ended → j.code ≠ 0 → j.due ≤ s.stamp →
      Completes (.jobFault k seq) s (fun t => ∀ i ∈ b.jobs, i.inTable = true → i.phase = .queued →
        i.edges.contains seq = true → ∃ d ∈ (t.bankAt k x).jobs, d.seq = i.seq ∧ d.phase = .done ∧ d.code = j.code))

/-- R247, R252, R259: a dispatched `cfill` on a one-dimensional map that lies in one sector, with its edges complete and
its destination accessible, writes byte t mod w of its value at each traversal offset t, changes no other byte, and its
accesses are then over in success. -/
def Claims.FillWrites : Prop :=
  ∀ (s s1 : State) (k : Fin 16) (seq : BitVec 16) (x : Bool) (j : Job) (h : Head) (f : LayA) (d : List Word) (g : Target),
    let b := s.bankAt k x
    let m := toMap d
    s.Quiet → s.findJob k seq = some (.bank x, j) → j.phase = .dispatched → j.eng = .copy → j.code = 0 → edgesMet b j = true →
    j.e.i = .cfill h f → j.e.maps = [d] → j.e.xr = 0 → mapND d = 0 → m.n0 ≤ 32 → m.base % 32 + m.n0 ≤ 32 →
    engineTarget s (s.whoOf b.slot k true) m.base m.n0 false true = .ok (s1, g) →
    Completes (.jobStart k seq) s (fun t => SameBytesBut g.key m.n0 s1 t ∧
      (∀ i, i < m.n0 → t.byteAt (g.key + i) = bits j.e.xb (8 * (i % 2 ^ (bits f.m 0 2).toNat)) 8) ∧
      ∃ c, t.findJob k seq = some (.bank x, c) ∧ c.phase = .ended ∧ c.code = 0)

/-- R261, R262, R462: a started `cxs` whose path no earlier waiting send shares reserves it from the first cycle at which
all its links are free: its delivery is due 8 cycles, 2 a hop and one per 64 bytes after that, and its data has moved. A
push whose flush read got an error ends with SEGV at the peer's address, the peer's index in DETAIL; that PROG and
the address are those of its first unit is the model's reading (log entry 72). -/
def Claims.Transfers : Prop :=
  ∀ (s s1 : State) (k : Fin 16) (seq : BitVec 16) (loc : Loc) (b : Bank) (j : Job) (h : Head) (f : LayA) (psn : Bool),
    s.findJob k seq = some (loc, j) → s.locBank k loc = some b → j.phase = .running →
    (j.e.i = .cxs h f →
      let shape := cxsShape k.val j.e
      let start := j.result.toNat
      let free := Nat.max start (pathFree s shape.1)
      let arrives := free + 8 + 2 * shape.1.length + shape.2.1
      (∀ p ∈ cxsWaiting s, p.2.2 < start ∨ (p.2.2 = start ∧ p.1.val < k.val) →
        pathsShare shape.1 (cxsShape p.1.val p.2.1.e).1 = false) →
      shutIn s (j.reads ++ j.writes) = [] →
      runCxs (reservePath s shape.1 (free + shape.2.1)) k b.slot j.e = .ok s1 psn →
      exec (.cxsPathReserve k seq) s = .next (s1.setJob k loc
        { j with phase := .ended, due := (arrives + 1) / 2, psn := psn, result := BitVec.ofNat 64 free })) ∧
    (∀ u, j.e.i = .cpeer h f → bit f.m 0 = false → j.wait = none →
      exec (.peerTimeout k (seq, u)) s = .next (s.setJob k loc (faultJob j .segv
        (BitVec.ofInt 64 ((toMap (j.e.maps.getD 1 [])).addr (32 * firstUnit j.e.xr))) (copyDetail j.e 0 false)
        (firstUnit j.e.xr))))

/-! ## The matrix engine (R292, R303 to R305, R308, R317 to R324) -/

/-- R303, R304, R308, R317: the only entry of the matrix queue, with no latch left to release, starts on its own tick t
when nothing it waits for is missing then: an `mzero` resets the tiles its mask names and no other, and an `mwait` only
completes. A stamped entry whose wait has reason r at its tick takes SMISS with that reason in DETAIL. -/
def Obligations.MatrixStarts : Prop :=
  ∀ (s : State) (k : Fin 16) (j : Job) (t : Nat) (h : Head) (f : LayA),
    let b := s.active k
    let loc := s.activeLoc k
    b.slot.isSome = true → b.stoppedAt = none → clStalled s k = false → staleLatches b = [] → matWaiting b = [j] →
    shutIn s (j.reads ++ j.writes ++ ringRegions s k b loc j.e.i) = [] → j.phase = .queued → j.code = 0 → t < 2 ^ 64 → j.e.late = false → (entryLay j.e).ka = false → s.findJob k j.seq = some (loc, j) →
    (s.pow.stallUntil.get (clIsland k) ≤ t →
     ((effTick b j = none ∧ t = s.stamp ∧ edgesLate b j t = false ∧ engineBusy s k loc t = false ∧
        testRuns s k = false) ∨
      (effTick b j = some t ∧ t ≤ s.stamp ∧ waitReason s k loc b j t = 0)) →
     (j.e.i = .mwait h f ∨ j.e.i = .mzero h f) →
      Completes (.matrixEntryStart k) s (fun u => SameBytes s u ∧ (u.active k).ashp = j.e.mash ∧
        JobEnds u k loc j.seq (fun d => d.code = 0 ∧ t ≤ d.due) ∧
        ∀ i, i < 8 → if j.e.i = .mzero h f ∧ bit f.m i = true then
            (getTile (u.active k) i).elems = 0 ∧ (getTile (u.active k) i).poison = []
          else getTile (u.active k) i = getTile b i)) ∧
    (∀ r, effTick b j = some t → t ≤ s.stamp → waitReason s k loc b j t = r → r ≠ 0 → (∀ h f, j.e.i ≠ .mpair h f) →
      Completes (.matrixEntryStart k) s (fun u => SameBytes s u ∧
        JobEnds u k loc j.seq (fun d => d.code = FaultCode.smiss.byte ∧ d.detail = BitVec.ofNat 64 r)))

/-- R318, R319, R440, R472: an engine that is not stopped and whose head has no tick in the next 16 begins a self-test of the band whose turn it is; 16 ticks
later a mismatch fences the band and logs it as KIND 4 with the band's number in the core's array error log, a pass leaves
ADEF and the log as they were, and the turn goes on (the step that begins a test and the one that ends it are the model's,
log entry 54). -/
def Claims.SelfTests : Prop :=
  ∀ (s : State) (k : Fin 16) (b : Fin 4), clStalled s k = false →
    let old := s.svc.array.get k
    let tests (pass : Bool) (adef : BitVec 4) (P : Log → Prop) : Prop := Completes (.selfTest k b pass) s (fun t =>
      SameBytes s t ∧ P (t.svc.array.get k) ∧ (t.core k).adef = adef ∧ (t.core k).testBand.val = (b.val + 1) % 4 ∧ (t.core k).testing = none ∧
      ∀ i, i ≠ k → (t.core i).adef = (s.core i).adef)
    ((s.core k).testing = none → mayTest s k = true → nextTestBand s k = some b → ∀ pass,
      exec (.selfTest k b pass) s =
        .next (s.setCore k { s.core k with testing := some (b, s.stamp + 16) })) ∧
    (∀ t, (s.core k).testing = some (b, t) → t ≤ s.stamp →
      tests true (s.core k).adef (fun l => l = old) ∧
      tests false ((s.core k).adef ||| (1#4 <<< b.val)) (fun l => ∃ e, l = old.push 256 e ∧ (bits e 0 32).toNat = b.val ∧
        bits e 32 4 = 3#4 ∧ bits e 36 4 = 4#4 ∧ bits e 128 64 = ctxidOf s (s.active k).slot ∧
        bits e 192 64 = BitVec.ofNat 64 (s.clk / 2)))

/-- R321 to R323, R440: while the clocks run, a leader with its follower's header inside the window answers OK and starts to
merge, which is over 8n + 32 cycles after the last row's data has arrived, the rows following the header, which arrives 16
ticks after F at the latest (log entry 87), at 64 bytes a cycle; the merge adds the
follower's half to the leader's tile row by row; a follower ends with its verdict; a window that expires, with no header in
the leader's slot that met it, is SMISS with reason 5; and an ABORT ends a waiting member with PAB, the sender in DETAIL. -/
def Claims.Pairs : Prop :=
  ∀ (s : State) (k : Fin 16) (j : Job) (seq : BitVec 16),
    let b := s.active k
    let loc := s.activeLoc k
    let smiss (d : Job) : Prop := d.code = FaultCode.smiss.byte ∧ d.detail = 5
    let ends (i : Instr) (P : Job → Prop) : Prop := Completes i s (fun t => SameBytes s t ∧
      (t.active k).mat.pair = .idle ∧ JobEnds t k loc seq P)
    b.slot.isSome = true → b.stoppedAt = none → clStalled s k = false → s.findJob k seq = some (loc, j) → j.seq = seq →
    j.phase = .running → j.code = 0 →
    (∀ l h p i pl pb q g, b.mat.pair = .leaderWait seq l → b.mat.slot = some h → partnerOf b seq = some p → p ≠ k →
      h.follower = p.val → l ≤ h.f + 256 → h.f ≤ l + 256 → b.slot = some i → s.locOf p i = some pl →
      s.locBank p pl = some pb → pb.mat.pair = .followerWait q g → pairedWith pb k = true →
      Completes (.pairHeaderArrival k) s (fun t =>
        (let lastData := max s.stamp (min s.stamp (h.f + 16) + 4 * h.n)
         (t.active k).mat.pair = .merging seq (lastData + 4 * h.n + 16 + (b.mat.refill + 1) / 2)) ∧
        ∃ c, t.locBank p pl = some c ∧ c.mat.inbox = some .ok)) ∧
    (∀ due h, b.mat.pair = .merging seq due → b.mat.slot = some h → due ≤ s.stamp →
      b.jobs.find? (fun x => x.seq = seq && x.phase = .running) = some j → h.rows.length = h.n → h.poison = [] →
      h.n ≤ 128 →
      ends (.pairMerge k) (fun d => d.code = 0 ∧ d.due = due) ∧
      Completes (.pairMerge k) s (fun t =>
        let i := mxT (entryLay j.e)
        ∀ r c, r < 128 → c < 128 → tileElt (getTile (t.active k) i) r c =
          if r < Nat.min j.e.vd h.n then
            add32 (tileElt (getTile b i) r c) (h.rows.getD r 0 / 2 ^ (32 * c) % 2 ^ 32)
          else tileElt (getTile b i) r c)) ∧
    (∀ f, b.mat.pair = .followerWait seq f →
      (b.mat.inbox = some .ok →
        ends (.pairVerdict k) (fun d => d.code = 0 ∧ d.due = s.stamp + (b.mat.refill + 1) / 2)) ∧
      (b.mat.inbox = some .reject → ends (.pairVerdict k) smiss) ∧
      (b.mat.inbox = none → f + 288 ≤ s.stamp → ends (.pairWindowExpiry k) smiss) ∧
      (∀ p, b.mat.inbox = some (.abort p) →
        ends (.pairAbort k) (fun d => d.code = FaultCode.pab.byte ∧ d.detail = BitVec.ofNat 64 p))) ∧
    (∀ l p, b.mat.pair = .leaderWait seq l → l + 272 ≤ s.stamp → partnerOf b seq = some p →
      headerInTime b p l = false → (∀ i pl, b.slot = some i → s.locOf p i = some pl → ∃ x, pl = .bank x) →
      ends (.pairWindowExpiry k) smiss) ∧
    (∀ l p, b.mat.pair = .leaderWait seq l → b.mat.inbox = some (.abort p) →
      ends (.pairAbort k) (fun d => d.code = FaultCode.pab.byte ∧ d.detail = BitVec.ofNat 64 p))

/-! ## The weight stacks (R334, R338, R345 to R354, R364, R368 to R374) -/

/-- R368, R345, R371, R374: the oldest packet on its way reaches stack j: a `fact` writes its bytes at AOFF of the
activation SRAM, owned by its context from then on, and an `fduty` the duty setting; an injected CRC error makes the link
replay the packet first, and the sixteenth replay that fails marks the stack failed; that the first failure
(R475) is not yet a replay is the model's reading (log entry 73). -/
def Claims.StackArrival : Prop :=
  ∀ (s : State) (j : Fin 16) (c : StackCmd) (h : Head) (f : LayA),
    let w := s.stack j
    let v := c.dw.headD 0
    (plStalled s j = false → oldestCmd (w.cmds.filter (fun x => !x.arrived && !x.isOver && x.arrive ≤ s.stamp)) = some c →
     (s.Quiet → OwnerResident s c →
      (c.i = .fduty h f → Completes (.stackCommandArrival j) s (fun t => SameBytes s t ∧
        (t.stack j).dutyK = (bits v 16 4).toNat ∧ (t.stack j).dutyN = (bits v 20 5).toNat ∧ (t.stack j).linkFails = 0)) ∧
      (c.i = .fact h f →
        let bs := (unpackWords (c.dw.drop 1)).take (bits v 35 20).toNat
        let o := (bits v 16 19).toNat
        0 < bs.length → Completes (.stackCommandArrival j) s (fun t => SameBytes s t ∧
          (∀ a, memRead (t.stack j).act a =
            if o ≤ a ∧ a < o + bs.length then bs.getD (a - o) 0 else memRead w.act a) ∧
          ∀ x, o / 4096 ≤ x → x ≤ (o + bs.length - 1) / 4096 → amapGet (t.stack j).actOwner x = some c.ctx))) ∧
     (∀ i x r, w.linkFails < 16 → armedSlots s 7 (fun x => (bits x.target 0 4).toNat = j.val) = (i, x) :: r →
      Completes (.stackCommandArrival j) s (fun t => (t.stack j).cmds = w.cmds ∧
        (t.stack j).linkFails = w.linkFails + 1))) ∧
    exec (.flitReplay j true) s = .next (s.setStack j { w with linkFails := 0 }) ∧
    (w.linkFails < 16 →
      exec (.flitReplay j false) s = .next (s.setStack j { w with linkFails := Nat.max 1 w.linkFails + 1 })) ∧
    (16 ≤ w.linkFails → failedReason w = none → Completes (.flitReplay j false) s (fun t => (t.stack j).mode = .failed 1))

/-- R351, R368 to R370, R373, R404: while the stack's clocks run and the module is not parked, a free pair takes the command
the arbiter picks and begins to sense its next pages, charging the allowance; when a read is due its pages go on to decode,
or, in a soft-decision sense, to the next of its four reads, 8,400 ticks later. -/
def Obligations.StackSenses : Prop :=
  ∀ (s : State) (j : Fin 16) (die : Fin 8) (q : Fin 64) (c : StackCmd) (p : PlaneWork) (r : List PlaneWork) (e : MapEntry),
    let w := s.stack j
    (pairFree s w die.val q.val = true → dutyAllows s w die.val q.val = true → badgerGoes s w die.val q.val = false →
      plStalled s j = false → s.svc.parked = false → askFirst s w die.val q.val = none → arbiterPick s w die.val q.val = some c →
      c.place = none → (jobBegun s j c = true ∨ computeBar w c = none) → (∀ h f, c.i ≠ .fprog h f ∧ c.i ≠ .ferase h f) →
      c ∈ w.cmds → nextPages c die.val q.val = p :: r → mapOf w (pairKey die.val q.val) p.lp = some e →
      e.moving = false → levelOf w (pairKey die.val q.val) (p.lp / 48) ≠ 3 → allowanceFits s w 2 = true →
      Completes (.pairArbitration j die q) s (fun t => SameBytes s t ∧ (t.stack j).used = w.used + 2 ∧
        ∃ d ∈ (t.stack j).cmds, d.id = c.id ∧ ∀ x ∈ d.planes, x.die = die.val → x.plane / 2 = q.val → x.lp = p.lp →
          x.step ≠ .waiting)) ∧
    Completes (.senseComplete j die q) s (fun t => SameBytes s t ∧
      ∀ d ∈ w.cmds, (∀ h f, d.i ≠ .fprog h f ∧ d.i ≠ .ferase h f) →
        let goesOn (x : PlaneWork) : PlaneWork :=
          if x.die = die.val ∧ x.plane / 2 = q.val ∧ x.due ≤ s.stamp then
            match x.step with
            | .sensing => { x with step := .sensed }
            | .softRead n => { x with step := if n < 3 then .softRead (n + 1) else .sensing, due := x.due + 8400 }
            | _ => x
          else x
        { d with planes := d.planes.map goesOn } ∈ (t.stack j).cmds)

/-- R351, R352, R354, R356: a sensed page whose tag agrees and whose codewords have no error is decoded as it is stored, 1,152
ticks after its sense; a re-read without errors, 8,400 ticks and its own decode (log entry 68), supplies every failed
codeword, marks it recovered and logs it as KIND 2 in the stack's flash error log, with the re-reads used and the tick of the
decode. -/
def Claims.StackDecodes : Prop :=
  ∀ (s : State) (j : Fin 16) (die : Fin 8) (pl : Fin 128) (c : StackCmd) (p : PlaneWork) (g : FlashPage) (t : PageTag),
    let w := s.stack j
    let decoded (i : Instr) (P : PlaneWork → Prop) : Prop := Completes i s (fun u => SameBytes s u ∧
      ∃ d ∈ (u.stack j).cmds, d.id = c.id ∧ ∃ x ∈ d.planes, x.die = die.val ∧ x.plane = pl.val ∧ x.lp = p.lp ∧
        x.step = .decoded ∧ x.bad = 0 ∧ P x)
    s.Quiet → plStalled s j = false → amapGet w.pages (pageKey p.die p.plane p.ppage) = some g → (∀ k, k < 8 → cwErrors g.raw k = some []) →
    (findPage w die.val pl.val (fun x => x = .sensed) = some (c, p) → p.soft = false → tagOf g.raw = (t, true) →
      t.lp = p.lp → t.ext = g.ext → t.kind = g.kind →
      decoded (.pageDecode j die pl []) (fun x => x.page = g.raw ∧ x.due = afterStall s j p.due + 1152)) ∧
    (∀ n, findPage w die.val pl.val (fun x => match x with
        | .reread _ => true
        | _ => false) = some (c, p) → p.step = .reread n → p.due ≤ s.stamp → allowanceFits s w 1 = true →
      w.mode = .ready → dutyAllows s w p.die (p.plane / 2) = true →
      decoded (.softReread j die pl []) (fun x => x.recovered = p.recovered ||| p.bad ∧ x.due = s.stamp + 9552) ∧
      Completes (.softReread j die pl []) s (fun u =>
        let failed := (List.range 8).filter (fun k => bit p.bad k)
        (u.stack j).rrec = w.rrec + failed.length ∧
        ∃ entry : Nat → BitVec 256,
          u.svc.flash.get j = failed.foldl (fun l k => l.push 1024 (entry k)) (s.svc.flash.get j) ∧
          ∀ k ∈ failed, (bits (entry k) 0 18).toNat = p.lp % 2 ^ 18 ∧ (bits (entry k) 51 3).toNat = k ∧
            bits (entry k) 54 4 = 2#4 ∧ (bits (entry k) 71 2).toNat = n % 4 ∧ bits (entry k) 128 64 = c.ctx ∧
            bits (entry k) 192 64 = BitVec.ofNat 64 (s.stamp + 9552)))

/-- R334, R346, R351, R364: the unit of a pair, once it is free, works the one decoded page of the one command in the
stack, 256 ticks a vector; a group is reduced 32 ticks after its last page; and an `fsync` whose context's earlier commands have all completed makes the
pages of open word lines readable and ends. -/
def Claims.StackWorks : Prop :=
  ∀ (s : State) (j : Fin 16) (die : Fin 8) (q : Fin 64) (c : StackCmd) (p : PlaneWork) (gi : Nat) (h : Head) (f : LayA),
    let w := s.stack j
    let last := afterStall s j ((groupPages c gi).foldl (fun m p => Nat.max m p.due) 0)
    let free := (amapGet w.sau (pairKey die.val q.val)).getD 0
    plStalled s j = false → w.cmds = [c] → c.isOver = false →
    (c.computes = true → c.onPair die.val q.val = [p] → p.step = .decoded → p.due ≤ s.stamp →
      free ≤ s.stamp → Completes (.macPass j die q) s (fun t => SameBytes s t ∧ ∃ d, (t.stack j).cmds = [d] ∧ ∀ x ∈ d.onPair die.val q.val,
        x.step = .done ∧ x.due = afterStall s j (Nat.max p.due free) + 256 * (c.ownVecs + c.attached.length))) ∧
    (s.Quiet → c.computes = true → computeBar w c = none → c.stop = none → gi < c.desc.ng → c.groups.contains gi = false →
      (∀ x ∈ groupPages c gi, x.step = .done) → last + 32 ≤ s.stamp →
      Completes (.groupReduction j c.id gi) s (fun t => SameBytes s t ∧ ∃ d, (t.stack j).cmds = [d] ∧
        d.groups = c.groups ++ [gi] ∧ d.due = Nat.max c.due (last + 32))) ∧
    (∀ k x seq, s.Quiet → Resident s k seq → c.owner = .job k x seq → c.i = .fsync h f → c.arrived = true →
      c.due ≤ s.stamp →
      Completes (.stackOutput j c.id) s (fun t => SameBytes s t ∧ (∀ d ∈ (t.stack j).cmds, d.id = c.id → d.isOver = true) ∧
        ∀ m ∈ (t.stack j).map, m.2.readable = m.2.programmed))

/-- R371, R372, R374: a failed link or die marks the stack failed with reason 1 or 3, and so does a trip that has lasted
10 s with reason 2; at 115 °C a ready stack trips, at 100 °C or below it is ready again; duty cycling starts above 85 °C
and stops at 83 °C; a pair's idle slots end at their tick. -/
def Claims.StackHealth : Prop :=
  ∀ (s : State) (j : Fin 16) (die : Fin 8) (q : Fin 64),
    let w := s.stack j
    let mode (i : Instr) (m : StackMode) : Prop := Completes i s (fun t => (t.stack j).mode = m)
    (failedReason w = none → mode (.stackLinkFailure j) (.failed 1) ∧ mode (.dieNotResponding j die) (.failed 3)) ∧
    (∀ t, w.mode = .tripped t → t + 6000000000 ≤ s.stamp → mode (.stackTripPersisted j) (.failed 2)) ∧
    (w.mode = .ready → 115 ≤ w.temp → mode (.stackTrip j) (.tripped s.stamp)) ∧
    (∀ t, w.mode = .tripped t → w.temp ≤ 100 → exec (.stackTripClear j) s = .next (s.setStack j { w with mode := .ready })) ∧
    (85 < w.temp → exec (.dutyCyclingStart j) s = .next (s.setStack j { w with cycling := true })) ∧
    (w.temp ≤ 83 → exec (.dutyCyclingStop j) s = .next (s.setStack j { w with cycling := false, duty := [] })) ∧
    (∀ d, amapGet w.duty (pairKey die.val q.val) = some d → d.idleUntil ≠ 0 → d.idleUntil ≤ s.stamp →
      exec (.idleSlotsEnd j die q) s =
        .next (s.setStack j { w with duty := amapSet w.duty (pairKey die.val q.val) none }))

/-! ## Streams and the backfill engine (R283 to R286, R289, R390 to R400) -/

/-- R285, R289, R399: a running stream whose slot's rows can be filled advances both its rings by one slot and, short of
P1, goes on with the next slot and the pages it needs; a stream that waits on a PENDING slot fetches its header again 256 cycles after the last
fetch; 60,000 ticks into a wait it asks whether the slot is covered, waits on when it is, and stops with SEGV reason 12
when one more fetch still shows PENDING. -/
def Obligations.Streams : Prop :=
  ∀ (s : State) (k : Fin 16) (seq : BitVec 16) (x : Bool) (j : Job) (st : Stream) (h : Head) (f : LayA),
    let b := s.bankAt k x
    let loc := Loc.bank x
    let w := s.whoOf b.slot k false
    shutIn s (j.reads ++ j.writes ++ ringRegions s k b loc j.e.i) = [] → s.findJob k seq = some (loc, j) → j.phase = .running → j.stream = some st → j.e.i = .kvstrm h f → f.ka = true →
    f.kb = true → ix16 f.a ≠ ix16 f.b →
    (∀ ca cb y z, ca = getChan b f.a → cb = getChan b f.b → ca.set = true → ca.view = false → cb.set = true →
      cb.view = false → chanReady ca true (if st.first then Nat.max (schWA h) 1 else 1) = true →
      chanReady cb true (if st.first then Nat.max (schWB h) 1 else 1) = true →
      fillRows w (bfOf s b.slot) ⟨ca, cb⟩ s.stamp s.clk (st.g + 1) ⟨s, { st with first := false }⟩ = .ok true y →
      writeBitmaps w ⟨ca, cb⟩ y = .ok () z → z.s.bankAt k x = b → z.s.findJob k seq = s.findJob k seq →
      z.st.p0 + z.st.g * (z.st.m + 1) < z.st.p1 →
      (∀ s1 p u, advanceRings z.s k loc f = .ok s1 → kvHold w z.st.next.pos ⟨s1, z.st.next⟩ = .ok p u →
        u.s.bankAt k x = s1.bankAt k x → u.s.findJob k seq = s.findJob k seq →
        Completes (.streamSlotFill k seq) s (fun t => SameBytes u.s t ∧
          getChan (t.bankAt k x) f.a = { ca with head := (ca.head + 1) % ca.count, filled := ca.filled + 1 } ∧
          getChan (t.bankAt k x) f.b = { cb with head := (cb.head + 1) % cb.count, filled := cb.filled + 1 } ∧
          t.findJob k seq = some (loc, { j with stream := some u.st })))) ∧
    (∀ q t0, st.here = some q → st.waitSince = some t0 →
      (∀ y, st.lastFetch + 256 ≤ s.clk → refetch w q ⟨s, { st with lastFetch := s.clk }⟩ = .ok () y →
        exec (.pendingRefetch k seq) s = .next (y.s.setJob k loc { j with stream := some y.st })) ∧
      (t0 + 60000 ≤ s.stamp → slotCovered s st.desc st.pos = true →
        exec (.coverageQuery k seq) s =
          .next (s.setJob k loc { j with stream := some { st with waitSince := some (t0 + 60000) } })) ∧
      (∀ y q', t0 + 60000 ≤ s.stamp → slotCovered s st.desc st.pos = false → refetch w q ⟨s, st⟩ = .ok () y →
        y.st.here = some q' → stateOf q'.states (st.pos % st.nslot) = 1 → y.s.findJob k seq = s.findJob k seq →
        Completes (.coverageQuery k seq) s (fun t => JobEnds t k loc seq (fun d =>
          d.code = FaultCode.segv.byte ∧ bits d.detail 56 8 = 12 ∧ d.stream = none))))

/-- R390 to R394: a record that wants stack j, and has no slot there, has its hidden state loaded into the first free
one; a sense for a due part goes to every stack of its mask; a layer all of whose parts are sensed has its rows formed;
and a slot write that succeeds makes the layer final, one that finds the slot no longer PENDING drops it; with its last
layer the record goes. -/
def Obligations.BackfillRecords : Prop :=
  ∀ (s s1 : State) (j i slot : Fin 16) (r : ExitRec) (l : BfLayer) (n layer : Nat) (q : ReadRes),
    let layerIs (t : State) (P : BfLayer → Prop) : Prop :=
      ∃ d ∈ t.bf.recs, d.id = n ∧ ∃ x ∈ d.layers, x.layer = layer ∧ P x
    (plStalled s j = false → shutIn s [memRegion r.hid r.hlen] = [] → recById s n = some r → freeSlot (s.stack j) = some i → wantsStack r j = true → vectorSlot (s.stack j) n = none →
      engineRead s (s.whoOf (some r.slot) 0 false) r.hid r.hlen = .ok (s1, q) →
      Completes (.backfillVectorLoad n j) s (fun t => SameBytes s1 t ∧
        (t.stack j).bfBuf.get i = some ⟨n, r.ctx, q.bytes, wordMarks 0 q.marks⟩)) ∧
    (∀ x dw, s.launch slot = some x → duePart s x (ctxidOf s (some slot)) = some dw →
      (∀ y ∈ maskStacks (sDesc dw).smask, failedReason (s.stack y) = none) →
      Completes (.backfillAgeLimit slot) s (fun t => SameBytes s t ∧ ∀ y ∈ maskStacks (sDesc dw).smask,
        ∃ c ∈ (t.stack y).cmds, c.owner = .standalone ∧ c.dw = dw ∧ c.cls = .backfill)) ∧
    (recById s n = some r → r.layers.find? (fun x => x.layer = layer) = some l → l.open_ = true →
      (l.rows = none → (∀ p ∈ l.ks ++ l.vs, p.sensed = true) → l.rope = 0 →
        Completes (.backfillRowForm n layer) s (fun t => SameBytes s t ∧ layerIs t (fun x => x.rows.isSome = true))) ∧
      (∀ rows y, l.rows = some rows →
        (slotWrite (s.whoOf (some r.slot) 0 false) r l rows ⟨s, Stream.none⟩ = .ok true y → y.s.bf = s.bf →
          Completes (.backfillSlotWrite n layer) s (fun t => SameBytes y.s t ∧
            (layerIs t (fun x => x.final = true) ∨ recById t n = none))) ∧
        (slotWrite (s.whoOf (some r.slot) 0 false) r l rows ⟨s, Stream.none⟩ = .ok false y → y.s.bf = s.bf →
          Completes (.backfillSlotWrite n layer) s (fun t => SameBytes y.s t ∧
            (layerIs t (fun x => x.dropped = true) ∨ recById t n = none)))))

/-! ## Badger (R402 to R422) -/

/-- R406 to R408, R414 to R417: Badger takes a free pair for its best relocation when no command waits for it, holds the
pair for the step and charges the allowance; a read step whose pages decode goes on to its program, a program step that
ends well to the next read or, after the last word line, to the read-back; a word line read back passes when every
codeword has at most 8 corrected bits; and the switch sets MOVING, waits for the senses begun on the old location, and
renews the map entry 600 ticks later. -/
def Obligations.Relocations : Prop :=
  ∀ (s : State) (j : Fin 16) (die : Fin 8) (q : Fin 64) (r : Reloc) (blk sb : Nat),
    let w := s.stack j
    let pk := pairKey die.val q.val
    let held := (amapGet w.held pk).getD 0
    (s.svc.parked = false → plStalled s j = false → starved w die.val q.val = [] →
      bestReloc s w die.val q.val = some r → r.dst = some (blk, sb) → r.step = .toProgram →
      pairFree s w die.val q.val = true → allowanceFits s w 6 = true → dutyAllows s w die.val q.val = true →
      othersWait w die.val q.val = false → olderWaits w die.val q.val r.since = false →
      outranked s w (relocRank r.cause) (olderThan w r) = false →
      Completes (.badgerStep j die q) s (fun t => SameBytes s t ∧ (t.stack j).used = w.used + 6 ∧
        amapGet (t.stack j).held pk = some (s.stamp + 360000) ∧
        { r with step := .programming } ∈ (t.stack j).relocs)) ∧
    (∀ cid l, relocIn w die.val q.val RelocStep.awaitsPages = some r → pagesRead w cid = some l →
      (∀ p ∈ l, p.bad = 0) →
      (r.step = .reading cid → r.rebuilt = [] →
        Completes (.relocationReadStep j die q r.wl) s (fun t => SameBytes s t ∧
          { r with step := .toProgram, buf := l.map (fun p => copyOf w r p none), asks := [], due := lastDecode l
                   since := lastDecode l } ∈ (t.stack j).relocs)) ∧
      (r.step = .verifying cid → (∀ p ∈ l, ∀ n ∈ p.corrected, n ≤ 8) →
        Completes (.relocationReadStep j die q r.wl) s (fun t => SameBytes s t ∧
          { r with wl := r.wl + 1, since := s.stamp
                   step := if lastWl r.lsb r.wl then .toSwitch else .toVerify } ∈
            (t.stack j).relocs))) ∧
    (relocIn w die.val q.val (fun x => x = .programming) = some r → r.dst = some (blk, sb) → held ≤ s.stamp →
      Completes (.relocationProgramStep j die q true) s (fun t => SameBytes s t ∧
        { r with wl := if lastWl r.lsb r.wl then 0 else r.wl + 1, wrote := r.wrote ++ r.buf, buf := [], since := s.stamp
                 step := if lastWl r.lsb r.wl then .toVerify else .toRead } ∈ (t.stack j).relocs)) ∧
    (∀ t0 e, relocIn w die.val q.val RelocStep.isSwitch = some r → r.dst = some (blk, sb) → (lsbKey pk r.lsb, e) ∈ w.map →
      (r.step = .toSwitch → Completes (.mapSwitch j die q) s (fun t => SameBytes s t ∧
        (lsbKey pk r.lsb, { e with moving := true }) ∈ (t.stack j).map ∧
        { r with step := .moving } ∈ (t.stack j).relocs)) ∧
      (r.step = .moving → sensingOld w r = false → Completes (.mapSwitch j die q) s (fun t => SameBytes s t ∧
        (t.stack j).map = w.map ∧ { r with step := .switching s.stamp } ∈ (t.stack j).relocs)) ∧
      (r.step = .switching t0 → t0 + 600 ≤ s.stamp → (∀ c, r.cause ≠ .rebuild c) →
        Completes (.mapSwitch j die q) s (fun t => SameBytes s t ∧ (t.stack j).relocDone = w.relocDone + 1 ∧
          (lsbKey pk r.lsb, { e with pblk := blk, psb := sb, moving := false }) ∈ (t.stack j).map)))

/-- R402, R410, R416, R422: with fewer than 48 free sub-block pairs a pair whose best block pair maps nothing queues for
its erase; it is erased when the pair is free and no pair that waits longer can go; an erase that ends well leaves the list
of erases, adds a program/erase cycle and leaves the disturb counters of the block pair's 24 sub-block pairs at 0; a budget
window begins with every die's budget whole; a hold ends at T1. -/
def Claims.Upkeep : Prop :=
  ∀ (s : State) (j : Fin 16) (die : Fin 8) (q : Fin 64) (blk : Fin 256) (b : Nat),
    let w := s.stack j
    let pk := pairKey die.val q.val
    (poolSize w pk < 48 → w.mode = .ready → compactBlock w pk = some b → mappedIn w pk b = [] → s.svc.parked = false →
      plStalled s j = false → ((compacting s).filter (fun x => x != j)).length < 4 →
      (w.eraseQ.contains pk = false →
        exec (.compaction j die q) s = .next (s.setStack j { w with eraseQ := w.eraseQ ++ [pk] })) ∧
      (w.eraseQ.contains pk = true → erasesBefore s w pk = [] →
        pairFree s w die.val q.val = true → dutyAllows s w die.val q.val = true → othersWait w die.val q.val = false →
        olderWaits w die.val q.val s.stamp = false → allowanceFits s w 12 = true →
        inHold s w = false → outranked s w 6 [] = false →
        exec (.compaction j die q) s = .next (s.setStack j { w with
          erasing := w.erasing ++ [(pk, b)], used := w.used + 12
          eraseQ := w.eraseQ.filter (fun x => x != pk)
          held := amapSet w.held pk (some (s.stamp + 1800000)) }))) ∧
    (w.erasing.contains (pk, blk.val) = true → (amapGet w.held pk).getD 0 ≤ s.stamp → pecOf w pk blk.val < 2999 →
      (∀ c ∈ w.cmds, OwnerResident s c) →
      Completes (.blockErase j die q blk true) s (fun t => SameBytes s t ∧
        (t.stack j).erasing = w.erasing.filter (fun x => x != (pk, blk.val)) ∧
        pecOf (t.stack j) pk blk.val = pecOf w pk blk.val + 1 ∧
        ∀ sb, sb < 24 → distOf (t.stack j) pk blk.val sb = 0)) ∧
    (s.pow.budgetWin < s.stamp / 60000000 →
      Completes .badgerBudgetWindow s (fun t => SameBytes s t ∧ t.pow.budgetWin = s.stamp / 60000000 ∧
        ∀ x : Fin 16, (t.stack x).budget = Vector.replicate 8 0 ∧ (t.stack x).cmds = (s.stack x).cmds)) ∧
    (∀ h, w.hold = some h → h.t1 ≤ s.stamp → exec (.holdEnd j) s = .next (s.setStack j { w with hold := none }))

/-- R366, R412: the program of a mapped sub-block's next page that ends well makes that page programmed; an extent 30 days
past its last sense is queued for scrub, and the scrub of an idle stack takes the oldest queued extent when no other stack
scrubs. -/
def Claims.ProgramsAndScrubs : Prop :=
  ∀ (s : State) (j : Fin 16) (c : StackCmd) (e : MapEntry) (h : Head) (f : LayA) (x : Extent) (l : List (BitVec 32)),
    let w := s.stack j
    let pk := pairKey c.desc.die (c.desc.planes.headD 0 / 2)
    (w.cmds.find? (fun d => d.id = c.id) = some c → c.i = .fprog h f → c.isOver = false →
      (∃ p ∈ c.planes, p.step = .sensed) → mapOf w pk c.desc.lp = some e → e.programmed = c.desc.lp % 48 →
      isRetired w pk e.pblk = false → OwnerResident s c →
      Completes (.pageProgram j c.id true true) s (fun t => SameBytes s t ∧
        ∃ d, mapOf (t.stack j) pk c.desc.lp = some d ∧ d.programmed = e.programmed + 1 ∧ d.pblk = e.pblk ∧
          d.psb = e.psb)) ∧
    (x ∈ w.extents → x.lastSeen + 2592000 ≤ wallClock s →
      Completes (.scrubDue x.ext) s (fun t => SameBytes s t ∧ x.ext ∈ (t.stack j).scrubQ)) ∧
    (s.svc.parked = false → plStalled s j = false → (∀ i, (s.stack i).scrub = none) → w.scrubQ = x.ext :: l →
      w.extents.find? (fun y => y.ext = x.ext) = some x →
      exec (.scrubSense j x.ext) s =
        .next (s.setStack j { w with scrubQ := l, scrub := some ⟨x.ext, extentPages x j, [], none, false⟩ }))

/-! ## Launches, contexts and the scheduler (R18 to R20, R23, R105, R123, R126, R129 to R158, R452 to R456) -/

/-- R131, R452, R453, R130, R132: a doorbell that BAR2 accepts captures the submission and sets BUSY. Once its time is
over it is answered, with a free slot by the next token in SUBRES and a SUBMITTED launch there, without one by NOSLOT. A
submitted launch with a header at no 64-byte boundary ends with status 1, one that passes every check waits. -/
def Claims.Submissions : Prop :=
  ∀ (s : State) (i : Fin 16) (m : Submission) (l : Launch) (segs : List Seg) (root : Nat),
    let h := s.host
    let hdr := hdrOf (hdrWords s l.hdrPA)
    (doorbellOpen s = true → bit h.subres 63 = false →
      exec (.doorbell 1) s = .next { s with host := { h with
        subres := h.subres ||| 0x8000000000000000#64
        captured := some ⟨h.subhdr, h.subsave, h.subovr, h.suben, s.stamp⟩ } }) ∧
    (h.captured = some m → m.at_ + 1200 ≤ s.stamp →
      (freeLaunchSlot s = some i → Completes (.launchDecision i) s (fun t => SameBytes s t ∧ t.host.captured = none ∧
        t.host.subres = s.ls.nextLseq.setWidth 64 ∧ ∃ x, t.launch i = some x ∧ x.lseq = s.ls.nextLseq ∧
          x.hdrPA = m.hdr.toNat ∧ x.state = .submitted)) ∧
      (freeLaunchSlot s = none → Completes (.launchDecision i) s (fun t => SameBytes s t ∧ t.host.captured = none ∧
        t.host.subres = 0x400000000#64 ∧ ∃ r, t.ls.records = s.ls.records ++ [r] ∧ r.lseq = 0 ∧ r.status = 4))) ∧
    (h.captured = none → s.launch i = some l → l.state = .submitted → l.finishing = none →
      (l.hdrPA % 64 ≠ 0 → Completes (.launchDecision i) s (fun t => SameBytes s t ∧
        t.launch i = some { l with state := .ended } ∧
        ∃ r, t.ls.records = s.ls.records ++ [r] ∧ r.lseq = l.lseq ∧ r.status = 1 ∧ r.final = true)) ∧
      (l.hdrPA % 64 = 0 → tier1Ok l.hdrPA 128 = true → saveOk s i l = true → hdrOk (hdrWords s l.hdrPA) = true →
        readSegs s hdr.segt = some (segs, root) → hdrSegsOk hdr segs = true → hdr.aft0 = 0 → hdr.aft1 = 0 → l.ovr = 0 →
        l.energySet = false →
        Completes (.launchDecision i) s (fun t => SameBytes s t ∧ ∃ x, t.launch i = some x ∧ x.state = .waiting ∧
          x.hdr = hdr ∧ x.segs = segs ∧ x.root = root ∧ x.prio = hdr.prio ∧ x.eff = hdr.prio ∧
          x.share = hdr.share ∧ x.energy = hdr.energy)))

/-- R123, R135, R138 to R142: an evaluation with one eligible launch, its cores' banks free, admits it and lets it run in
phase 0. A context whose cores are all ready resumes on them together, BRS moved on by the time it was stopped; a core
whose active context may not run and whose other one may, switches. Each 10 ms of waiting lowers the effective priority by
one, and 10 ms of running return it to PRIO. -/
def Obligations.Scheduling : Prop :=
  ∀ (s : State) (i k : Fin 16) (l : Launch), s.launch i = some l →
    (schedulerOn s = true → l.state = .waiting → l.finishing = none → l.hold = .none → eligible s l = true →
      (∀ m, m ≠ i → s.launch m = none) →
      (∀ c ∈ usedCores l, (s.bankAt c false).slot = none ∧ (s.bankAt c true).slot = none) →
      Completes .schedulerEvaluation s (fun t => SameBytes s t ∧ ∃ x, t.launch i = some x ∧ x.state = .running ∧
        x.phase = 0 ∧ x.since = s.stamp ∧ ∀ c ∈ usedCores l, (t.bankAt c false).slot = some i ∧
          (t.bankAt c false).itemLive = false ∧ (t.bankAt c false).stoppedAt.isSome = true)) ∧
    (s.Quiet → launchRuns l = true → l.started = true → usedCores l ≠ [] →
      (∀ c ∈ usedCores l, ∃ x, resumeOn s i c = some (x, true)) →
      Completes (.contextResume i) s (fun t => ∀ c ∈ usedCores l, ∀ x d, s.residentAt c i = some x →
        (s.bankAt c x).stoppedAt = some d → (t.bankAt c x).stoppedAt = none ∧
        (t.bankAt c x).brs = (s.bankAt c x).brs + BitVec.ofNat 64 (s.stamp - d))) ∧
    (let x := (s.core k).second
     let b := s.bankAt k x
     (clStalled s k = false → b.stoppedAt.isSome = true → b.slot.isSome = true → matrixBusy s b = false → s.mayRun k (!x) = true →
      s.mayRun k x = false → b.loads = [] →
      Completes (.preemption k) s (fun t => SameBytes s t ∧ (t.core k).second = !x ∧
        t.bankAt k (!x) = s.bankAt k (!x) ∧ SameRegs b (t.bankAt k x)))) ∧
    ((l.state = .waiting ∨ l.state = .saved ∨ l.state = .preempted) → (l.aged + 1) * 6000000 ≤ waitedTicks s l →
      exec (.priorityAging i) s = .next (s.setLaunch i (some { l with eff := l.eff - 1, aged := l.aged + 1 }))) ∧
    (l.state = .running → l.since + 6000000 ≤ s.stamp →
      exec (.priorityReturnToPrio i) s = .next (s.setLaunch i (some { l with eff := l.prio })))

/-- R146, R147, R153, R154, R132, R455: a tracked item whose work has completed leaves the tracker; a stopped context
whose work is over ends with its record, and its banks are free; the oldest record is then written to the completion ring
in host memory, CRTAIL moves on and an enabled interrupt is raised. -/
def Obligations.ContextEnds : Prop :=
  ∀ (s : State) (i k : Fin 16) (l : Launch) (r : Record) (rest : List Record),
    (∀ t b x c, (s.core k).tracker = t :: c → s.residentAt k t.slot = some x → s.bankAt k x = b → itemDone b t = true →
      Completes (.trackerEntryFree k) s (fun u =>
        (staleLatches b = [] → SameBytes s u) ∧ (u.core k).tracker = c)) ∧
    (s.launch i = some l → l.state ≠ .ended → l.finishing = some r → workOver s i l = true →
      recsOf s (ctxidOf s (some i)) = [] → (∀ p ∈ launchBanks s i l, p.2.2.jobs = []) →
      Completes (.contextEnd i) s (fun t => SameBytes s t ∧ (∃ m, t.launch i = some m ∧ m.state = .ended) ∧
        t.ls.records = s.ls.records ++ [r] ∧
        ∀ c ∈ usedCores l, ∀ x, s.residentAt c i = some x → (t.bankAt c x).slot = none)) ∧
    (s.ls.records = r :: rest → ringOpen s.host = true → s.svc.powered = true → r.final = false →
      Completes .completionRecordWrite s (fun t => SameBytes s t ∧ t.ls.records = rest ∧
        t.host.crtail.toNat = (s.host.crtail.toNat + 1) % 2 ^ s.host.crsize.toNat ∧
        (∀ j, j < 64 → memRead t.host.hostMem (s.host.crbase.toNat + 64 * s.host.crtail.toNat + j) = r.bytes.getD j 0) ∧
        t.host.irqRaised = if bit s.host.irq 0 then s.host.irqRaised + 1 else s.host.irqRaised))

/-- R105, R143, R153, R154, R156, R456: ABORT stops a launch with record status 8; RESUME releases one held by BRK;
SETENERGY sets its allowance; each answers 0 in CMDST, 2 for a token no slot holds, or 3 for a RESUME that finds no hold
by BRK. A launch that has used its energy
is held. The answer to a page request lets the core held on it retry the instruction. A revocation with no access at work
on the range invalidates every handle that meets it. -/
def Claims.HostActions : Prop :=
  ∀ (s : State) (i : Fin 16) (l : Launch) (n : BitVec 32),
    (mailboxOn s = true → slotOfLseq s n = none →
      ∀ x ∈ [(Instr.abort n, 1), (.resume n, 2), (.setEnergy n, 3)], s.host.cmdPending = some (n, x.2) →
        exec x.1 s = .next (cmdStatus s 2)) ∧
    (mailboxOn s = true → slotOfLseq s n = some (i, l) → s.launch i = some l →
      (s.host.cmdPending = some (n, 1) → l.state ≠ .ended → l.finishing = none → Completes (.abort n) s (fun t => SameBytes s t ∧ t.host.cmdst = 0 ∧
        ∃ m r, t.launch i = some m ∧ m.finishing = some r ∧ r.status = 8 ∧ r.final = true)) ∧
      (s.host.cmdPending = some (n, 2) → l.hold = .brk → l.state ≠ .ended → l.finishing = none →
        Completes (.resume n) s (fun t => SameBytes s t ∧ t.host.cmdst = 0 ∧
          ∃ m, t.launch i = some m ∧ m.hold = .none)) ∧
      (s.host.cmdPending = some (n, 2) → (l.hold ≠ .brk ∨ l.state = .ended ∨ l.finishing.isSome = true) →
        exec (.resume n) s = .next (cmdStatus s 3)) ∧
      (s.host.cmdPending = some (n, 3) → Completes (.setEnergy n) s (fun t => SameBytes s t ∧ t.host.cmdst = 0 ∧
        ∃ m, t.launch i = some m ∧ m.energy = s.host.cmdarg.toNat))) ∧
    (s.launch i = some l → l.energy ≠ 0 → l.energy * 1000 ≤ l.energyNJ / 1000 → l.hold = .none → l.finishing = none →
      l.state = .running → Completes (.energyHold i) s (fun t => SameBytes s t ∧
        (∃ m, t.launch i = some m ∧ m.state = .held ∧ m.hold = .energy) ∧
        ∃ r, t.ls.records = s.ls.records ++ [r] ∧ r.lseq = l.lseq ∧ r.status = 7)) ∧
    (∀ idx r x, s.ls.pageReqs[idx]? = some r → r.job = none → s.residentAt r.core r.slot = some x →
      (s.bankAt r.core x).heldXF = true → Completes (.pageRequestAnswer idx) s (fun t => SameBytes s t ∧
        t.ls.pageReqs = s.ls.pageReqs.eraseIdx idx ∧
        let b := s.bankAt r.core x
        let c := t.bankAt r.core x
        c.mode = .user ∧ c.pc = b.flti ∧ c.heldXF = false ∧ SameRegs b c)) ∧
    (∀ lo len, s.launch i = some l → (∀ p ∈ launchBanks s i l, rangeBusy lo len p.2.2 = false) →
      Completes (.revocation i lo len) s (fun t =>
        ((∀ p ∈ launchBanks s i l, ∃ x, p.2.1 = Loc.bank x) → SameBytes s t) ∧ ∀ c ∈ usedCores l, ∀ x q,
        s.residentAt c i = some x → let h := (s.bankAt c x).handles.get q
          ((t.bankAt c x).handles.get q).v = (h.v && !(decide (h.lo < lo + len) && decide (lo < h.hi)))))

/-- R23, R126, R145: once every participant has arrived and the sweep is done the barrier releases at T: the phase number
counts up, BRS is T on every participant's core; the sweep clears the aged tags of the phase's slice. -/
def Claims.BarrierReleases : Prop :=
  ∀ (s : State) (i : Fin 16) (l : Launch) (t : Nat), s.launch i = some l →
    (releaseTick l = some t → t ≤ s.stamp →
      Completes (.barrierRelease i) s (fun u =>
        ((∀ p ∈ launchBanks s i l, ∃ x, p.2.1 = Loc.bank x) → SameBytes s u) ∧
        (∃ m, u.launch i = some m ∧ m.phase = l.phase + 1 ∧ m.arrived = 0 ∧ m.sweptAt = none) ∧
        ∀ (k : Fin 16) x, bit (participants l) k.val = true → s.residentAt k i = some x →
          (u.bankAt k x).brs = BitVec.ofNat 64 t ∧
          ((s.bankAt k x).barArrived = true → (u.bankAt k x).barReleased = some t))) ∧
    (l.started = true → l.state ≠ .ended → l.sweptAt = none →
      shutIn s ((l.segs.filter (fun g => g.tier = 0)).map (fun g => memRegion g.vbase g.len)) = [] →
      exec (.tagSweep i) s = .next (State.setLaunch
        { s with tags := s.tags.filter (fun c => !(sweeps l.phase c && inChecked s l (32 * c.1))) } i
        (some { l with sweptAt := some s.stamp })))

/-- R20, R149, R194: the home answers a wait that core k sent through a view: with enough slots the instruction retires. A
core whose every waiting entry has waited on channels that have not moved for 600,000,000 ticks takes CHST, SRC 011
(that the detector compares the counts with a sample it keeps, and that FLTA is the channel the control core waits on, are
the model's, log entry 43). -/
def Claims.ChannelAnswers : Prop :=
  ∀ (s : State) (k : Fin 16),
    let b := s.active k
    (∀ (ch : Fin 16) p n hk hl h, b.stall = some (.channel ch.val p n false) → (chanAt b ch).view = true →
      b.stoppedAt = none → s.chanHome k b (s.activeLoc k) ch = some (hk, hl, h) → chanReady h p n = true →
      Completes (.channelViewRequest k) s (fun t => SameBytes s t ∧
        t.active k = retireBank { b with stall := none } 1)) ∧
    (∀ (ch : Nat) n p t0, b.mode = .user → b.stoppedAt = none → b.stall = some (.channel ch p n false) →
      queueHeads b = [] → anyRunning s b.slot = false → b.chst = some (t0, chanPointers { s with cur := k } b (s.activeLoc k) [ch]) →
      t0 + 600000000 ≤ s.stamp → ch < 16 →
      Completes (.channelStall k) s (fun t => SameBytes s t ∧ (t.active k).mode = .supervisor ∧
        bits (t.active k).fltc 0 8 = FaultCode.chst.byte ∧ bits (t.active k).fltc 8 3 = 3#3 ∧
        (t.active k).flta = BitVec.ofNat 64 ch ∧ (t.active k).flti = b.pc))

/-! ## Near DRAM (R265 to R269, R475) -/

/-- R266, R267, R268, R269: a burst read with one cell in error: the code corrects it at its home and logs its address,
its syndrome and the bit; with two cells of one codeword in error the sector is poisoned and logged as uncorrectable. A read
or a write whose parity fails starts a sequence on its channel. -/
def Claims.NearMemoryReads : Prop :=
  ∀ (s : State) (pa i j k : Nat) (par : List (Fin 8 × Fin 4)) (ctx : Word),
    let a := pa / 64 * 64
    let cw := a + 16 * i
    let old := s.svc.cell.get (dramStack cw)
    let logs (t : State) (kind syn b : Nat) : Prop := ∃ dw0 : Word, t.svc.cell.get (dramStack cw) =
        old.push 256 (logEntry dw0 (BitVec.ofNat 64 (syn + b * 512)) ctx (BitVec.ofNat 64 (s.clk / 2))) ∧
      (bits dw0 0 48).toNat = cw ∧ (bits dw0 48 8).toNat = cw / 256 % 256 ∧ (bits dw0 56 4).toNat = cw / 2 ^ 34 % 16 ∧
      (bits dw0 60 4).toNat = kind
    let begins (x : Instr) (wr : Bool) : Prop := Completes x s (fun t =>
      SameBytes s t ∧ t.cores = s.cores ∧ let c := t.dramAt (dramChannel a)
      c.active = true ∧ c.burst = a ∧ c.retries = 0 ∧ c.isWrite = wr ∧ c.ctx = ctx ∧ c.beats = beatSet (beatPairs par) ∧
        c.grps = groupSet (beatPairs par) ∧ c.spares = (s.dramAt (dramChannel a)).spares)
    tier1Ok a 64 = true → (s.dramAt (dramChannel a)).active = false →
    (i < 4 → j < 137 → Completes (.tier1BurstRead pa [137 * i + j] [] ctx) s (fun t =>
      SameBytes s t ∧ t.poison = s.poison ∧ t.cores = s.cores ∧ logs t 1 (eccColumn j) j)) ∧
    (i < 4 → j < 137 → k < 137 → j ≠ k → Completes (.tier1BurstRead pa [137 * i + j, 137 * i + k] [] ctx) s (fun t =>
      t.poisonAt cw = some .due ∧ SameBytesBut cw 16 s t ∧ t.cores = s.cores ∧
        logs t 2 (eccColumn j ^^^ eccColumn k) 0xFF)) ∧
    (par ≠ [] → begins (.tier1BurstRead pa [] par ctx) false ∧ begins (.writeParityError pa par ctx) true)

/-- R267, R268: in a sequence on a channel: a clean retry ends it and is logged with its number; a third one that fails
starts the lane test, and on a degraded channel poisons both sectors of the burst. A test that finds one lane, with a
spare free, maps the lane onto it and reads again; one that does not poisons the burst and degrades the channel. -/
def Claims.ParitySequences : Prop :=
  ∀ (s : State) (ch : Fin 256) (p : List (Fin 8 × Fin 4)) (l : Fin 64),
    let c := s.dramAt ch.val
    let poisoned (t : State) : Prop := t.poisonAt c.burst = some .due ∧ t.poisonAt (c.burst + 32) = some .due
    let lanes (t : State) (evt : Nat) : Prop := ∃ e, t.svc.lane.get (dramStack c.burst) =
      (s.svc.lane.get (dramStack c.burst)).push 256 e ∧ (bits e 0 48).toNat = c.burst % 2 ^ 48 ∧
      (bits e 56 4).toNat = evt ∧ bits e 64 8 = c.beats ∧ bits e 72 4 = c.grps
    c.active = true → dramChannel c.burst = ch.val →
    (c.testing = false → c.swapped = false → p ≠ [] → c.retries < 2 →
      Completes (.parityRetry ch p) s (fun t => SameBytes s t ∧ t.dramAt ch.val = { c with retries := c.retries + 1 })) ∧
    (c.testing = false → c.swapped = false → c.retries < 3 →
      Completes (.parityRetry ch []) s (fun t => SameBytes s t ∧ t.poison = s.poison ∧
        (t.dramAt ch.val).active = false ∧ (t.dramAt ch.val).spares = c.spares ∧ lanes t (if c.isWrite then 4 else 1) ∧
        ∃ e, t.svc.lane.get (dramStack c.burst) = (s.svc.lane.get (dramStack c.burst)).push 256 e ∧
          (bits e 60 4).toNat = c.retries + 1)) ∧
    (c.testing = false → c.swapped = false → p ≠ [] → c.retries = 2 → c.degraded = false →
      Completes (.parityRetry ch p) s (fun t => SameBytes s t ∧ (t.dramAt ch.val).testing = true)) ∧
    (c.testing = false → c.swapped = false → p ≠ [] → c.retries = 2 → c.degraded = true →
      Completes (.parityRetry ch p) s (fun t => SameBytes s t ∧ poisoned t ∧ (t.dramAt ch.val).active = false ∧
        lanes t 3)) ∧
    (c.testing = true → c.spares.length < 2 →
      Completes (.laneTest ch (some l)) s (fun t => SameBytes s t ∧ t.poison = s.poison ∧ lanes t 2 ∧
        let d := t.dramAt ch.val
        d.spares = c.spares ++ [l.val] ∧ d.active = true ∧ d.swapped = true ∧ d.testing = false)) ∧
    (c.testing = true → Completes (.laneTest ch none) s (fun t => SameBytes s t ∧ poisoned t ∧ lanes t 3 ∧
      (t.dramAt ch.val).degraded = true ∧ (t.dramAt ch.val).active = false ∧ (t.dramAt ch.val).spares = c.spares)) ∧
    (c.testing = true → 2 ≤ c.spares.length → Completes (.laneTest ch (some l)) s (fun t => SameBytes s t ∧ poisoned t ∧
      (t.dramAt ch.val).degraded = true))

/-- R475: a write to a doubleword of an injection slot sets it, reserved bits aside, and nothing else. -/
def Claims.InjectionSlots : Prop :=
  ∀ (s : State) (i : Fin 8) (dw : Fin 3) (v : Word), s.svc.powered = true →
    Completes (.injectionSlotWrite i dw v) s (fun t =>
      t = { s with svc := { s.svc with inj := t.svc.inj } } ∧ (∀ m, m ≠ i → t.svc.inj.get m = s.svc.inj.get m) ∧
      t.svc.inj.get i = if dw = 0 then { s.svc.inj.get i with dw0 := v &&& 0x3FFF3FFF }
        else if dw = 1 then { s.svc.inj.get i with target := v } else { s.svc.inj.get i with loc := v })

/-! ## Power, current and thermal control (R373, R425 to R446) -/

/-- R427: at the start of an epoch BR takes up 900 mJ less the energy of the last, up to 2,000,000, BH follows from it, 40 at
most and 0 in fallback, and the bucket of the one context that shares it rises by BH, up to 64. -/
def Claims.BoostEpochs : Prop :=
  ∀ (s : State) (em : Nat) (i : Fin 16) (l : Launch), 600000 * (s.pow.boostWin + 1) ≤ s.stamp →
    s.launch i = some l → (∀ m, m ≠ i → s.launch m = none) → l.state = .running → 0 < l.share →
    Completes (.boostEpoch em) s (fun t =>
      t.pow.br = min 2000000 (s.pow.br + 900 - em) ∧
      t.pow.bh = (if s.pow.fallback then 0 else min 40 ((max t.pow.br 0).toNat * 4 / 15)) ∧
      t.pow.boostWin = s.pow.boostWin + 1 ∧ t.launch i = some { l with btok := min 64 (l.btok + t.pow.bh) } ∧
      t.cores = s.cores ∧ SameBytes s t)

/-- R430, R439, R373, R425: at the end of a window each island's counter rises by what it drew; at the end of an undervolting
window the voltage of a CL island that is not retained falls by 5 mV after few corrected errors, those counted and those
given, rises by 5 mV after many, and else stays, between Vmin and Vsafe, and the count starts again; an
allowance window gives every stack the full allowance of PS. That the corrected errors counted join those of the window (log
entry 79) and what the allowance is in fallback (R444, log entry 52) are the model's readings. -/
def Claims.PowerWindows : Prop :=
  ∀ (s : State) (uj : List Nat) (cl : Fin 4) (errs : Nat),
    let p := s.pow
    let v := p.volt.get ⟨16 + cl.val, by omega⟩
    let m := p.marginM.get cl
    let vmin := Config.vmin (16 + cl.val)
    let vsafe := Config.vsafe (16 + cl.val)
    let c := p.corrErrs.get cl + errs
    (60000 * p.energyWin + 60000 ≤ s.stamp → Completes (.energyWindow uj) s (fun t => SameBytes s t ∧
      t.pow.energyWin = p.energyWin + 1 ∧
      ∀ n : Fin 40, t.pow.eni.get n = p.eni.get n + BitVec.ofNat 64 (uj.getD n.val 0))) ∧
    (60000000 * (p.uvWin.get cl + 1) ≤ s.stamp → p.fallback = false → p.suspendUntil.get cl = 0 → m ≤ 7 →
      islandVolt s (16 + cl.val) = v → vmin ≤ v → v ≤ vsafe → Completes (.undervoltWindow cl errs) s (fun t => t = { s with pow := t.pow } ∧
        (∀ n : Fin 40, n.val ≠ 16 + cl.val → t.pow.volt.get n = p.volt.get n) ∧
        t.pow.volt.get ⟨16 + cl.val, by omega⟩ =
          (if c + 1 ≤ 2 ^ (7 - m) ∧ vmin < v then max vmin (v - 5)
           else if 2 ^ (8 - m) ≤ c then min vsafe (v + 5) else v) ∧ t.pow.corrErrs.get cl = 0)) ∧
    (p.allowWin < s.stamp / 60000 → Completes .senseAllowanceWindow s (fun t => SameBytes s t ∧ t.cores = s.cores ∧
      ∀ j, (t.stack j).allow = 7314 * (if p.fallback then 700 else p.ps) / 700 ∧ (t.stack j).used = 0))

/-- R435, R434: at a step boundary with no request waiting, NA falls by at most STEP(NA − 1) and PERM is NA; with one request
and no array offering units, PERM rises by STEP(PERM), up to 128, and the request is granted exactly when it fits. Beside
the limiter, only the spans of units held, kept for the energy charges, change. -/
def Claims.LimiterSteps : Prop :=
  ∀ (s : State) (r : LimReq),
    let p := s.pow
    let perm := min 128 (p.perm + limStep p.perm)
    let frame (t : State) : Prop := t = { s with pow := t.pow, cores := t.cores } ∧
      ∀ k, t.core k = { s.core k with bandUse := (t.core k).bandUse }
    p.na ≠ 0 → p.limNext ≤ s.stamp →
    (p.reqs = [] → Completes .limiterStep s (fun t => frame t ∧ t.pow.perm = t.pow.na ∧
      t.pow.na ≤ p.na ∧ p.na - limStep (p.na - 1) ≤ t.pow.na ∧ t.pow.limNext = p.limNext + 2)) ∧
    (p.reqs = [r] → r.tick ≤ p.limNext → (∀ k, (p.held.get k).doneTick = none) →
      Completes .limiterStep s (fun t => frame t ∧ t.pow.perm = perm ∧
        if p.na + r.w ≤ perm then
          t.pow.na = p.na + r.w ∧ t.pow.reqs = [] ∧ t.pow.granted = p.granted ++ [(r.core, r.seq, p.limNext)] ∧
          (t.pow.held.get r.core).units = (p.held.get r.core).units + r.w
        else t.pow.na = p.na ∧ t.pow.reqs = [r] ∧ t.pow.granted = p.granted))

/-- R438: a band that no job has used and no entry wants for 60,000 ticks is switched off; one that the head of a matrix
queue needs wakes, its array usable 240 ticks later. -/
def Claims.BandPower : Prop :=
  ∀ (s : State) (c b : Fin 4),
    let n : Fin 16 := ⟨4 * c.val + b.val, by omega⟩
    (bandWanted s c b = false → s.pow.bandIdle.get n + 60000 ≤ s.stamp →
      Completes (.bandSwitchOff c b) s (fun t => t = { s with pow := t.pow } ∧ bit t.pow.bandOff n.val = true ∧
        ∀ m, m < 16 → m ≠ n.val → bit t.pow.bandOff m = bit s.pow.bandOff m)) ∧
    (∀ k : Fin 16, k.val / 4 = c.val → headNeeds s k b = true → bit s.pow.bandOff n.val = true →
      Completes (.bandWake c b) s (fun t => t = { s with pow := t.pow } ∧ bit t.pow.bandOff n.val = false ∧
        t.pow.wakeAt.get n = s.stamp + 240))

/-- R440, R109: an uncorrectable error in a core's scratchpad below Vsafe poisons its sector with the margin mark of the CL
island, which goes to Vsafe and stops its clocks for at most 1,200 ticks; undervolting is suspended for 60 s and M rises, to
7 at most; at Vsafe the sector takes plain poison and nothing else. The clocks run again once Vsafe is reached, and
undervolting resumes from Vsafe. -/
def Claims.MarginGuard : Prop :=
  ∀ (s : State) (k : Fin 16) (a : Nat),
    let isl : Fin 40 := ⟨16 + k.val / 4, by omega⟩
    let cl : Fin 4 := ⟨k.val / 4, by omega⟩
    let p := s.pow
    let vsafe := Config.vsafe isl.val
    let key := 0x1000000000000 + k.val * 0x1000000 + a
    let event (P : State → Prop) : Prop := Completes (.marginEvent isl k 0 a) s (fun t =>
      SameBytes s t ∧ t.cores = s.cores ∧ P t ∧ ∀ x, x / 32 ≠ key / 32 → t.poisonAt x = s.poisonAt x)
    (islandVolt s isl.val < vsafe → event (fun t => t.poisonAt key = some (.margin (BitVec.ofNat 6 isl.val)) ∧
      t.pow.volt.get isl = vsafe ∧ bit t.pow.stalled isl.val = true ∧ t.pow.stallUntil.get isl ≤ s.stamp + 1200 ∧
      t.pow.suspendUntil.get cl = s.stamp + 36000000000 ∧ t.pow.marginM.get cl = min 7 (p.marginM.get cl + 1))) ∧
    (vsafe ≤ islandVolt s isl.val → event (fun t => t.poisonAt key = some .due ∧ t.pow = p)) ∧
    (p.stallUntil.get isl ≤ s.stamp → Completes (.marginStallEnd isl) s (fun t => t = { s with pow := t.pow } ∧
      bit t.pow.stalled isl.val = false ∧ t.pow.volt = p.volt)) ∧
    (p.suspendUntil.get cl ≠ 0 → p.suspendUntil.get cl ≤ s.stamp → Completes (.undervoltResume cl) s (fun t =>
      SameBytes s t ∧ t.cores = s.cores ∧ t.pow.suspendUntil.get cl = 0 ∧ t.pow.volt.get isl = vsafe))

/-- R443, R444, R426: a missed watchdog puts every island at Vsafe and BH at 0, and fallback lasts until signed firmware runs.
At 110 °C of the compute die every launch ends with an ABORTED record, every core stops with no context, and the die is held
in reset. -/
def Claims.Trips : Prop :=
  ∀ (s : State) (i : Fin 16) (l : Launch),
    (s.pow.fallback = false → Completes .watchdogExpiry s (fun t => SameBytes s t ∧ t.cores = s.cores ∧
      t.pow.fallback = true ∧ t.pow.bh = 0 ∧ ∀ n : Fin 40, t.pow.volt.get n = Config.vsafe n.val)) ∧
    (s.pow.fallback = true → Completes .fallbackEnd s (fun t => SameBytes s t ∧ t.cores = s.cores ∧
      t.pow = { s.pow with fallback := false } ∧
      ∃ e, t.svc.power = s.svc.power.push 256 e ∧ bits e 0 8 = 6#8)) ∧
    (s.pow.dieHeld = false → (110 ≤ s.pow.uncTemp ∨ ∃ c, 110 ≤ s.pow.clTemp.get c) → s.launch i = some l →
      l.state ≠ .ended → Completes .computeDieTrip s (fun t => SameBytes s t ∧ t.pow.dieHeld = true ∧
        (∀ k x, (t.bankAt k x).slot = none) ∧ (∃ m, t.launch i = some m ∧ m.state = .ended) ∧
        ∃ r ∈ t.ls.records, r.lseq = l.lseq ∧ r.status = 8 ∧ r.code = 0 ∧ r.final = true))

/-! ## The host link (R449 to R462) -/

/-- R449 to R452, R455, R456, R469, R475: what a host write to each register leaves: the fields the register has, and
nothing else; a command makes its mailbox busy, and one written to a busy service mailbox sets LOST; a read of BAR0 gives the
register, zero where none is listed, and zero for the write-only SVCCMD (log entry 75); the ring's registers keep their values while records are pending; POWLIM outside 300 to 700, an aperture base from 192 GiB on,
and a peer entry with the device's own port are ignored; a write to an offset of BAR0 that is not listed has no effect, and by the model's choice (log entry
75) neither has one to an offset that BAR2 does not list. -/
def Obligations.HostRegisters : Prop :=
  ∀ (s : State) (v : Word) (i : Fin 4),
    let h := s.host
    let hosts (x : Instr) (h' : HostLink) : Prop := exec x s = .next { s with host := h' }
    s.svc.powered = true →
    hosts (.inboundWindowWrite false v) { h with inwb := v &&& 0xFFFFFFFF0001#64 } ∧
    hosts (.inboundWindowWrite true v) { h with inwl := v &&& 0x1FFFFF#64 } ∧
    hosts (.apbaseWrite v) (if 0x3000000000 ≤ (v &&& 0xFFFFFE000000#64).toNat then h
      else { h with apbase := v &&& 0xFFFFFE000000#64 }) ∧
    (bits v 8 8 ≠ Config.ownPort → Completes (.peerEntryWrite i v) s (fun t => t = { s with host := t.host } ∧
      t.host = { h with peers := t.host.peers } ∧ t.host.peers.get i = v &&& 0xFF01#64 ∧
      ∀ m, m ≠ i → t.host.peers.get m = h.peers.get m)) ∧
    (bits v 8 8 = Config.ownPort → exec (.peerEntryWrite i v) s = .next s) ∧
    (let n := v.toNat % 1024
     (300 ≤ n → n ≤ 700 → Completes (.powlimWrite v) s (fun t => t.pow.ps = n ∧ SameBytes s t ∧ t.cores = s.cores ∧
       t.host = h)) ∧
     (n < 300 ∨ 700 < n → exec (.powlimWrite v) s = .next s)) ∧
    (h.ideStopped = false → s.ls.records = [] → hosts (.completionRingConfigWrite true v) { h with crsize := v &&& 0x1F#64 } ∧
      hosts (.completionRingConfigWrite false v) { h with crbase := v }) ∧
    (∀ b, s.ls.records ≠ [] → exec (.completionRingConfigWrite b v) s = .next s) ∧
    (let w (o : Nat) : Instr := .registerWrite 2 o (some v)
     h.ideStopped = false → hosts (w 0) { h with subhdr := v } ∧ hosts (w 8) { h with subsave := v } ∧
      hosts (w 16) { h with subovr := v &&& 0x3FF07#64 } ∧ hosts (w 24) { h with suben := v } ∧
      hosts (w 0x58) { h with crhead := v } ∧ hosts (w 0x68) { h with cmdarg := v } ∧
      hosts (w 0x78) { h with irq := v &&& 1#64 } ∧
      (h.cmdPending = none → 1 ≤ (bits v 32 4).toNat → (bits v 32 4).toNat ≤ 3 →
        hosts (w 0x60) { h with cmdst := 1, cmdPending := some (bits v 0 32, (bits v 32 4).toNat) }) ∧
      (∀ o ∈ [0x20, 0x50, 0x70, 0x80, 0x1008], exec (w o) s = .next s)) ∧
    (∀ o ∈ [0x0, 0x10000, 0x20008, 0x30050, 0x100038, 0x100040, 0x101018],
      exec (.registerWrite 0 o (some v)) s = .next s) ∧
    (let c := (bits v 0 8).toNat
     let svc := s.svc
     (svc.busy = none → 1 ≤ c → c ≤ 13 → exec (.registerWrite 0 0x100030 (some v)) s =
       .next { s with svc := { svc with st := 1, busy := some c } }) ∧
     (svc.busy.isSome = true → exec (.registerWrite 0 0x100030 (some v)) s =
       .next { s with svc := { svc with st := svc.st ||| 0x8000000000000000#64 } })) ∧
    (let reads (bar : BitVec 3) (o : Nat) (w : Word) : Prop := exec (.registerWrite bar o none) s = .next { s with
       host := { h with rdData := toBytes 8 w.toNat, rdPoison := false, rdError := false } }
     (∀ n : Fin 40, reads 0 (0x10000 + 8 * n.val) (s.pow.eni.get n)) ∧ reads 0 0x20000 (BitVec.ofNat 64 s.pow.ps) ∧
     reads 0 (0x30000 + 16 * i.val) (h.peers.get i) ∧ reads 0 0x30040 h.inwb ∧ reads 0 0x30048 h.inwl ∧
     reads 0 0x40000 h.apbase ∧ reads 0 0x100038 s.svc.st ∧
     (∀ o ∈ [0x20008, 0x30050, 0x100030, 0x101018], reads 0 o 0) ∧
     (h.ideStopped = false → reads 2 0x20 h.subres ∧ reads 2 0x50 h.crtail ∧ reads 2 0x70 h.cmdst ∧ reads 2 0x40 h.crbase))

/-- R450, R457, R461, R462: with no error injected and both memory ports working, a host write through the aperture or the
CXL.mem window, and a peer's write that the receiver accepts, place their bytes at the address; a read gives them, and
whether they are poisoned; memory elsewhere, and the race-detection tags, stay. A peer's read that is not accepted is
answered as unsupported, and its write is discarded. -/
def Claims.HostAccesses : Prop :=
  ∀ (s : State) (port : Byte) (off : Nat) (bs : List Byte), s.Quiet → s.svc.powered = true →
    let h := s.host
    let n := bs.length
    let stores (x : Instr) (pa : Nat) : Prop := Completes x s (fun t => t = { s with mem := t.mem, poison := t.poison } ∧
      t.bytesAt pa n = bs ∧ SameBytesBut pa n s t ∧ (pa % 32 = 0 → n % 32 = 0 → 0 < n → t.poisonIn pa n = none))
    let loads (x : Instr) (pa : Nat) : Prop := exec x s = .next { s with host := { h with
      rdData := s.bytesAt pa n, rdPoison := (s.poisonIn pa n).isSome, rdError := false } }
    let inw := (bits h.inwb 16 32).toNat * 0x10000 + off
    let refused (x : Instr) : Prop := exec x s = .next { s with host := { h with
      rdData := [], rdPoison := false, rdError := true } }
    (off + n ≤ 0x2000000 → stores (.apertureAccess off n (some bs)) (h.apbase.toNat + off) ∧
      loads (.apertureAccess off n none) (h.apbase.toNat + off)) ∧
    (h.ideStopped = false → h.hdm = true → off + n ≤ 0x20000000000 → stores (.hostMemoryAccess off n (some bs)) (0x010000000000 + off) ∧
      loads (.hostMemoryAccess off n none) (0x010000000000 + off)) ∧
    (peerAccepts s port off n = true → stores (.peerRequest port off n (some bs) false) inw ∧
      loads (.peerRequest port off n none false) inw) ∧
    (peerAccepts s port off n = false → exec (.peerRequest port off n (some bs) false) s = .next s ∧
      refused (.peerRequest port off n none false)) ∧
    (peerAccepts s port 0 0 = true → exec (.peerFlushRead port) s = .next { s with host := { h with
      rdData := [], rdPoison := false, rdError := false } }) ∧
    (peerAccepts s port 0 0 = false → refused (.peerFlushRead port))

/-- R458, R459, R460, R468: keys established on a port, over messages that the device signs with its identity key, the answer
standing in the DOE mailbox, last until an integrity failure there; one on the host port stops the mailbox, the ring and
the window until keys are established again. A memory port with such a failure, whose link goes down, or
whose expander times out is failed: its range reads as poisoned from then on. -/
def Claims.LinkFailures : Prop :=
  ∀ (s : State) (p : Fin 2) (a : Nat),
    let h := s.host
    let bitOf (q : LinkPort) : Nat := match q with
      | .host => 0
      | .mem0 => 1
      | .mem1 => 2
    let fails (x : Instr) : Prop := Completes x s (fun t => SameBytes s t ∧ t.cores = s.cores ∧
      bit t.host.portFailed p.val = true ∧ (portOf a = some p → t.poisonAt a = some .due))
    (s.svc.powered = true → ∀ q msgs, Completes (.ideKeyExchange (q, msgs)) s (fun t => t = { s with host := t.host } ∧
      bit t.host.ideKeys (bitOf q) = true ∧ t.host.doe = identitySign s msgs ∧ t.host.doeBusy = false ∧
      (q = .host → t.host.ideStopped = false) ∧
      t.host.portFailed = h.portFailed)) ∧
    (bit h.ideKeys 0 = true → Completes (.ideIntegrityFailure .host) s (fun t => t = { s with host := t.host } ∧
      t.host.ideStopped = true ∧ bit t.host.ideKeys 0 = false ∧ mailboxOn t = false ∧ ringOpen t.host = false)) ∧
    (bit h.portFailed p.val = false → fails (.memoryPortFailure p) ∧ fails (.expanderTimeout p) ∧
      (bit h.ideKeys (p.val + 1) = true → fails (.ideIntegrityFailure (if p = 0 then .mem0 else .mem1))))

/-! ## Start-up and service (R445, R446, R463 to R478) -/

/-- R469, R471, R473: LOGREAD writes a log's entries from ARG1 on, oldest first, as many as fit, with their count and the
entries lost; OWLREAD with ARG0 = 0 does so for Owl; LOGCLR empties a log; an id that is not listed is refused with
reason 2. -/
def Claims.LogCommands : Prop :=
  ∀ (s : State) (j : Fin 4),
    let sends (x : Instr) (l : Log) : Prop :=
      let es := (l.entries.drop (s.svc.args.get 1).toNat).take (s.svc.len.toNat / 32)
      Completes x s (fun t => ServiceDone s t (es.flatMap (fun e => toBytes 32 e.toNat)) ∧ t.cores = s.cores ∧
        t.svc.res0 = BitVec.ofNat 64 es.length ∧ t.svc.res1 = BitVec.ofNat 64 l.lost ∧ t.svc.cell = s.svc.cell ∧
        t.svc.power = s.svc.power ∧ t.svc.owl = s.svc.owl)
    let id := (s.svc.args.get 0).toNat
    (ServiceUp s 2 → id = j.val → (s.svc.cell.get j).entries.length ≤ 256 → sends .logread (s.svc.cell.get j)) ∧
    (ServiceUp s 2 → id = 0x300 → s.svc.power.entries.length ≤ 256 → sends .logread s.svc.power) ∧
    (ServiceUp s 4 → id = 0 → s.svc.owl.entries.length ≤ 8192 → sends .owlread s.svc.owl) ∧
    (ServiceUp s 3 → id = 0x300 → Completes .logclr s (fun t => ServiceDone s t [] ∧ t.svc.power = ⟨[], 0⟩ ∧ t.svc.cell = s.svc.cell ∧
      t.svc.lane = s.svc.lane ∧ t.svc.owl = s.svc.owl)) ∧
    (id = 0x104 ∨ id = 0x210 ∨ id = 0x301 ∨ 0x600 ≤ id →
      (ServiceUp s 2 → Refuses .logread s 2) ∧ (ServiceUp s 3 → Refuses .logclr s 2))

/-- R470, R476 to R478: WEAR writes its 96 bytes, ATTEST its report, signed over the bytes before the signature, and RESYNC,
which recovery takes too, its summary, with STAMP at its head (the order of fields inside a section is the model's, log
entry 26); each needs room for them, and changes no state of the module beside. -/
def Claims.ServiceReports : Prop :=
  ∀ (s : State), s.svc.powered = true →
    let buf := s.svc.buf.toNat
    let writes (x : Instr) (n : Nat) (P : (Nat → Nat → List Byte) → Prop) : Prop := Completes x s (fun t =>
      (∃ bs, bs.length = n ∧ ServiceDone s t bs) ∧ t.cores = s.cores ∧ t.ls = s.ls ∧ t.wstacks = s.wstacks ∧ t.pow = s.pow ∧
      P (fun o m => memReadN t.host.hostMem (buf + o) m))
    (ServiceUp s 5 →
      (96 ≤ s.svc.len.toNat → writes .wear 96 (fun at_ => at_ 0 8 = toBytes 8 s.svc.powerCycles ∧
        at_ 8 8 = toBytes 8 s.svc.poweredSecs ∧ at_ 0x50 4 = toBytes 4 s.svc.wearDie.cycles ∧
        ∀ j : Fin 16, at_ (0x10 + 4 * j.val) 4 = toBytes 4 (s.svc.wearWS.get j).cycles)) ∧
      (s.svc.len.toNat < 96 → Refuses .wear s 1)) ∧
    (ServiceUp s 6 →
      (0x272 ≤ s.svc.len.toNat → writes .attest 0x272 (fun at_ => at_ 0 32 = memReadN s.host.hostMem buf 32 ∧
        at_ 0x20 8 = toBytes 8 (s.clk / 2 % 2 ^ 64) ∧ at_ 0x28 8 = toBytes 8 s.svc.rollback ∧
        at_ 0x200 114 = identitySign s (at_ 0 0x200))) ∧
      (s.svc.len.toNat < 0x272 → Refuses .attest s 1)) ∧
    (s.svc.booted = true ∨ s.svc.recovery = true → s.svc.busy = some 1 →
      (0xF80 ≤ s.svc.len.toNat → writes .resync 0xF80 (fun at_ => at_ 0 8 = toBytes 8 (s.clk / 2 % 2 ^ 64) ∧
        ∀ (j : Fin 16), (s.ls.lastStop.get j = none → at_ (0x440 + 64 * j.val) 64 = List.replicate 64 0) ∧
          ∀ r, s.ls.lastStop.get j = some r → at_ (0x440 + 64 * j.val) 64 = r.bytes)) ∧
      (s.svc.len.toNat < 0xF80 → Refuses .resync s 1))

/-- R412, R413, R445, R466, R467, R469: TIME sets the clock and queues each extent that has gone 30 days without a sense;
EXTADD enters an extent whose page tags and digest are right and refuses one whose digest differs; EXTDEL removes it; PARK,
refused while a launch holds a slot, parks every core, and UNPARK ends the park and begins the exits; FWUPD, which recovery
takes too, puts an image into the inactive slot under fallback (R443), verifies it, and switches power firmware, which is
kind 3 by the model's own numbering (log entry 92), at once; RETRAIN
makes both training copies invalid. -/
def Obligations.ServiceCommands : Prop :=
  ∀ (s : State) (j : Fin 16) (k : Fin 5) (runs : List Word) (bs : List Byte),
    let a0 := (s.svc.args.get 0).toNat
    let n := s.svc.len.toNat
    let read (o m : Nat) : List Byte := memReadN s.host.hostMem (s.svc.buf.toNat + o) m
    let x : Extent := ⟨BitVec.ofNat 32 a0, (s.svc.args.get 1).toNat.testBit 0, BitVec.ofNat 512 (ofBytes (read 0 64)), runs,
      false, wallClock s, if s.svc.clock.isSome then none else some s.stamp⟩
    (ServiceUp s 7 → Completes .time s (fun t => ServiceDone s t [] ∧ t.svc.clock = some (a0, s.stamp) ∧
      ∀ e ∈ (s.stack j).extents, e.seenTick = none → e.lastSeen + 2592000 ≤ a0 → e.ext ∈ (t.stack j).scrubQ)) ∧
    (ServiceUp s 8 → n = 64 + 8 * runs.length → runs ≠ [] → a0 < 2 ^ 32 →
      (∀ i, i < runs.length → ofBytes (read (64 + 8 * i) 8) = (runs.getD i 0).toNat) →
      (∀ r ∈ runs, (bits r 0 4).toNat = j.val) →
      extentData (s.stack j) a0 x.isSealed (extentPages x j) = some bs →
      (shake256 bs = x.digest → Completes .extadd s (fun t => ServiceDone s t [] ∧ x ∈ (t.stack j).extents ∧
        (∀ e, e.ext ≠ x.ext → (e ∈ (t.stack j).extents ↔ e ∈ (s.stack j).extents)) ∧
        ∀ i, i ≠ j → t.stack i = s.stack i)) ∧
      (shake256 bs ≠ x.digest → Refuses .extadd s 4)) ∧
    (ServiceUp s 9 → (∃ e ∈ (s.stack j).extents, e.ext.toNat = a0) → Completes .extdel s (fun t => ServiceDone s t [] ∧
      ∀ i e, e ∈ (t.stack i).extents ↔ e ∈ (s.stack i).extents ∧ e.ext.toNat ≠ a0)) ∧
    (ServiceUp s 10 → (∀ i, s.launch i = none) → Completes .park s (fun t => ServiceDone s t [] ∧ t.svc.parked = true ∧
      ∀ c, (t.core c).parked = true)) ∧
    (ServiceUp s 10 → (∃ i, s.launch i ≠ none) → Refuses .park s 5) ∧
    (ServiceUp s 11 → Completes .unpark s (fun t => ServiceDone s t [] ∧ t.svc.parked = false ∧
      ∀ c, (t.core c).parked = (s.core c).parked ∧ ((s.core c).parked = true → (t.core c).exitAt.isSome = true))) ∧
    (let f := s.svc.fw.get k
     let img := read 0 n
     let good := imageOk s.svc.keyDigest img
     s.svc.powered = true → s.svc.booted = true ∨ s.svc.recovery = true → s.svc.busy = some 12 → a0 = k.val →
     Completes .fwupd s (fun t => SameBytes s t ∧ (bits t.svc.st 0 2 = if good then 0#2 else 2#2) ∧
       t.svc.fw.get k = { runB := if good = true ∧ k = 3 then !f.runB else f.runB
                          imgA := if f.runB then img else f.imgA, imgB := if f.runB then f.imgB else img } ∧
       t.pow.fallback = true ∧ ∀ m, m ≠ k → t.svc.fw.get m = s.svc.fw.get m)) ∧
    (ServiceUp s 13 → Completes .retrain s (fun t => ServiceDone s t [] ∧ t.svc.trainA = { s.svc.trainA with valid := false } ∧
      t.svc.trainB = { s.svc.trainB with valid := false }))

/-- R446, R465, R466, R476: a parked core whose exit has lasted its 36,000 ticks is parked no longer, a sector with more
than two wrong bits poisoned without the margin mark; after full training a record goes into the older copy with the next sequence number, and a power
loss leaves that copy invalid (the older copy at a tie, and the bytes signed, are the model's: log entries 67 and 76); each
second the sensors of the 16 stacks are sampled, and every 10 minutes the counts are saved. The numbering of the sectors of a
parked slice is the model's (log entry 27). -/
def Claims.ServiceDuties : Prop :=
  ∀ (s : State) (k : Fin 16) (sec : Nat) (l : List Nat),
    (∀ e, (s.core k).parked = true → (s.core k).exitAt = some e → e ≤ s.stamp →
      Completes (.retentionParkExit k []) s (fun t => SameBytes s t ∧ t.poison = s.poison ∧ (t.core k).parked = false ∧
        (t.core k).exitAt = none ∧ t.bankAt k false = s.bankAt k false ∧ t.bankAt k true = s.bankAt k true) ∧
      (2 < l.eraseDups.length → sec < 0x60000 → Completes (.retentionParkExit k [(sec, l)]) s (fun t =>
        SameBytes s t ∧ (t.core k).parked = false ∧
        t.poisonAt (0x1000000000000 + k.val * 0x1000000 + 32 * sec) = some .due))) ∧
    (∀ lost, s.svc.booted = true → s.svc.fullTrained = true → s.svc.trainA.torn = s.svc.trainB.torn →
      s.svc.trainA.seqNo ≤ s.svc.trainB.seqNo → Completes (.trainingRecordWrite lost) s (fun t => SameBytes s t ∧
        t.svc.trainB = s.svc.trainB ∧ t.svc.trainA.seqNo = s.svc.trainB.seqNo + 1 ∧ t.svc.trainA.lanes = laneMap s ∧
        t.svc.trainA.sig = identitySign s t.svc.trainA.bytes ∧ t.svc.fullTrained = false ∧
        (lost = true → ∀ temp, copyValid t temp t.svc.trainA = false))) ∧
    (s.svc.booted = true → s.svc.sampleAt ≤ s.stamp → Completes .wearSample s (fun t => SameBytes s t ∧
      t.svc.poweredSecs = s.svc.poweredSecs + 1 ∧ t.svc.sampleAt = s.svc.sampleAt + 600000000 ∧
      ∀ j : Fin 16, let w := s.svc.wearWS.get j
        let u := t.svc.wearWS.get j
        let temp := (s.stack j).temp
        if w.armed then u.cycles = w.cycles + (if temp + 30 ≤ max w.peak temp then 1 else 0) ∧
          (u.armed = true ↔ max w.peak temp < temp + 30)
        else u.cycles = w.cycles ∧ u.low = min w.low temp ∧ (u.armed = true ↔ min w.low temp + 30 ≤ temp))) ∧
    (s.svc.booted = true → s.svc.saveAt ≤ s.stamp → Completes .wearCountSave s (fun t => SameBytes s t ∧
      t.svc.saveAt = s.svc.saveAt + 360000000000 ∧ t.svc.savedWear = [s.svc.powerCycles, s.svc.poweredSecs] ++
        (s.svc.wearWS.toList.map (fun w => w.cycles)) ++ [s.svc.wearDie.cycles]))

/-- R21, R338, R427, R434, R439, R450, R463, R467, R468, R471, R474: a cold boot whose stage one verifies in one of its two
copies, with a valid image of every kind, ends with the device booted, its identity key derived from the fused secret, and
one power cycle more, STAMP counting from 0 after a power loss; without these it stays in recovery.
Module reset leaves no launch and no context, POWLIM 700, BR 0, NA and PERM 0 and M 0, and keeps memory, the pages and
the map of the flash, whose MOVING bits clear, and the logs. A power loss leaves no byte of memory and the pages of the flash, and adds a dump. What memory reads as after a power loss
(log entry 1) and what a module reset keeps (log entry 24) are the model's. -/
def Claims.BootAndReset : Prop :=
  ∀ (s : State) (ok ok2 : Bool) (fails : BitVec 21) (bad : BitVec 64) (temp : Nat),
    let min_ := s.svc.rollback
    let good (img : List Byte) : Prop := imageOk s.svc.keyDigest img = true ∧ min_ ≤ Config.imageVersion (signedPart img)
    let image (f : FwSlots) : Prop := good f.imgA ∨ good f.imgB
    let boots (P : State → Prop) : Prop := Completes (.coldBoot (ok, ok2) (fails, bad) temp) s P
    ((s.svc.powered = false ∨ (s.svc.booted = false ∧ s.svc.recovery = false)) →
      ((ok || ok2) = true → (∀ k, image (s.svc.fw.get k)) → boots (fun t => SameBytes s t ∧
        t.svc.booted = true ∧ t.svc.powered = true ∧ t.svc.powerCycles = s.svc.powerCycles + 1 ∧
        t.svc.clock = none ∧ t.svc.identity = shakeBytes (s.svc.secret ++ identityLabel) 57 ∧
        (s.svc.powered = false → t.stamp = 0) ∧
        ∀ k, let f := t.svc.fw.get k
          if f.runB then good f.imgB else good f.imgA)) ∧
      ((ok || ok2) = false ∨ (∃ k, ¬image (s.svc.fw.get k)) →
        boots (fun t => t.svc.recovery = true ∧ (s.svc.booted = false → doorbellOpen t = false)))) ∧
    let settled (m : AMap MapEntry) : AMap MapEntry := m.map (fun x => (x.1, { x.2 with moving := false }))
    (s.svc.powered = true → Completes .moduleReset s (fun t => t.mem = s.mem ∧ t.clk = s.clk ∧ t.poison = s.poison ∧
      (∀ i, t.launch i = none) ∧ (∀ k x, (t.bankAt k x).slot = none) ∧ t.pow.ps = 700 ∧ t.pow.br = 0 ∧ t.pow.na = 0 ∧
      t.pow.perm = 0 ∧ (∀ c, t.pow.marginM.get c = 0) ∧ (∀ j, (t.stack j).pages = (s.stack j).pages ∧
        (t.stack j).map = settled (s.stack j).map ∧ (t.stack j).extents = (s.stack j).extents ∧ (t.stack j).act = []) ∧
      t.svc.cell = s.svc.cell ∧ t.svc.power = s.svc.power ∧ t.svc.owl = s.svc.owl)) ∧
    (s.svc.powered = true → Completes .powerLoss s (fun t => t.svc.powered = false ∧ t.mem = [] ∧
      (∀ i, t.launch i = none) ∧ (∀ j, (t.stack j).pages = (s.stack j).pages ∧ (t.stack j).map = settled (s.stack j).map) ∧
      t.svc.trainA = s.svc.trainA ∧ t.svc.power.entries = [] ∧ t.svc.dumps.getLast? =
        some (s.svc.owl.entries.drop (s.svc.owl.entries.length - 1024)) ∧
      t.svc.poweredSecs = s.svc.poweredSecs ∧ t.svc.powerCycles = s.svc.powerCycles))

/-! ## Fetch, decoding and the step (R31 to R34, R41 to R48) -/

/-- R31 to R33, R49, R92: where the schedule lets core k issue (the schedule and the one cycle an issue takes are the
model's, log entries 4 and 38), it may issue, and the word at its program counter (with the word after it, where bit 31 is
set) is an instruction that need not wait for outstanding loads or posted stores (R163, R185), the step is exec of that
instruction, one cycle later, on core k, its words fetched into the fetch buffer (log entry 42); a word that is no
instruction is its fault, one that waits for a load stalls, one that waits for a posted store issues in a later cycle, and a
step of the device named by the schedule is exec of it. The fetch changes the fetch buffer of core k and,
where no error is injected, nothing else. -/
def Obligations.StepRunsInstruction : Prop :=
  ∀ (s : State) (k : Fin 16) (r : List Move) (p0 p1 : Nat) (i j : Instr),
    let v := { s with sched := r, cur := k, clk := s.clk + 1 }
    let u := v.fetched
    let w0 := u.iwordAt p0
    let w1 := u.iwordAt p1
    s.svc.powered = true →
    (s.sched = .issue k :: r → canIssue v k = true → v.bk.vec.fault = none → fetchKey u u.bk u.bk.pc = some p0 →
      (fetchKey u u.bk (u.bk.pc + 4) = some p1 ∨ w0.getLsbD 31 = false) →
      (decode w0 w1 = .ok i → loadHazard i u.bk = false → storeWaits i u = false → step s = exec i u) ∧
      (decode w0 w1 = .ok i → loadHazard i u.bk = false → storeWaits i u = true → step s = .next u) ∧
      (decode w0 w1 = .ok i → loadHazard i u.bk = true → step s = .next (stallOn u .loads)) ∧
      (∀ x, decode w0 w1 = .error x → step s = exec (.encodingNotAnInstruction x) u)) ∧
    (v.Quiet → ∃ l, u = v.setCore k { v.core k with fbuf := l }) ∧
    (s.sched = .event j :: r → step s = exec j { s with sched := r })

/-- R38, R41, R47: words that the spec prints decode to the instructions it prints beside them; a word of zeros, and one
whose reserved bits are not zero, are no instructions. -/
def Obligations.PrintedEncodings : Prop :=
  decode 0x4038D000#32 0 = .ok (.lds 7 6 2 0) ∧ decode 0x4C112000#32 0 = .ok (.xlat 2 9) ∧
  decode 0x5A004598#32 0 = .ok (.cbadv 2 11 true) ∧ decode 0x4E388430#32 0 = .ok (.amo 7 4 8 1 true false 0) ∧
  decode 0x503044E8#32 0 = .ok (.cas 6 2 9 3 false true) ∧ decode 0x34000C05#32 0 = .ok (.loopi 0 false 3 5) ∧
  decode 0x38400800#32 0 = .ok (.repImmediate 2) ∧ decode 0x64000800#32 0 = .ok .exit ∧
  decode 0x36090000#32 0 = .ok (.lbrk 0 9) ∧ decode 0x0428A064#32 0 = .ok (.addi 5 5 100) ∧
  decode 0x80010820#32 0x0C502000#32 = .ok (.vadd ⟨0, 4, 0x820⟩ ⟨3, 5, 0, true, false, 0⟩) ∧
  decode 0x90960004#32 0x2C034000#32 = .ok (.mmul ⟨1, 24, 4⟩ ⟨11, 0, 13, false, false, 0⟩) ∧
  decode 0xA0850000#32 0x08900002#32 = .ok (.cfill ⟨0, 20, 0⟩ ⟨2, 9, 0, false, false, 2⟩) ∧
  decode 0xB0838000#32 0x10527001#32 = .ok (.kvstrm ⟨0, 14, 0⟩ ⟨4, 5, 9, true, true, 1⟩) ∧
  decode 0xC0050000#32 0x40900000#32 = .ok (.fact ⟨0, 20, 0⟩ ⟨16, 9, 0, false, false, 0⟩) ∧
  decode 0xD0C50000#32 0x10000000#32 = .ok (.bfmode ⟨0, 20, 0⟩ ⟨4, 0, 0, false, false, 0⟩) ∧
  decode 0#32 0 = .error (.ill 0) ∧ decode 0x4C112080#32 0 = .error (.ill 0) ∧ decode 0xE0000000#32 0 = .error (.ill 0)

/-- R31 to R48: every well-formed instruction, with every operand, decodes from its own words as itself. -/
def Obligations.DecodeOfEncode : Prop :=
  ∀ i : Instr, i.wf = true → decode ((encode i).headD 0) ((encode i).getD 1 0) = .ok i

/-- R31 to R48: two words that decode are the words of the instruction they decode to, and it is well formed: no other
encoding of an instruction is accepted, and no bit of one is ignored. -/
def Obligations.EncodeOfDecode : Prop :=
  ∀ (w0 w1 : IWord) (i : Instr), decode w0 w1 = .ok i →
    i.wf = true ∧ encode i = if w0.getLsbD 31 then [w0, w1] else [w0]

/-! ## The machine after reset, and what every step keeps -/

/-- R16, R21, R40, R90, R100, R131, R295, R338, R427, R434, R439, R450, R452: what the spec says the machine holds after reset: STAMP 0,
the first launch token 1, no launch and no context, ADEF and SEQ 0, no valid handle, level or channel, the matrix items at
their reset values, empty stores of the stacks, POWLIM 700, BR, NA, PERM and M 0, and the registers of the host link 0. -/
def Obligations.ResetState : Prop :=
  let s := State.reset
  s.stamp = 0 ∧ s.ls.nextLseq = 1 ∧ s.ls.records = [] ∧ (∀ i, s.launch i = none) ∧
  (∀ k, (s.core k).adef = 0 ∧ (s.core k).seq = 0 ∧ (s.core k).tracker = []) ∧
  (∀ k x, let b := s.bankAt k x
    b.slot = none ∧ b.shp = 0x4010 ∧ b.rotn = 0 ∧ b.rrb = 0 ∧ b.mat.mash = 0xF ∧ b.mat.mfx = 0 ∧ b.mat.msc = 0x3F800000 ∧
    (∀ h, (b.handles.get h).v = false) ∧ (∀ l, (getLoop b l).act = false) ∧ ∀ c, (b.chans.get c).set = false) ∧
  (∀ j, (s.stack j).act = [] ∧ (s.stack j).actOwner = [] ∧ (s.stack j).scaleOwner = [] ∧ (s.stack j).cmds = []) ∧
  s.pow.ps = 700 ∧ s.pow.br = 0 ∧ s.pow.na = 0 ∧ s.pow.perm = 0 ∧ (∀ c, s.pow.marginM.get c = 0) ∧
  (∀ n, s.pow.eni.get n = 0) ∧ (∀ i, s.host.peers.get i = 0) ∧ s.host.inwb = 0 ∧ s.host.inwl = 0 ∧ s.host.apbase = 0 ∧
  s.host.subres = 0 ∧ s.host.crbase = 0 ∧ s.host.crsize = 0 ∧ s.host.crtail = 0 ∧ s.host.crhead = 0 ∧ s.host.irq = 0

/-- Both memories of the machine have their canonical form after reset: equal memories are equal data. The form is the
model's choice, with what an unlisted byte reads as (log entry 1). -/
def Obligations.SoundReset : Prop := State.reset.Sound

/-- Every step of the machine, whatever moves it, keeps both memories in their canonical form, which is the model's choice
(log entry 1). -/
def Obligations.SoundStep : Prop := ∀ (s t : State), s.Sound → step s = .next t → t.Sound

/-- R40, R48, R161, R209: no instruction in a word, run in user mode, changes FLTC, FLTA, FLTI, WID, CTXID, BRS, SLIP or
XLIVE of its bank, or the core that issues, unless it takes a fault and so enters supervisor mode. -/
def Obligations.UserModeKeeps : Prop :=
  ∀ (s t : State) (i : Instr), i.wf = true → s.bk.mode = .user → exec i s = .next t → t.bk.mode = .user →
    t.cur = s.cur ∧ t.bk.fltc = s.bk.fltc ∧ t.bk.flta = s.bk.flta ∧ t.bk.flti = s.bk.flti ∧ t.bk.wid = s.bk.wid ∧
    t.bk.ctxid = s.bk.ctxid ∧ t.bk.brs = s.bk.brs ∧ t.bk.slip = s.bk.slip ∧ t.bk.xlive = s.bk.xlive

/-! ## Statements in several parts -/

/-- Integer arithmetic, bit counts and division complete in every state with the values of R164 and R165. -/
def Obligations.IntegerArithmetic : Prop :=
  Claims.IntegerResults ∧ Claims.BitCounts ∧ Claims.DivisionResults

/-- Immediate forms, imad, sel, bfx, bfi and lea complete in every state with the values of R166 and R167. -/
def Obligations.ImmediateForms : Prop :=
  Claims.ImmediateResults ∧ Claims.ThreeOperandResults

/-- Branches, jmp, jal and jr: where they go, what they write, and the faults of jr (log entries 39 and 78). -/
def Obligations.BranchesAndJumps : Prop :=
  Claims.Branches ∧ Claims.JumpFaults

/-- Loop starts, the loop end test, spset and lbrk. -/
def Obligations.Loops : Prop :=
  Claims.LoopStarts ∧ Claims.LoopEndTest ∧ Claims.LoopBreak

/-- How an instruction retires, under rep or not, and what rep itself does. -/
def Obligations.RetirementAndRepeat : Prop :=
  Claims.Retirement ∧ Claims.Repeat

/-- The address checks of on-chip accesses and of accesses through a handle (FLTA of ALIGN and SEGV before ALIGN by log entry 39). -/
def Obligations.AddressChecks : Prop :=
  Claims.OnChipAddressCheck ∧ Claims.HandleAddressCheck

/-- lds, ldsu, ldh and ldhu complete, and what an outstanding load leaves when it returns (log entries 37, 38 and 39). -/
def Obligations.Loads : Prop :=
  Claims.LoadsComplete ∧ Claims.LoadReturns

/-- amo, cas, lda and stl complete, with the old value, the byte range written and the frame (stl on poisoned data by log entry 9). -/
def Obligations.AtomicAndOrdered : Prop :=
  Claims.AtomicsComplete ∧ Claims.OrderedAccesses

/-- fence, nop, stmp, wrapa, jwait, jq, cbq, stwait: values, waits and frames (stwait and owed deliveries by log entry 72). -/
def Obligations.FencesQueriesAndWaits : Prop :=
  Claims.FenceNopStamp ∧ Claims.WrapAddress ∧ Claims.QueriesAndWaits

/-- xlat, hinv and hq, the fault of xlat, and how a translation walk ends. -/
def Obligations.HandlesAndWalks : Prop :=
  Claims.Handles ∧ Claims.XlatOutside ∧ Claims.WalkEnds

/-- bar, bara and barw, their ILL cases, the release of a barrier and the tag sweep. -/
def Obligations.BarrierProtocol : Prop :=
  Claims.Barriers ∧ Claims.BarrierIll ∧ Claims.BarrierReleases

/-- cbadv and cbwait move, wait and fault; a home answers a view; the channel-stall detector raises CHST (its sample and FLTA by log entry 43). -/
def Obligations.ChannelProtocol : Prop :=
  Claims.ChannelMoves ∧ Claims.ChannelFaults ∧ Claims.ChannelAnswers

/-- erd and csrr give their item or register; csrw writes it in supervisor mode. -/
def Obligations.ConfigurationAndCsrs : Prop :=
  Claims.ConfigAndCsrReads ∧ Claims.CsrWrites

/-- trap, brk, ILL, fetch and PRIV faults enter the supervisor; sret returns; faults do not nest. -/
def Obligations.Exceptions : Prop :=
  Claims.SystemFaults ∧ Claims.PrivilegeFaults ∧ Claims.ReturnFromFault ∧ Claims.NestedFault

/-- wfe stalls, and a stall ends when its cause is gone. -/
def Obligations.StallsEnd : Prop :=
  Claims.WaitForEvent ∧ Claims.StallEnds

/-- The start of a work item, its end by tail or exit, and the fields of its identifier. -/
def Obligations.WorkItems : Prop :=
  Claims.ItemStarts ∧ Claims.ItemEnds ∧ Claims.WorkIdentifier

/-- Vector instructions join the vector queue with what they capture; a stage predicate of 0 skips them. -/
def Obligations.VectorQueue : Prop :=
  Claims.VectorEnqueues ∧ Claims.VectorChecksPass ∧ Claims.StagePredicates

/-- Matrix-engine instructions enqueue a job with its token, footprint and edges; products and attention on empty and on recorded latch shapes (log entries 30, 45 and 71). -/
def Obligations.MatrixQueue : Prop :=
  Claims.MatrixEnqueues ∧ Claims.ProductsEnqueue

/-- What a cfill of one sector writes; when a cxs is delivered; and a push whose flush read fails (its PROG and address by log entry 72). -/
def Obligations.CopyTransfers : Prop :=
  Claims.FillWrites ∧ Claims.Transfers

/-- Self-tests (two steps each, log entry 54), band fencing and its log entry, and the steps of a cluster pair. -/
def Obligations.SelfTestsAndPairs : Prop :=
  Claims.SelfTests ∧ Claims.Pairs

/-- fact and fduty reach their stack; link replays (the first failure by log entry 73), trips, duty cycling and failures of a stack. -/
def Obligations.StackArrivalAndHealth : Prop :=
  Claims.StackArrival ∧ Claims.StackHealth

/-- Decoding, soft re-reads and their log entries (log entry 68), the multiply pass, group reduction and the end of an fsync. -/
def Obligations.StackResults : Prop :=
  Claims.StackDecodes ∧ Claims.StackWorks

/-- Compaction's erase, page programs, the start of a scrub, budget windows and the end of a maintenance hold. -/
def Obligations.StackUpkeep : Prop :=
  Claims.Upkeep ∧ Claims.ProgramsAndScrubs

/-- The doorbell and the decision of a launch; abort, resume, set energy, the energy hold, page answers and revocation. -/
def Obligations.SubmissionsAndCommands : Prop :=
  Claims.Submissions ∧ Claims.HostActions

/-- Near DRAM: correction, poison, parity retries, lane swaps, logs and injection slots. -/
def Obligations.NearMemory : Prop :=
  Claims.NearMemoryReads ∧ Claims.ParitySequences ∧ Claims.InjectionSlots

/-- Boost epochs, energy windows, undervolting windows and sense allowances (log entries 52 and 79). -/
def Obligations.BoostAndWindows : Prop :=
  Claims.BoostEpochs ∧ Claims.PowerWindows

/-- A step boundary of the current-slew limiter, and band power switching. -/
def Obligations.LimiterAndBands : Prop :=
  Claims.LimiterSteps ∧ Claims.BandPower

/-- The margin guard, fallback, and the trip of the compute die. -/
def Obligations.MarginGuardAndTrips : Prop :=
  Claims.MarginGuard ∧ Claims.Trips

/-- Aperture, CXL.mem window, peer requests, IDE and memory-port failures. -/
def Obligations.HostAccessesAndFailures : Prop :=
  Claims.HostAccesses ∧ Claims.LinkFailures

/-- LOGREAD, LOGCLR, OWLREAD, WEAR, ATTEST and RESYNC answer with their bytes (field order of the RESYNC section by log entry 26). -/
def Obligations.LogsAndReports : Prop :=
  Claims.LogCommands ∧ Claims.ServiceReports

/-- Cold boot, module reset, power loss, training records, wear samples of the 16 stacks and the end of a park (log entries 1, 24, 27, 67 and 76). -/
def Obligations.BootResetAndDuties : Prop :=
  Claims.ServiceDuties ∧ Claims.BootAndReset
end

