-- ==== Sys2Proof/Laws/State.lean ====
section
/-!
SUPPORT. The fields of State under each of its updates, one lemma per field per update, and what reading back gives.
-/
namespace Sys2Proof.Machine

@[simp] theorem State.setCore_clk (s : State) (k : Fin 16) (c : Core) : (s.setCore k c).clk = s.clk := rfl
@[simp] theorem State.setCore_cur (s : State) (k : Fin 16) (c : Core) : (s.setCore k c).cur = s.cur := rfl
@[simp] theorem State.setCore_sched (s : State) (k : Fin 16) (c : Core) : (s.setCore k c).sched = s.sched := rfl
@[simp] theorem State.setCore_turn (s : State) (k : Fin 16) (c : Core) : (s.setCore k c).turn = s.turn := rfl
@[simp] theorem State.setCore_fresh (s : State) (k : Fin 16) (c : Core) : (s.setCore k c).fresh = s.fresh := rfl
@[simp] theorem State.setCore_mem (s : State) (k : Fin 16) (c : Core) : (s.setCore k c).mem = s.mem := rfl
@[simp] theorem State.setCore_poison (s : State) (k : Fin 16) (c : Core) : (s.setCore k c).poison = s.poison := rfl
@[simp] theorem State.setCore_tags (s : State) (k : Fin 16) (c : Core) : (s.setCore k c).tags = s.tags := rfl
@[simp] theorem State.setCore_ls (s : State) (k : Fin 16) (c : Core) : (s.setCore k c).ls = s.ls := rfl
@[simp] theorem State.setCore_stacks (s : State) (k : Fin 16) (c : Core) : (s.setCore k c).wstacks = s.wstacks := rfl
@[simp] theorem State.setCore_nextCmd (s : State) (k : Fin 16) (c : Core) : (s.setCore k c).nextCmd = s.nextCmd := rfl
@[simp] theorem State.setCore_bf (s : State) (k : Fin 16) (c : Core) : (s.setCore k c).bf = s.bf := rfl
@[simp] theorem State.setCore_pow (s : State) (k : Fin 16) (c : Core) : (s.setCore k c).pow = s.pow := rfl
@[simp] theorem State.setCore_dram (s : State) (k : Fin 16) (c : Core) : (s.setCore k c).dram = s.dram := rfl
@[simp] theorem State.setCore_flips (s : State) (k : Fin 16) (c : Core) : (s.setCore k c).flips = s.flips := rfl
@[simp] theorem State.setCore_links (s : State) (k : Fin 16) (c : Core) : (s.setCore k c).links = s.links := rfl
@[simp] theorem State.setCore_host (s : State) (k : Fin 16) (c : Core) : (s.setCore k c).host = s.host := rfl
@[simp] theorem State.setCore_svc (s : State) (k : Fin 16) (c : Core) : (s.setCore k c).svc = s.svc := rfl

@[simp] theorem State.setBankAt_clk (s : State) (k : Fin 16) (x : Bool) (b : Bank) : (s.setBankAt k x b).clk = s.clk := rfl
@[simp] theorem State.setBankAt_cur (s : State) (k : Fin 16) (x : Bool) (b : Bank) : (s.setBankAt k x b).cur = s.cur := rfl
@[simp] theorem State.setBankAt_sched (s : State) (k : Fin 16) (x : Bool) (b : Bank) : (s.setBankAt k x b).sched = s.sched := rfl
@[simp] theorem State.setBankAt_turn (s : State) (k : Fin 16) (x : Bool) (b : Bank) : (s.setBankAt k x b).turn = s.turn := rfl
@[simp] theorem State.setBankAt_fresh (s : State) (k : Fin 16) (x : Bool) (b : Bank) : (s.setBankAt k x b).fresh = s.fresh := rfl
@[simp] theorem State.setBankAt_mem (s : State) (k : Fin 16) (x : Bool) (b : Bank) : (s.setBankAt k x b).mem = s.mem := rfl
@[simp] theorem State.setBankAt_poison (s : State) (k : Fin 16) (x : Bool) (b : Bank) : (s.setBankAt k x b).poison = s.poison := rfl
@[simp] theorem State.setBankAt_tags (s : State) (k : Fin 16) (x : Bool) (b : Bank) : (s.setBankAt k x b).tags = s.tags := rfl
@[simp] theorem State.setBankAt_ls (s : State) (k : Fin 16) (x : Bool) (b : Bank) : (s.setBankAt k x b).ls = s.ls := rfl
@[simp] theorem State.setBankAt_stacks (s : State) (k : Fin 16) (x : Bool) (b : Bank) : (s.setBankAt k x b).wstacks = s.wstacks := rfl
@[simp] theorem State.setBankAt_nextCmd (s : State) (k : Fin 16) (x : Bool) (b : Bank) : (s.setBankAt k x b).nextCmd = s.nextCmd := rfl
@[simp] theorem State.setBankAt_bf (s : State) (k : Fin 16) (x : Bool) (b : Bank) : (s.setBankAt k x b).bf = s.bf := rfl
@[simp] theorem State.setBankAt_pow (s : State) (k : Fin 16) (x : Bool) (b : Bank) : (s.setBankAt k x b).pow = s.pow := rfl
@[simp] theorem State.setBankAt_dram (s : State) (k : Fin 16) (x : Bool) (b : Bank) : (s.setBankAt k x b).dram = s.dram := rfl
@[simp] theorem State.setBankAt_flips (s : State) (k : Fin 16) (x : Bool) (b : Bank) : (s.setBankAt k x b).flips = s.flips := rfl
@[simp] theorem State.setBankAt_links (s : State) (k : Fin 16) (x : Bool) (b : Bank) : (s.setBankAt k x b).links = s.links := rfl
@[simp] theorem State.setBankAt_host (s : State) (k : Fin 16) (x : Bool) (b : Bank) : (s.setBankAt k x b).host = s.host := rfl
@[simp] theorem State.setBankAt_svc (s : State) (k : Fin 16) (x : Bool) (b : Bank) : (s.setBankAt k x b).svc = s.svc := rfl

@[simp] theorem State.setActive_clk (s : State) (k : Fin 16) (b : Bank) : (s.setActive k b).clk = s.clk := rfl
@[simp] theorem State.setActive_cur (s : State) (k : Fin 16) (b : Bank) : (s.setActive k b).cur = s.cur := rfl
@[simp] theorem State.setActive_sched (s : State) (k : Fin 16) (b : Bank) : (s.setActive k b).sched = s.sched := rfl
@[simp] theorem State.setActive_turn (s : State) (k : Fin 16) (b : Bank) : (s.setActive k b).turn = s.turn := rfl
@[simp] theorem State.setActive_fresh (s : State) (k : Fin 16) (b : Bank) : (s.setActive k b).fresh = s.fresh := rfl
@[simp] theorem State.setActive_mem (s : State) (k : Fin 16) (b : Bank) : (s.setActive k b).mem = s.mem := rfl
@[simp] theorem State.setActive_poison (s : State) (k : Fin 16) (b : Bank) : (s.setActive k b).poison = s.poison := rfl
@[simp] theorem State.setActive_tags (s : State) (k : Fin 16) (b : Bank) : (s.setActive k b).tags = s.tags := rfl
@[simp] theorem State.setActive_ls (s : State) (k : Fin 16) (b : Bank) : (s.setActive k b).ls = s.ls := rfl
@[simp] theorem State.setActive_stacks (s : State) (k : Fin 16) (b : Bank) : (s.setActive k b).wstacks = s.wstacks := rfl
@[simp] theorem State.setActive_nextCmd (s : State) (k : Fin 16) (b : Bank) : (s.setActive k b).nextCmd = s.nextCmd := rfl
@[simp] theorem State.setActive_bf (s : State) (k : Fin 16) (b : Bank) : (s.setActive k b).bf = s.bf := rfl
@[simp] theorem State.setActive_pow (s : State) (k : Fin 16) (b : Bank) : (s.setActive k b).pow = s.pow := rfl
@[simp] theorem State.setActive_dram (s : State) (k : Fin 16) (b : Bank) : (s.setActive k b).dram = s.dram := rfl
@[simp] theorem State.setActive_flips (s : State) (k : Fin 16) (b : Bank) : (s.setActive k b).flips = s.flips := rfl
@[simp] theorem State.setActive_links (s : State) (k : Fin 16) (b : Bank) : (s.setActive k b).links = s.links := rfl
@[simp] theorem State.setActive_host (s : State) (k : Fin 16) (b : Bank) : (s.setActive k b).host = s.host := rfl
@[simp] theorem State.setActive_svc (s : State) (k : Fin 16) (b : Bank) : (s.setActive k b).svc = s.svc := rfl

@[simp] theorem State.setBk_clk (s : State) (b : Bank) : (s.setBk b).clk = s.clk := rfl
@[simp] theorem State.setBk_cur (s : State) (b : Bank) : (s.setBk b).cur = s.cur := rfl
@[simp] theorem State.setBk_sched (s : State) (b : Bank) : (s.setBk b).sched = s.sched := rfl
@[simp] theorem State.setBk_turn (s : State) (b : Bank) : (s.setBk b).turn = s.turn := rfl
@[simp] theorem State.setBk_fresh (s : State) (b : Bank) : (s.setBk b).fresh = s.fresh := rfl
@[simp] theorem State.setBk_mem (s : State) (b : Bank) : (s.setBk b).mem = s.mem := rfl
@[simp] theorem State.setBk_poison (s : State) (b : Bank) : (s.setBk b).poison = s.poison := rfl
@[simp] theorem State.setBk_tags (s : State) (b : Bank) : (s.setBk b).tags = s.tags := rfl
@[simp] theorem State.setBk_ls (s : State) (b : Bank) : (s.setBk b).ls = s.ls := rfl
@[simp] theorem State.setBk_stacks (s : State) (b : Bank) : (s.setBk b).wstacks = s.wstacks := rfl
@[simp] theorem State.setBk_nextCmd (s : State) (b : Bank) : (s.setBk b).nextCmd = s.nextCmd := rfl
@[simp] theorem State.setBk_bf (s : State) (b : Bank) : (s.setBk b).bf = s.bf := rfl
@[simp] theorem State.setBk_pow (s : State) (b : Bank) : (s.setBk b).pow = s.pow := rfl
@[simp] theorem State.setBk_dram (s : State) (b : Bank) : (s.setBk b).dram = s.dram := rfl
@[simp] theorem State.setBk_flips (s : State) (b : Bank) : (s.setBk b).flips = s.flips := rfl
@[simp] theorem State.setBk_links (s : State) (b : Bank) : (s.setBk b).links = s.links := rfl
@[simp] theorem State.setBk_host (s : State) (b : Bank) : (s.setBk b).host = s.host := rfl
@[simp] theorem State.setBk_svc (s : State) (b : Bank) : (s.setBk b).svc = s.svc := rfl

@[simp] theorem State.setLaunch_clk (s : State) (i : Fin 16) (l : Option Launch) : (s.setLaunch i l).clk = s.clk := rfl
@[simp] theorem State.setLaunch_cur (s : State) (i : Fin 16) (l : Option Launch) : (s.setLaunch i l).cur = s.cur := rfl
@[simp] theorem State.setLaunch_sched (s : State) (i : Fin 16) (l : Option Launch) : (s.setLaunch i l).sched = s.sched := rfl
@[simp] theorem State.setLaunch_turn (s : State) (i : Fin 16) (l : Option Launch) : (s.setLaunch i l).turn = s.turn := rfl
@[simp] theorem State.setLaunch_fresh (s : State) (i : Fin 16) (l : Option Launch) : (s.setLaunch i l).fresh = s.fresh := rfl
@[simp] theorem State.setLaunch_mem (s : State) (i : Fin 16) (l : Option Launch) : (s.setLaunch i l).mem = s.mem := rfl
@[simp] theorem State.setLaunch_poison (s : State) (i : Fin 16) (l : Option Launch) : (s.setLaunch i l).poison = s.poison := rfl
@[simp] theorem State.setLaunch_tags (s : State) (i : Fin 16) (l : Option Launch) : (s.setLaunch i l).tags = s.tags := rfl
@[simp] theorem State.setLaunch_cores (s : State) (i : Fin 16) (l : Option Launch) : (s.setLaunch i l).cores = s.cores := rfl
@[simp] theorem State.setLaunch_stacks (s : State) (i : Fin 16) (l : Option Launch) : (s.setLaunch i l).wstacks = s.wstacks := rfl
@[simp] theorem State.setLaunch_nextCmd (s : State) (i : Fin 16) (l : Option Launch) : (s.setLaunch i l).nextCmd = s.nextCmd := rfl
@[simp] theorem State.setLaunch_bf (s : State) (i : Fin 16) (l : Option Launch) : (s.setLaunch i l).bf = s.bf := rfl
@[simp] theorem State.setLaunch_pow (s : State) (i : Fin 16) (l : Option Launch) : (s.setLaunch i l).pow = s.pow := rfl
@[simp] theorem State.setLaunch_dram (s : State) (i : Fin 16) (l : Option Launch) : (s.setLaunch i l).dram = s.dram := rfl
@[simp] theorem State.setLaunch_flips (s : State) (i : Fin 16) (l : Option Launch) : (s.setLaunch i l).flips = s.flips := rfl
@[simp] theorem State.setLaunch_links (s : State) (i : Fin 16) (l : Option Launch) : (s.setLaunch i l).links = s.links := rfl
@[simp] theorem State.setLaunch_host (s : State) (i : Fin 16) (l : Option Launch) : (s.setLaunch i l).host = s.host := rfl
@[simp] theorem State.setLaunch_svc (s : State) (i : Fin 16) (l : Option Launch) : (s.setLaunch i l).svc = s.svc := rfl

@[simp] theorem State.setStack_clk (s : State) (j : Fin 16) (w : Stack) : (s.setStack j w).clk = s.clk := rfl
@[simp] theorem State.setStack_cur (s : State) (j : Fin 16) (w : Stack) : (s.setStack j w).cur = s.cur := rfl
@[simp] theorem State.setStack_sched (s : State) (j : Fin 16) (w : Stack) : (s.setStack j w).sched = s.sched := rfl
@[simp] theorem State.setStack_turn (s : State) (j : Fin 16) (w : Stack) : (s.setStack j w).turn = s.turn := rfl
@[simp] theorem State.setStack_fresh (s : State) (j : Fin 16) (w : Stack) : (s.setStack j w).fresh = s.fresh := rfl
@[simp] theorem State.setStack_mem (s : State) (j : Fin 16) (w : Stack) : (s.setStack j w).mem = s.mem := rfl
@[simp] theorem State.setStack_poison (s : State) (j : Fin 16) (w : Stack) : (s.setStack j w).poison = s.poison := rfl
@[simp] theorem State.setStack_tags (s : State) (j : Fin 16) (w : Stack) : (s.setStack j w).tags = s.tags := rfl
@[simp] theorem State.setStack_cores (s : State) (j : Fin 16) (w : Stack) : (s.setStack j w).cores = s.cores := rfl
@[simp] theorem State.setStack_ls (s : State) (j : Fin 16) (w : Stack) : (s.setStack j w).ls = s.ls := rfl
@[simp] theorem State.setStack_nextCmd (s : State) (j : Fin 16) (w : Stack) : (s.setStack j w).nextCmd = s.nextCmd := rfl
@[simp] theorem State.setStack_bf (s : State) (j : Fin 16) (w : Stack) : (s.setStack j w).bf = s.bf := rfl
@[simp] theorem State.setStack_pow (s : State) (j : Fin 16) (w : Stack) : (s.setStack j w).pow = s.pow := rfl
@[simp] theorem State.setStack_dram (s : State) (j : Fin 16) (w : Stack) : (s.setStack j w).dram = s.dram := rfl
@[simp] theorem State.setStack_flips (s : State) (j : Fin 16) (w : Stack) : (s.setStack j w).flips = s.flips := rfl
@[simp] theorem State.setStack_links (s : State) (j : Fin 16) (w : Stack) : (s.setStack j w).links = s.links := rfl
@[simp] theorem State.setStack_host (s : State) (j : Fin 16) (w : Stack) : (s.setStack j w).host = s.host := rfl
@[simp] theorem State.setStack_svc (s : State) (j : Fin 16) (w : Stack) : (s.setStack j w).svc = s.svc := rfl

@[simp] theorem State.setPoison_clk (s : State) (k : Nat) (m : Option Mark) : (s.setPoison k m).clk = s.clk := rfl
@[simp] theorem State.setPoison_cur (s : State) (k : Nat) (m : Option Mark) : (s.setPoison k m).cur = s.cur := rfl
@[simp] theorem State.setPoison_sched (s : State) (k : Nat) (m : Option Mark) : (s.setPoison k m).sched = s.sched := rfl
@[simp] theorem State.setPoison_turn (s : State) (k : Nat) (m : Option Mark) : (s.setPoison k m).turn = s.turn := rfl
@[simp] theorem State.setPoison_fresh (s : State) (k : Nat) (m : Option Mark) : (s.setPoison k m).fresh = s.fresh := rfl
@[simp] theorem State.setPoison_mem (s : State) (k : Nat) (m : Option Mark) : (s.setPoison k m).mem = s.mem := rfl
@[simp] theorem State.setPoison_tags (s : State) (k : Nat) (m : Option Mark) : (s.setPoison k m).tags = s.tags := rfl
@[simp] theorem State.setPoison_cores (s : State) (k : Nat) (m : Option Mark) : (s.setPoison k m).cores = s.cores := rfl
@[simp] theorem State.setPoison_ls (s : State) (k : Nat) (m : Option Mark) : (s.setPoison k m).ls = s.ls := rfl
@[simp] theorem State.setPoison_stacks (s : State) (k : Nat) (m : Option Mark) : (s.setPoison k m).wstacks = s.wstacks := rfl
@[simp] theorem State.setPoison_nextCmd (s : State) (k : Nat) (m : Option Mark) : (s.setPoison k m).nextCmd = s.nextCmd := rfl
@[simp] theorem State.setPoison_bf (s : State) (k : Nat) (m : Option Mark) : (s.setPoison k m).bf = s.bf := rfl
@[simp] theorem State.setPoison_pow (s : State) (k : Nat) (m : Option Mark) : (s.setPoison k m).pow = s.pow := rfl
@[simp] theorem State.setPoison_dram (s : State) (k : Nat) (m : Option Mark) : (s.setPoison k m).dram = s.dram := rfl
@[simp] theorem State.setPoison_flips (s : State) (k : Nat) (m : Option Mark) : (s.setPoison k m).flips = s.flips := rfl
@[simp] theorem State.setPoison_links (s : State) (k : Nat) (m : Option Mark) : (s.setPoison k m).links = s.links := rfl
@[simp] theorem State.setPoison_host (s : State) (k : Nat) (m : Option Mark) : (s.setPoison k m).host = s.host := rfl
@[simp] theorem State.setPoison_svc (s : State) (k : Nat) (m : Option Mark) : (s.setPoison k m).svc = s.svc := rfl

@[simp] theorem State.setTag_clk (s : State) (k : Nat) (t : Tag) : (s.setTag k t).clk = s.clk := rfl
@[simp] theorem State.setTag_cur (s : State) (k : Nat) (t : Tag) : (s.setTag k t).cur = s.cur := rfl
@[simp] theorem State.setTag_sched (s : State) (k : Nat) (t : Tag) : (s.setTag k t).sched = s.sched := rfl
@[simp] theorem State.setTag_turn (s : State) (k : Nat) (t : Tag) : (s.setTag k t).turn = s.turn := rfl
@[simp] theorem State.setTag_fresh (s : State) (k : Nat) (t : Tag) : (s.setTag k t).fresh = s.fresh := rfl
@[simp] theorem State.setTag_mem (s : State) (k : Nat) (t : Tag) : (s.setTag k t).mem = s.mem := rfl
@[simp] theorem State.setTag_poison (s : State) (k : Nat) (t : Tag) : (s.setTag k t).poison = s.poison := rfl
@[simp] theorem State.setTag_cores (s : State) (k : Nat) (t : Tag) : (s.setTag k t).cores = s.cores := rfl
@[simp] theorem State.setTag_ls (s : State) (k : Nat) (t : Tag) : (s.setTag k t).ls = s.ls := rfl
@[simp] theorem State.setTag_stacks (s : State) (k : Nat) (t : Tag) : (s.setTag k t).wstacks = s.wstacks := rfl
@[simp] theorem State.setTag_nextCmd (s : State) (k : Nat) (t : Tag) : (s.setTag k t).nextCmd = s.nextCmd := rfl
@[simp] theorem State.setTag_bf (s : State) (k : Nat) (t : Tag) : (s.setTag k t).bf = s.bf := rfl
@[simp] theorem State.setTag_pow (s : State) (k : Nat) (t : Tag) : (s.setTag k t).pow = s.pow := rfl
@[simp] theorem State.setTag_dram (s : State) (k : Nat) (t : Tag) : (s.setTag k t).dram = s.dram := rfl
@[simp] theorem State.setTag_flips (s : State) (k : Nat) (t : Tag) : (s.setTag k t).flips = s.flips := rfl
@[simp] theorem State.setTag_links (s : State) (k : Nat) (t : Tag) : (s.setTag k t).links = s.links := rfl
@[simp] theorem State.setTag_host (s : State) (k : Nat) (t : Tag) : (s.setTag k t).host = s.host := rfl
@[simp] theorem State.setTag_svc (s : State) (k : Nat) (t : Tag) : (s.setTag k t).svc = s.svc := rfl

/-! ## Reading back -/

@[simp] theorem vget_set_same {α : Type} {n : Nat} (v : Vector α n) (i : Fin n) (x : α) : (v.set i.val x i.isLt).get i = x := by
  show (v.set i.val x i.isLt)[i.val] = x
  simp

theorem vget_set_ne {α : Type} {n : Nat} (v : Vector α n) (i j : Fin n) (x : α) (h : i ≠ j) :
    (v.set i.val x i.isLt).get j = v.get j := by
  have : i.val ≠ j.val := fun e => h (Fin.ext e)
  show (v.set i.val x i.isLt)[j.val] = v[j.val]
  simp [this]

@[simp] theorem vset_get {α : Type} {n : Nat} (v : Vector α n) (i : Fin n) : v.set i.val (v.get i) i.isLt = v := by
  show v.set i.val v[i.val] i.isLt = v
  simp

@[simp] theorem State.core_setCore (s : State) (k : Fin 16) (c : Core) : (s.setCore k c).core k = c := by
  simp [State.core, State.setCore]

theorem State.core_setCore_ne (s : State) {k j : Fin 16} (c : Core) (h : k ≠ j) : (s.setCore k c).core j = s.core j := by
  simp [State.core, State.setCore, vget_set_ne _ _ _ _ h]

@[simp] theorem State.setCore_setCore (s : State) (k : Fin 16) (c d : Core) : (s.setCore k c).setCore k d = s.setCore k d := by
  simp [State.setCore]

@[simp] theorem State.setCore_core (s : State) (k : Fin 16) : s.setCore k (s.core k) = s := by
  simp [State.setCore, State.core]

@[simp] theorem coreBank_setCoreBank (c : Core) (x : Bool) (b : Bank) : coreBank (setCoreBank c x b) x = b := by
  cases x <;> rfl

@[simp] theorem coreBank_setCoreBank_not (c : Core) (x : Bool) (b : Bank) : coreBank (setCoreBank c x b) (!x) = coreBank c (!x) := by
  cases x <;> rfl

@[simp] theorem setCoreBank_setCoreBank (c : Core) (x : Bool) (a b : Bank) :
    setCoreBank (setCoreBank c x a) x b = setCoreBank c x b := by
  cases x <;> rfl

@[simp] theorem setCoreBank_coreBank (c : Core) (x : Bool) : setCoreBank c x (coreBank c x) = c := by
  cases x <;> rfl

@[simp] theorem setCoreBank_second (c : Core) (x : Bool) (b : Bank) : (setCoreBank c x b).second = c.second := by
  cases x <;> rfl

@[simp] theorem setCoreBank_seq (c : Core) (x : Bool) (b : Bank) : (setCoreBank c x b).seq = c.seq := by
  cases x <;> rfl

@[simp] theorem State.bankAt_setBankAt (s : State) (k : Fin 16) (x : Bool) (b : Bank) : (s.setBankAt k x b).bankAt k x = b := by
  simp [State.bankAt, State.setBankAt]

@[simp] theorem State.setBankAt_setBankAt (s : State) (k : Fin 16) (x : Bool) (a b : Bank) :
    (s.setBankAt k x a).setBankAt k x b = s.setBankAt k x b := by
  simp [State.setBankAt]

@[simp] theorem State.core_setActive_second (s : State) (k : Fin 16) (b : Bank) :
    ((s.setActive k b).core k).second = (s.core k).second := by
  simp [State.setActive, State.setBankAt]

@[simp] theorem State.active_setActive (s : State) (k : Fin 16) (b : Bank) : (s.setActive k b).active k = b := by
  rw [State.active, State.core_setActive_second, State.setActive, State.bankAt_setBankAt]

@[simp] theorem State.setActive_setActive (s : State) (k : Fin 16) (a b : Bank) :
    (s.setActive k a).setActive k b = s.setActive k b := by
  rw [State.setActive, State.core_setActive_second, State.setActive, State.setBankAt_setBankAt, ← State.setActive]

@[simp] theorem State.setActive_active (s : State) (k : Fin 16) : s.setActive k (s.active k) = s := by
  simp [State.setActive, State.active, State.setBankAt, State.bankAt]

@[simp] theorem State.bk_setBk (s : State) (b : Bank) : (s.setBk b).bk = b := State.active_setActive s s.cur b

@[simp] theorem State.setBk_setBk (s : State) (a b : Bank) : (s.setBk a).setBk b = s.setBk b :=
  State.setActive_setActive s s.cur a b

@[simp] theorem State.setBk_bk (s : State) : s.setBk s.bk = s := State.setActive_active s s.cur

@[simp] theorem State.launch_setLaunch (s : State) (i : Fin 16) (l : Option Launch) : (s.setLaunch i l).launch i = l := by
  simp [State.launch, State.setLaunch]

@[simp] theorem State.stack_setStack (s : State) (j : Fin 16) (w : Stack) : (s.setStack j w).stack j = w := by
  simp [State.stack, State.setStack]

@[simp] theorem State.byteAt_setBk (s : State) (b : Bank) (a : Nat) : (s.setBk b).byteAt a = s.byteAt a := rfl

@[simp] theorem State.byteAt_setCore (s : State) (k : Fin 16) (c : Core) (a : Nat) : (s.setCore k c).byteAt a = s.byteAt a := rfl

@[simp] theorem State.byteAt_setLaunch (s : State) (i : Fin 16) (l : Option Launch) (a : Nat) :
    (s.setLaunch i l).byteAt a = s.byteAt a := rfl

@[simp] theorem State.launch_setBk (s : State) (b : Bank) (i : Fin 16) : (s.setBk b).launch i = s.launch i := rfl

/-! ## Scalar registers (R159) -/

theorem getReg_putReg (b : Bank) (r q : Reg) (v : Word) :
    getReg (putReg b r v) q = if q = r ∧ r ≠ 0#6 then v else getReg b q := by
  unfold getReg putReg
  by_cases hr : r = 0#6
  · simp [hr]
  · by_cases hq : q = 0#6
    · subst hq
      have : ¬(0#6 = r) := fun e => hr e.symm
      simp [this]
    · by_cases e : q = r
      · subst e; simp [hr]
      · have hv : regIx r ≠ regIx q := fun h => e (BitVec.eq_of_toNat_eq (congrArg Fin.val h).symm)
        simp [hr, hq, e, vget_set_ne _ _ _ _ hv]

@[simp] theorem getReg_zero (b : Bank) : getReg b 0#6 = 0 := rfl

end Sys2Proof.Machine
end

