-- ==== Sys2Proof/Laws/Memory.lean ====
section
/-!
SUPPORT. The byte memory (R108): every write keeps the canonical form, a read after a write gives the value written,
and a write leaves every other byte alone.
-/
namespace Sys2Proof.Machine

/-! ## The canonical form as a pairwise order -/

/-- The canonical form: keys rise strictly, and no cell holds the unlisted value. -/
def Memory.Sorted (m : List Host.Cell) : Prop :=
  m.Pairwise (fun a b => a.1 < b.1) ∧ ∀ c ∈ m, c.2 ≠ unlistedByte

theorem Memory.wf_iff (m : List Host.Cell) : Memory.wf m = true ↔ Memory.Sorted m := by
  induction m with
  | nil => simp [Memory.wf, Memory.Sorted]
  | cons a r ih =>
    obtain ⟨k, b⟩ := a
    cases r with
    | nil => simp [Memory.wf, Memory.Sorted]
    | cons c r =>
      obtain ⟨k', b'⟩ := c
      simp only [Memory.wf, Bool.and_eq_true, ih, bne_iff_ne, decide_eq_true_eq]
      constructor
      · rintro ⟨⟨hb, hk⟩, hp, hv⟩
        refine ⟨List.pairwise_cons.2 ⟨?_, hp⟩, ?_⟩
        · intro c hc
          rcases List.mem_cons.1 hc with rfl | hc
          · exact hk
          · exact Nat.lt_trans hk ((List.pairwise_cons.1 hp).1 c hc)
        · intro c hc
          rcases List.mem_cons.1 hc with rfl | hc
          · exact hb
          · exact hv c hc
      · rintro ⟨hp, hv⟩
        have h := List.pairwise_cons.1 hp
        exact ⟨⟨hv _ (List.mem_cons_self ..), h.1 _ (List.mem_cons_self ..)⟩, h.2,
          fun c hc => hv c (List.mem_cons_of_mem _ hc)⟩

theorem memCells_bounds (k : Nat) (bs : List Byte) : ∀ c ∈ memCells k bs, k ≤ c.1 ∧ c.1 < k + bs.length ∧ c.2 ≠ unlistedByte := by
  induction bs generalizing k with
  | nil => simp [memCells]
  | cons b r ih =>
    intro c hc
    unfold memCells at hc
    simp only [List.length_cons]
    split at hc
    · obtain ⟨h1, h2, h3⟩ := ih (k + 1) c hc
      exact ⟨by omega, by omega, h3⟩
    · rcases List.mem_cons.1 hc with rfl | hc
      · exact ⟨Nat.le_refl _, by simp, by assumption⟩
      · obtain ⟨h1, h2, h3⟩ := ih (k + 1) c hc
        exact ⟨by omega, by omega, h3⟩

theorem memCells_sorted (k : Nat) (bs : List Byte) : Memory.Sorted (memCells k bs) := by
  refine ⟨?_, fun c hc => (memCells_bounds k bs c hc).2.2⟩
  induction bs generalizing k with
  | nil => simp [memCells]
  | cons b r ih =>
    unfold memCells
    split
    · exact ih _
    · refine List.pairwise_cons.2 ⟨fun c hc => ?_, ih _⟩
      have := (memCells_bounds (k + 1) r c hc).1
      simp only
      omega

/-- A write keeps the canonical form. -/
theorem memWrite_wf (m : List Host.Cell) (k : Nat) (bs : List Byte) (h : Memory.wf m = true) :
    Memory.wf (memWrite m k bs) = true := by
  rw [Memory.wf_iff] at h ⊢
  obtain ⟨hp, hv⟩ := h
  have hc := memCells_bounds k bs
  refine ⟨?_, ?_⟩
  · unfold memWrite
    rw [List.pairwise_append, List.pairwise_append]
    refine ⟨⟨hp.filter _, (memCells_sorted k bs).1, ?_⟩, hp.filter _, ?_⟩
    · intro a ha b hb
      have h1 := (List.mem_filter.1 ha).2
      have h2 := (hc b hb).1
      simp only [decide_eq_true_eq] at h1
      omega
    · intro a ha b hb
      have h2 := (List.mem_filter.1 hb).2
      simp only [decide_eq_true_eq] at h2
      rcases List.mem_append.1 ha with ha | ha
      · have h1 := (List.mem_filter.1 ha).2
        simp only [decide_eq_true_eq] at h1
        omega
      · have h1 := (hc a ha).2.1
        omega
  · intro c h
    unfold memWrite at h
    rcases List.mem_append.1 h with h | h
    · rcases List.mem_append.1 h with h | h
      · exact hv c (List.mem_filter.1 h).1
      · exact (hc c h).2.2
    · exact hv c (List.mem_filter.1 h).1

/-! ## Reads after writes -/

theorem amapGet_append {β : Type} (l r : List (Nat × β)) (k : Nat) :
    amapGet (l ++ r) k = (amapGet l k).or (amapGet r k) := by
  induction l with
  | nil => simp [amapGet]
  | cons a l ih =>
    obtain ⟨j, v⟩ := a
    simp only [List.cons_append, amapGet]
    split
    · simp
    · exact ih

theorem amapGet_none {β : Type} (l : List (Nat × β)) (k : Nat) (h : ∀ c ∈ l, c.1 ≠ k) : amapGet l k = none := by
  induction l with
  | nil => rfl
  | cons a l ih =>
    obtain ⟨j, v⟩ := a
    have hj : ¬j = k := h _ (List.mem_cons_self ..)
    simp only [amapGet, if_neg hj]
    exact ih (fun c hc => h c (List.mem_cons_of_mem _ hc))

theorem amapGet_filter {β : Type} (l : List (Nat × β)) (p : Nat × β → Bool) (k : Nat)
    (h : ∀ v, p (k, v) = true) : amapGet (l.filter p) k = amapGet l k := by
  induction l with
  | nil => rfl
  | cons a l ih =>
    obtain ⟨j, v⟩ := a
    by_cases hj : j = k
    · subst hj
      simp [amapGet, h v]
    · by_cases hp : p (j, v) = true
      · simp only [List.filter_cons, hp, if_true, amapGet, if_neg hj]
        exact ih
      · simp only [List.filter_cons, hp, amapGet, if_neg hj]
        exact ih

/-- A byte outside a write reads as before. -/
theorem memRead_memWrite_out (m : List Host.Cell) (k : Nat) (bs : List Byte) (a : Nat)
    (h : a < k ∨ k + bs.length ≤ a) : memRead (memWrite m k bs) a = memRead m a := by
  have hc : amapGet (memCells k bs) a = none :=
    amapGet_none _ _ (fun c hc => by have := memCells_bounds k bs c hc; omega)
  unfold memRead memWrite
  rw [amapGet_append, amapGet_append, hc]
  rcases h with h | h
  · rw [amapGet_filter m _ a (fun v => by simpa using h),
      amapGet_none (m.filter (fun c => k + bs.length ≤ c.1)) a (fun c hc => by
        have := (List.mem_filter.1 hc).2
        simp only [decide_eq_true_eq] at this
        omega)]
    simp
  · rw [amapGet_filter m (fun c => k + bs.length ≤ c.1) a (fun v => by simpa using h),
      amapGet_none (m.filter (fun c => c.1 < k)) a (fun c hc => by
        have := (List.mem_filter.1 hc).2
        simp only [decide_eq_true_eq] at this
        omega)]
    simp

theorem amapGet_memCells (k : Nat) (bs : List Byte) (i : Nat) (h : i < bs.length) :
    (amapGet (memCells k bs) (k + i)).getD unlistedByte = bs[i] := by
  induction bs generalizing k i with
  | nil => simp at h
  | cons b r ih =>
    cases i with
    | zero =>
      unfold memCells
      split
      · rename_i hb
        rw [amapGet_none _ _ (fun c hc => by have := memCells_bounds (k + 1) r c hc; omega)]
        simp [hb]
      · simp [amapGet]
    | succ i =>
      have hi : i < r.length := by simpa using h
      have e : k + (i + 1) = k + 1 + i := by omega
      unfold memCells
      split
      · rw [e, ih (k + 1) i hi]
        simp
      · have : ¬k = k + (i + 1) := by omega
        simp only [amapGet, if_neg this]
        rw [e, ih (k + 1) i hi]
        simp

/-- A byte of a write reads as written. -/
theorem memRead_memWrite_in (m : List Host.Cell) (k : Nat) (bs : List Byte) (i : Nat) (h : i < bs.length) :
    memRead (memWrite m k bs) (k + i) = bs[i] := by
  unfold memRead memWrite
  rw [amapGet_append, amapGet_append,
    amapGet_none (m.filter (fun c => c.1 < k)) (k + i) (fun c hc => by
      have := (List.mem_filter.1 hc).2
      simp only [decide_eq_true_eq] at this
      omega),
    amapGet_none (m.filter (fun c => k + bs.length ≤ c.1)) (k + i) (fun c hc => by
      have := (List.mem_filter.1 hc).2
      simp only [decide_eq_true_eq] at this
      omega)]
  simpa using amapGet_memCells k bs i h

theorem memReadN_length (m : List Host.Cell) (k n : Nat) : (memReadN m k n).length = n := by
  induction n generalizing k with
  | zero => rfl
  | succ n ih => simp [memReadN, ih]

theorem memReadN_getElem (m : List Host.Cell) (k n i : Nat) (h : i < (memReadN m k n).length) :
    (memReadN m k n)[i] = memRead m (k + i) := by
  induction n generalizing k i with
  | zero => simp [memReadN] at h
  | succ n ih =>
    cases i with
    | zero => simp [memReadN]
    | succ i =>
      simp only [memReadN, List.getElem_cons_succ]
      rw [ih (k + 1) i]
      congr 1
      omega

/-- Reading back a whole write gives the bytes written. -/
theorem memReadN_memWrite (m : List Host.Cell) (k : Nat) (bs : List Byte) :
    memReadN (memWrite m k bs) k bs.length = bs := by
  apply List.ext_getElem
  · exact memReadN_length _ _ _
  · intro i h1 h2
    rw [memReadN_getElem, memRead_memWrite_in _ _ _ _ h2]

/-! ## Stores of the module (R108, R460) -/

theorem toBytes_length (n v : Nat) : (toBytes n v).length = n := by
  induction n generalizing v with
  | zero => rfl
  | succ n ih => simp [toBytes, ih]

theorem ofBytes_toBytes (n v : Nat) : ofBytes (toBytes n v) = v % 256 ^ n := by
  induction n generalizing v with
  | zero => simp [toBytes, ofBytes, Nat.mod_one]
  | succ n ih =>
    have e : (2 : Nat) ^ 8 = 256 := rfl
    simp only [toBytes, ofBytes, ih, BitVec.toNat_ofNat, e]
    rw [Nat.pow_succ, Nat.mul_comm _ 256, Nat.mod_mul]

/-- A store to a port that works writes memory, keeping its canonical form. -/
theorem State.store_mem (s : State) (k : Nat) (bs : List Byte) (h : portFailedAt s k = false) :
    (s.store k bs).mem = memWrite s.mem k bs := by
  simp [State.store, h]

theorem State.store_wf (s : State) (k : Nat) (bs : List Byte) (h : Memory.wf s.mem = true) :
    Memory.wf (s.store k bs).mem = true := by
  unfold State.store
  split
  · exact h
  · exact memWrite_wf _ _ _ h

/-- A store leaves every byte outside it alone. -/
theorem State.store_byteAt_out (s : State) (k : Nat) (bs : List Byte) (a : Nat) (h : a < k ∨ k + bs.length ≤ a) :
    (s.store k bs).byteAt a = s.byteAt a := by
  unfold State.store State.byteAt
  split
  · rfl
  · exact memRead_memWrite_out _ _ _ _ h

/-- A store leaves the banks of every core alone. -/
theorem State.store_cores (s : State) (k : Nat) (bs : List Byte) : (s.store k bs).cores = s.cores := by
  unfold State.store
  split <;> rfl

end Sys2Proof.Machine
end

