-- ==== Sys2Proof/Laws/Ops.lean ====
section
/-!
SUPPORT. What the shared operations of the control core can do (R151, R159, R171, R174): retirement changes only the
PC, REPC and the loop state; a register write changes one register beside; `finish` answers a next state always;
in a quiet state every slice answers (R446).
-/
namespace Sys2Proof.Machine

theorem onlyBank_setBk (s : State) (b : Bank) : OnlyBank s (s.setBk b) := ⟨by simp, fun _ => rfl⟩

theorem OnlyRegs.trans {a b c : Bank} (h : OnlyRegs a b) (h' : OnlyRegs b c) : OnlyRegs a c := by
  unfold OnlyRegs at *
  rw [h', h]

theorem getReg_of_x {b c : Bank} (h : c.x = b.x) (r : Reg) : getReg c r = getReg b r := by
  unfold getReg
  rw [h]

theorem putReg_onlyRegs (b : Bank) (r : Reg) (v : Word) : OnlyRegs b (putReg b r v) := by
  unfold putReg
  split <;> rfl

theorem loopEnd_frame (b : Bank) (l : Fin 4) : OnlyRegs b (loopEnd b l).1 ∧ (loopEnd b l).1.x = b.x := by
  unfold loopEnd putLoop
  generalize getLoop b l = v
  extract_lets lc v' n rrb sp b'
  split
  · exact ⟨rfl, rfl⟩
  · exact ⟨rfl, rfl⟩

theorem endTests_frame (next : Word) (l : List (Fin 4)) (b : Bank) :
    OnlyRegs b (endTests next l b) ∧ (endTests next l b).x = b.x := by
  induction l generalizing b with
  | nil => exact ⟨rfl, rfl⟩
  | cons a r ih =>
    have h := loopEnd_frame b a
    unfold endTests
    dsimp only
    split
    · split
      · exact h
      · exact ⟨h.1.trans (ih _).1, (ih _).2.trans h.2⟩
    · exact ih b

theorem fallThrough_frame (b : Bank) (n : Word) : OnlyRegs b (fallThrough b n) ∧ (fallThrough b n).x = b.x := by
  unfold fallThrough
  split
  · exact ⟨rfl, rfl⟩
  · have h := endTests_frame n [3, 2, 1, 0] { b with pc := n }
    exact ⟨OnlyRegs.trans (b := { b with pc := n }) rfl h.1, h.2⟩

/-- Retirement leaves every scalar register, and all of a bank but the PC, REPC and the loop state, as it was. -/
theorem retireBank_frame (b : Bank) (n : Nat) : OnlyRegs b (retireBank b n) ∧ (retireBank b n).x = b.x := by
  unfold retireBank
  dsimp only
  split
  · exact ⟨rfl, rfl⟩
  · split
    · exact fallThrough_frame _ _
    · split
      · have h := fallThrough_frame { b with repc := 0 } (b.pc + BitVec.ofNat 64 (4 * n))
        exact ⟨OnlyRegs.trans (b := { b with repc := 0 }) rfl h.1, h.2⟩
      · exact ⟨rfl, rfl⟩

theorem retireBank_getReg (b : Bank) (n : Nat) (r : Reg) : getReg (retireBank b n) r = getReg b r :=
  getReg_of_x (retireBank_frame b n).2 r

/-- `writeReg` writes one register and retires. -/
theorem writeReg_spec (s : State) (rd : Reg) (v : Word) :
    OnlyBank s (writeReg s rd v) ∧ OnlyRegs s.bk (writeReg s rd v).bk ∧ Puts s.bk (writeReg s rd v).bk rd v := by
  refine ⟨onlyBank_setBk s _, ?_, fun r => ?_⟩
  · simp only [writeReg, State.bk_setBk]
    exact (putReg_onlyRegs s.bk rd v).trans (retireBank_frame _ 1).1
  · simp only [writeReg, State.bk_setBk]
    rw [retireBank_getReg, getReg_putReg]

/-- An instruction whose meaning is a register write. -/
theorem writesReg_of (i : Instr) (s : State) (rd : Reg) (v w : Word) (h : exec i s = .next (writeReg s rd v))
    (e : v = w) : WritesReg i s rd w :=
  e ▸ ⟨_, h, writeReg_spec s rd v⟩

/-! ## Faults (R151, R161) -/

theorem packFLTC_code (c : FaultCode) (src : BitVec 3) (isl : BitVec 6) (p : Bool) :
    bits (packFLTC c src isl p) 0 8 = c.byte := by
  apply BitVec.eq_of_getLsbD_eq
  intro i hi
  have h : (if p then (0x400000#64) else 0).getLsbD i = false := by
    cases p
    · simp
    · exact (by decide : ∀ i, i < 8 → (0x400000#64).getLsbD i = false) i hi
  simp only [bits, packFLTC, BitVec.getLsbD_extractLsb', BitVec.getLsbD_or, BitVec.getLsbD_shiftLeft,
    BitVec.getLsbD_setWidth, Nat.zero_add, h]
  simp [show i < 64 by omega, show i < 8 by omega, show i < 16 by omega]

theorem packFLTC_src (c : FaultCode) (src : BitVec 3) (isl : BitVec 6) (p : Bool) :
    bits (packFLTC c src isl p) 8 3 = src := by
  apply BitVec.eq_of_getLsbD_eq
  intro i hi
  have h : (if p then (0x400000#64) else 0).getLsbD (8 + i) = false := by
    cases p
    · simp
    · exact (by decide : ∀ i, i < 3 → (0x400000#64).getLsbD (8 + i) = false) i hi
  simp only [bits, packFLTC, BitVec.getLsbD_extractLsb', BitVec.getLsbD_or, BitVec.getLsbD_shiftLeft,
    BitVec.getLsbD_setWidth, h]
  simp [show 8 + i < 64 by omega, show ¬8 + i < 8 by omega, show 8 + i < 16 by omega, show i < 64 by omega, show i < 3 by omega,
    BitVec.getLsbD_of_ge]

/-- In user mode a fault enters the supervisor. -/
theorem takeFault_user (s : State) (e : Exc) (h : s.bk.mode = .user) :
    takeFault s e = s.setBk (enterSupervisor s.bk e) := by
  simp [takeFault, h]

/-- A control instruction that faults with no load outstanding takes the fault. -/
theorem finish_flt (s : State) (e : Exc) (h : s.bk.loads = []) : finish s (.error (.flt e)) = .next (takeFault s e) := by
  simp [finish, h]

/-! ## Slices that answer (R440, R445, R446) -/

@[simp] theorem parked_setBk (s : State) (b : Bank) (k : Fin 16) : ((s.setBk b).core k).parked = (s.core k).parked := by
  unfold State.setBk State.setActive State.setBankAt
  by_cases h : s.cur = k
  · subst h
    rw [State.core_setCore]
    cases (s.core s.cur).second <;> rfl
  · rw [State.core_setCore_ne _ _ h]

@[simp] theorem shutCore_setBk (s : State) (b : Bank) (k : Fin 16) : shutCore (s.setBk b) k = shutCore s k := by
  rw [shutCore, parked_setBk]
  rfl

theorem State.Quiet.setBk {s : State} (h : s.Quiet) (b : Bank) : (s.setBk b).Quiet :=
  ⟨h.1, h.2.1, h.2.2.1, fun k => (shutCore_setBk s b k).trans (h.2.2.2 k)⟩

theorem State.Quiet.clStalled {s : State} (h : s.Quiet) (k : Fin 16) : clStalled s k = false :=
  (Bool.or_eq_false_iff.mp (h.2.2.2 k)).2

theorem State.Quiet.shutAt {s : State} (h : s.Quiet) (l : List Nat) : shutAt s l = [] := by
  simp [Machine.shutAt, h.2.2]

theorem State.Quiet.sliceReady {s : State} (h : s.Quiet) (a : Nat) : sliceReady s a = .ok () := by
  rw [Machine.sliceReady, h.shutAt]

theorem State.Quiet.shutIn {s : State} (h : s.Quiet) (rs : List Region) : shutIn s rs = [] := by
  simp [Machine.shutIn, h.2.2]

theorem State.Quiet.whenOpen {s : State} (h : s.Quiet) (rs : List Region) (f : State → State) : whenOpen s rs f = f s := by
  rw [Machine.whenOpen, h.shutIn]

/-! ## Reads that meet no injected error (R475) -/

theorem State.Quiet.armedSlots {s : State} (h : s.Quiet) (kind : Nat) (hit : Inj → Bool) : armedSlots s kind hit = [] := by
  simp [Machine.armedSlots, h.1]

theorem State.Quiet.probeArray {s : State} (h : s.Quiet) (k : Fin 16) (arr : Nat) (rd : Nat → Bool) (ctx : Word)
    (mark : State → Nat → Mark → State) : probeArray s k arr rd ctx mark = s := by
  simp [Machine.probeArray, probeWords, h.armedSlots]

theorem State.Quiet.probePL {s : State} (h : s.Quiet) (j : Fin 16) (arr off n : Nat) (ctx : Word)
    (mark : State → Nat → Mark → State) : probePL s j arr off n ctx mark = s := by
  simp [Machine.probePL, probeWords, h.armedSlots]

/-- In a quiet state a read at a key changes nothing. -/
theorem State.Quiet.probe {s : State} (h : s.Quiet) (key n : Nat) (ctx : Word) : s.probe key n ctx = s := by
  have hp : portFailedAt s key = false := by
    unfold portFailedAt
    split <;> simp [h.2.2.1, bit]
  unfold State.probe
  split
  · simp [hp, probeDram, h.armedSlots, h.2.1]
  · exact h.probeArray ..

/-- In a quiet state a read returns the bytes of memory. -/
theorem State.Quiet.readBytes {s : State} (h : s.Quiet) (k n : Nat) : s.readBytes k n = s.bytesAt k n := by
  simp [State.readBytes, h.armedSlots, h.2.1]

/-! ## The poison of vector registers (R109, R243) -/

/-- The registers an entry reads do not depend on its mask: `vregsRead` names those of `laneSrcs`. -/
theorem laneSrcs_regs (e : Entry) (m : MaskReg) (ix : Img) : (laneSrcs e m ix).map Prod.fst = vregsRead e := by
  unfold vregsRead laneSrcs
  dsimp only
  split <;> simp only [List.map_append, apply_ite (List.map Prod.fst), List.map_cons, List.map_nil]

/-- An entry that reads no poisoned register meets no poison, whatever lanes it reads. -/
theorem vregPoison_none (v : VecState) (e : Entry) (m : MaskReg) (ix : Img)
    (h : ∀ r ∈ vregsRead e, amapGet v.vmark r = none) : vregPoison v (laneSrcs e m ix) = none := by
  rw [← laneSrcs_regs e m ix] at h
  simp only [vregPoison, List.findSome?_eq_none_iff]
  exact fun p hp => by simp [h p.1 (List.mem_map_of_mem hp)]

/-! ## Stores (R185) -/

/-- A store in a quiet machine that passes the footprint and tag checks: what `issueStore` and `postStore` go through. -/
theorem State.Quiet.storeChecked {s s' : State} (h : s.Quiet) (t : Target) (z : Nat)
    (hf : footprintCheck s.bk t z true = .ok ()) (ht : s.checkTag t (s.phaseOf s.bk) s.cur true = some s') :
    storeChecked s t z true = .ok (s'.setDirty s.bk t.va) := by
  simp [Machine.storeChecked, hf, h.sliceReady, ht]

/-- With no posted store nothing waits for one. -/
theorem storeWaits_nil (i : Instr) (s : State) (h : s.bk.posted = []) : storeWaits i s = false := by
  unfold storeWaits
  exact if_pos (by rw [h]; rfl)

end Sys2Proof.Machine
end

