-- ==== Sys2Proof/Laws/PerInstr.lean ====
section
/-!
SUPPORT. What is said of each instruction as syntax, one lemma for each constructor. The family `Words`: a well-formed
instruction has two words where bit 31 of its first word is set, and one word where it is clear (R31).
-/
namespace Sys2Proof.Laws
open Sys2Proof Sys2Proof.Machine

/-- R31: bit 31 of the first word says how many words an instruction has. -/
def Words.Statement (i : Instr) : Prop :=
  i.wf = true → (encode i).length = if twoWords ((encode i).headD 0) then 2 else 1

/-! The bit of each format (R35, R36). -/

@[simp] theorem twoWords_encR (op rd ra rb f7) : twoWords (encR op rd ra rb f7) = false := by
  simp only [twoWords, encR, bit, BitVec.getLsbD_append]; simp
@[simp] theorem twoWords_encQ (op rd ra rb rc f) : twoWords (encQ op rd ra rb rc f) = false := by
  simp only [twoWords, encQ, bit, BitVec.getLsbD_append]; simp
@[simp] theorem twoWords_encI (op rd ra imm) : twoWords (encI op rd ra imm) = false := by
  simp only [twoWords, encI, bit, BitVec.getLsbD_append]; simp
@[simp] theorem twoWords_encIL (op rd imm) : twoWords (encIL op rd imm) = false := by
  simp only [twoWords, encIL, bit, BitVec.getLsbD_append]; simp
@[simp] theorem twoWords_encJ (op off) : twoWords (encJ op off) = false := by
  simp only [twoWords, encJ, bit, BitVec.getLsbD_append]; simp
@[simp] theorem twoWords_encM (op rd base size off) : twoWords (encM op rd base size off) = false := by
  simp only [twoWords, encM, bit, BitVec.getLsbD_append]; simp
@[simp] theorem twoWords_encL (op lvl p low) : twoWords (encL op lvl p low) = false := by
  simp only [twoWords, encL, bit, BitVec.getLsbD_append]; simp
@[simp] theorem twoWords_encHead (eng opc h) : twoWords (encHead eng opc h) = true := by
  simp only [twoWords, encHead, bit, BitVec.getLsbD_append]; simp

theorem one_word {i : Instr} {w : IWord} (h : encode i = [w]) (b : twoWords w = false) : Words.Statement i := by
  intro _; simp [h, b]
theorem two_words {i : Instr} {w v : IWord} (h : encode i = [w, v]) (b : twoWords w = true) : Words.Statement i := by
  intro _; simp [h, b]
theorem no_words {i : Instr} (h : i.wf = false) : Words.Statement i := by
  intro h'; simp [h] at h'

theorem Words.add (rd : Reg) (ra : Reg) (rb : Reg) : Words.Statement (.add rd ra rb) := one_word rfl (twoWords_encR ..)
theorem Words.sub (rd : Reg) (ra : Reg) (rb : Reg) : Words.Statement (.sub rd ra rb) := one_word rfl (twoWords_encR ..)
theorem Words.mul (rd : Reg) (ra : Reg) (rb : Reg) : Words.Statement (.mul rd ra rb) := one_word rfl (twoWords_encR ..)
theorem Words.mulh (rd : Reg) (ra : Reg) (rb : Reg) : Words.Statement (.mulh rd ra rb) := one_word rfl (twoWords_encR ..)
theorem Words.mulhu (rd : Reg) (ra : Reg) (rb : Reg) : Words.Statement (.mulhu rd ra rb) := one_word rfl (twoWords_encR ..)
theorem Words.div (rd : Reg) (ra : Reg) (rb : Reg) : Words.Statement (.div rd ra rb) := one_word rfl (twoWords_encR ..)
theorem Words.divu (rd : Reg) (ra : Reg) (rb : Reg) : Words.Statement (.divu rd ra rb) := one_word rfl (twoWords_encR ..)
theorem Words.rem (rd : Reg) (ra : Reg) (rb : Reg) : Words.Statement (.rem rd ra rb) := one_word rfl (twoWords_encR ..)
theorem Words.remu (rd : Reg) (ra : Reg) (rb : Reg) : Words.Statement (.remu rd ra rb) := one_word rfl (twoWords_encR ..)
theorem Words.and (rd : Reg) (ra : Reg) (rb : Reg) : Words.Statement (.and rd ra rb) := one_word rfl (twoWords_encR ..)
theorem Words.or (rd : Reg) (ra : Reg) (rb : Reg) : Words.Statement (.or rd ra rb) := one_word rfl (twoWords_encR ..)
theorem Words.xor (rd : Reg) (ra : Reg) (rb : Reg) : Words.Statement (.xor rd ra rb) := one_word rfl (twoWords_encR ..)
theorem Words.andn (rd : Reg) (ra : Reg) (rb : Reg) : Words.Statement (.andn rd ra rb) := one_word rfl (twoWords_encR ..)
theorem Words.shl (rd : Reg) (ra : Reg) (rb : Reg) : Words.Statement (.shl rd ra rb) := one_word rfl (twoWords_encR ..)
theorem Words.shr (rd : Reg) (ra : Reg) (rb : Reg) : Words.Statement (.shr rd ra rb) := one_word rfl (twoWords_encR ..)
theorem Words.sar (rd : Reg) (ra : Reg) (rb : Reg) : Words.Statement (.sar rd ra rb) := one_word rfl (twoWords_encR ..)
theorem Words.min (rd : Reg) (ra : Reg) (rb : Reg) : Words.Statement (.min rd ra rb) := one_word rfl (twoWords_encR ..)
theorem Words.max (rd : Reg) (ra : Reg) (rb : Reg) : Words.Statement (.max rd ra rb) := one_word rfl (twoWords_encR ..)
theorem Words.minu (rd : Reg) (ra : Reg) (rb : Reg) : Words.Statement (.minu rd ra rb) := one_word rfl (twoWords_encR ..)
theorem Words.maxu (rd : Reg) (ra : Reg) (rb : Reg) : Words.Statement (.maxu rd ra rb) := one_word rfl (twoWords_encR ..)
theorem Words.slt (rd : Reg) (ra : Reg) (rb : Reg) : Words.Statement (.slt rd ra rb) := one_word rfl (twoWords_encR ..)
theorem Words.sltu (rd : Reg) (ra : Reg) (rb : Reg) : Words.Statement (.sltu rd ra rb) := one_word rfl (twoWords_encR ..)
theorem Words.clz (rd : Reg) (ra : Reg) : Words.Statement (.clz rd ra) := one_word rfl (twoWords_encR ..)
theorem Words.ctz (rd : Reg) (ra : Reg) : Words.Statement (.ctz rd ra) := one_word rfl (twoWords_encR ..)
theorem Words.popc (rd : Reg) (ra : Reg) : Words.Statement (.popc rd ra) := one_word rfl (twoWords_encR ..)
theorem Words.addi (rd : Reg) (ra : Reg) (imm : BitVec 13) : Words.Statement (.addi rd ra imm) := one_word rfl (twoWords_encI ..)
theorem Words.andi (rd : Reg) (ra : Reg) (imm : BitVec 13) : Words.Statement (.andi rd ra imm) := one_word rfl (twoWords_encI ..)
theorem Words.ori (rd : Reg) (ra : Reg) (imm : BitVec 13) : Words.Statement (.ori rd ra imm) := one_word rfl (twoWords_encI ..)
theorem Words.xori (rd : Reg) (ra : Reg) (imm : BitVec 13) : Words.Statement (.xori rd ra imm) := one_word rfl (twoWords_encI ..)
theorem Words.slti (rd : Reg) (ra : Reg) (imm : BitVec 13) : Words.Statement (.slti rd ra imm) := one_word rfl (twoWords_encI ..)
theorem Words.shli (rd : Reg) (ra : Reg) (n : BitVec 6) : Words.Statement (.shli rd ra n) := one_word rfl (twoWords_encI ..)
theorem Words.shri (rd : Reg) (ra : Reg) (n : BitVec 6) : Words.Statement (.shri rd ra n) := one_word rfl (twoWords_encI ..)
theorem Words.sari (rd : Reg) (ra : Reg) (n : BitVec 6) : Words.Statement (.sari rd ra n) := one_word rfl (twoWords_encI ..)
theorem Words.lui (rd : Reg) (imm : BitVec 19) : Words.Statement (.lui rd imm) := one_word rfl (twoWords_encIL ..)
theorem Words.imad (rd : Reg) (ra : Reg) (rb : Reg) (rc : Reg) : Words.Statement (.imad rd ra rb rc) := one_word rfl (twoWords_encQ ..)
theorem Words.sel (rd : Reg) (ra : Reg) (rb : Reg) (rc : Reg) : Words.Statement (.sel rd ra rb rc) := one_word rfl (twoWords_encQ ..)
theorem Words.bfx (rd : Reg) (ra : Reg) (pos : BitVec 6) (lenM1 : BitVec 6) : Words.Statement (.bfx rd ra pos lenM1) := one_word rfl (twoWords_encI ..)
theorem Words.bfi (rd : Reg) (ra : Reg) (pos : BitVec 6) (lenM1 : BitVec 6) : Words.Statement (.bfi rd ra pos lenM1) := one_word rfl (twoWords_encI ..)
theorem Words.lea (rd : Reg) (ra : Reg) (rb : Reg) (sh : BitVec 3) : Words.Statement (.lea rd ra rb sh) := one_word rfl (twoWords_encR ..)
theorem Words.wrapa (rd : Reg) (ra : Reg) (ch : Reg) : Words.Statement (.wrapa rd ra ch) := one_word rfl (twoWords_encR ..)
theorem Words.beq (ra : Reg) (rb : Reg) (off : BitVec 13) : Words.Statement (.beq ra rb off) := one_word rfl (twoWords_encI ..)
theorem Words.bne (ra : Reg) (rb : Reg) (off : BitVec 13) : Words.Statement (.bne ra rb off) := one_word rfl (twoWords_encI ..)
theorem Words.blt (ra : Reg) (rb : Reg) (off : BitVec 13) : Words.Statement (.blt ra rb off) := one_word rfl (twoWords_encI ..)
theorem Words.bge (ra : Reg) (rb : Reg) (off : BitVec 13) : Words.Statement (.bge ra rb off) := one_word rfl (twoWords_encI ..)
theorem Words.bltu (ra : Reg) (rb : Reg) (off : BitVec 13) : Words.Statement (.bltu ra rb off) := one_word rfl (twoWords_encI ..)
theorem Words.bgeu (ra : Reg) (rb : Reg) (off : BitVec 13) : Words.Statement (.bgeu ra rb off) := one_word rfl (twoWords_encI ..)
theorem Words.jmp (off : BitVec 25) : Words.Statement (.jmp off) := one_word rfl (twoWords_encJ ..)
theorem Words.jal (off : BitVec 25) : Words.Statement (.jal off) := one_word rfl (twoWords_encJ ..)
theorem Words.jr (ra : Reg) : Words.Statement (.jr ra) := one_word rfl (twoWords_encI ..)
theorem Words.loop (lvl : BitVec 2) (p : Bool) (ra : Reg) (len : BitVec 16) : Words.Statement (.loop lvl p ra len) := one_word rfl (twoWords_encL ..)
theorem Words.loopi (lvl : BitVec 2) (p : Bool) (cnt : BitVec 12) (len : BitVec 10) : Words.Statement (.loopi lvl p cnt len) := one_word rfl (twoWords_encL ..)
theorem Words.lbrk (lvl : BitVec 2) (ra : Reg) : Words.Statement (.lbrk lvl ra) := one_word rfl (twoWords_encL ..)
theorem Words.lbrkUnconditional (lvl : BitVec 2) : Words.Statement (.lbrkUnconditional lvl) := one_word rfl (twoWords_encL ..)
theorem Words.rep (ra : Reg) : Words.Statement (.rep ra) := one_word rfl (twoWords_encL ..)
theorem Words.repImmediate (cnt : BitVec 12) : Words.Statement (.repImmediate cnt) := one_word rfl (twoWords_encL ..)
theorem Words.spset (imm : BitVec 8) : Words.Statement (.spset imm) := one_word rfl (twoWords_encJ ..)
theorem Words.lds (rd : Reg) (base : Reg) (size : BitVec 2) (off : BitVec 11) : Words.Statement (.lds rd base size off) := one_word rfl (twoWords_encM ..)
theorem Words.ldsu (rd : Reg) (base : Reg) (size : BitVec 2) (off : BitVec 11) : Words.Statement (.ldsu rd base size off) := one_word rfl (twoWords_encM ..)
theorem Words.sts (rd : Reg) (base : Reg) (size : BitVec 2) (off : BitVec 11) : Words.Statement (.sts rd base size off) := one_word rfl (twoWords_encM ..)
theorem Words.ldh (rd : Reg) (base : Reg) (size : BitVec 2) (off : BitVec 11) : Words.Statement (.ldh rd base size off) := one_word rfl (twoWords_encM ..)
theorem Words.ldhu (rd : Reg) (base : Reg) (size : BitVec 2) (off : BitVec 11) : Words.Statement (.ldhu rd base size off) := one_word rfl (twoWords_encM ..)
theorem Words.sth (rd : Reg) (base : Reg) (size : BitVec 2) (off : BitVec 11) : Words.Statement (.sth rd base size off) := one_word rfl (twoWords_encM ..)
theorem Words.xlat (h : Reg) (ra : Reg) : Words.Statement (.xlat h ra) := one_word rfl (twoWords_encR ..)
theorem Words.hinv (h : Reg) : Words.Statement (.hinv h) := one_word rfl (twoWords_encR ..)
theorem Words.hq (rd : Reg) (h : Reg) : Words.Statement (.hq rd h) := one_word rfl (twoWords_encR ..)
theorem Words.amo (rd : Reg) (ra : Reg) (rb : Reg) (ord : BitVec 2) (z : Bool) (hnd : Bool) (op : BitVec 3) : Words.Statement (.amo rd ra rb ord z hnd op) := one_word rfl (twoWords_encR ..)
theorem Words.cas (rd : Reg) (ra : Reg) (rb : Reg) (ord : BitVec 2) (z : Bool) (hnd : Bool) : Words.Statement (.cas rd ra rb ord z hnd) := one_word rfl (twoWords_encR ..)
theorem Words.lda (rd : Reg) (ra : Reg) (size : BitVec 2) (hnd : Bool) : Words.Statement (.lda rd ra size hnd) := one_word rfl (twoWords_encR ..)
theorem Words.stl (ra : Reg) (rb : Reg) (size : BitVec 2) (hnd : Bool) : Words.Statement (.stl ra rb size hnd) := one_word rfl (twoWords_encR ..)
theorem Words.fence (scope : BitVec 2) : Words.Statement (.fence scope) := one_word rfl (twoWords_encI ..)
theorem Words.bar : Words.Statement .bar := one_word rfl (twoWords_encI ..)
theorem Words.bara : Words.Statement .bara := one_word rfl (twoWords_encI ..)
theorem Words.barw : Words.Statement .barw := one_word rfl (twoWords_encI ..)
theorem Words.cbset (ch : Reg) (ra : Reg) : Words.Statement (.cbset ch ra) := one_word rfl (twoWords_encR ..)
theorem Words.cbadv (ch : Reg) (rb : Reg) (side : Bool) : Words.Statement (.cbadv ch rb side) := one_word rfl (twoWords_encR ..)
theorem Words.cbq (rd : Reg) (ch : Reg) : Words.Statement (.cbq rd ch) := one_word rfl (twoWords_encR ..)
theorem Words.cbwait (ch : Reg) (rb : Reg) (side : Bool) : Words.Statement (.cbwait ch rb side) := one_word rfl (twoWords_encR ..)
theorem Words.jwait (ra : Reg) : Words.Statement (.jwait ra) := one_word rfl (twoWords_encR ..)
theorem Words.jq (rd : Reg) (ra : Reg) : Words.Statement (.jq rd ra) := one_word rfl (twoWords_encR ..)
theorem Words.ecfg (item : BitVec 12) (ra : Reg) : Words.Statement (.ecfg item ra) := one_word rfl (twoWords_encI ..)
theorem Words.erd (rd : Reg) (item : BitVec 12) : Words.Statement (.erd rd item) := one_word rfl (twoWords_encI ..)
theorem Words.stmp (rd : Reg) : Words.Statement (.stmp rd) := one_word rfl (twoWords_encR ..)
theorem Words.stwait (ra : Reg) : Words.Statement (.stwait ra) := one_word rfl (twoWords_encR ..)
theorem Words.stwaitR (ra : Reg) : Words.Statement (.stwaitR ra) := one_word rfl (twoWords_encR ..)
theorem Words.wid (rd : Reg) (f : BitVec 3) : Words.Statement (.wid rd f) := one_word rfl (twoWords_encI ..)
theorem Words.tail : Words.Statement .tail := one_word rfl (twoWords_encI ..)
theorem Words.exit : Words.Statement .exit := one_word rfl (twoWords_encI ..)
theorem Words.csrr (rd : Reg) (csr : BitVec 12) : Words.Statement (.csrr rd csr) := one_word rfl (twoWords_encI ..)
theorem Words.csrw (csr : BitVec 12) (ra : Reg) : Words.Statement (.csrw csr ra) := one_word rfl (twoWords_encI ..)
theorem Words.trap (code : BitVec 12) : Words.Statement (.trap code) := one_word rfl (twoWords_encI ..)
theorem Words.brk (code : BitVec 12) : Words.Statement (.brk code) := one_word rfl (twoWords_encI ..)
theorem Words.nop : Words.Statement .nop := one_word rfl (twoWords_encI ..)
theorem Words.sret : Words.Statement .sret := one_word rfl (twoWords_encI ..)
theorem Words.wfe : Words.Statement .wfe := one_word rfl (twoWords_encI ..)
theorem Words.vadd (h : Head) (f : LayA) : Words.Statement (.vadd h f) := two_words rfl (twoWords_encHead ..)
theorem Words.vsub (h : Head) (f : LayA) : Words.Statement (.vsub h f) := two_words rfl (twoWords_encHead ..)
theorem Words.vmul (h : Head) (f : LayA) : Words.Statement (.vmul h f) := two_words rfl (twoWords_encHead ..)
theorem Words.vfma (h : Head) (f : LayA) : Words.Statement (.vfma h f) := two_words rfl (twoWords_encHead ..)
theorem Words.vfms (h : Head) (f : LayA) : Words.Statement (.vfms h f) := two_words rfl (twoWords_encHead ..)
theorem Words.vfnma (h : Head) (f : LayA) : Words.Statement (.vfnma h f) := two_words rfl (twoWords_encHead ..)
theorem Words.vdiv (h : Head) (f : LayA) : Words.Statement (.vdiv h f) := two_words rfl (twoWords_encHead ..)
theorem Words.vsqrt (h : Head) (f : LayA) : Words.Statement (.vsqrt h f) := two_words rfl (twoWords_encHead ..)
theorem Words.vmin (h : Head) (f : LayA) : Words.Statement (.vmin h f) := two_words rfl (twoWords_encHead ..)
theorem Words.vmax (h : Head) (f : LayA) : Words.Statement (.vmax h f) := two_words rfl (twoWords_encHead ..)
theorem Words.vabs (h : Head) (f : LayA) : Words.Statement (.vabs h f) := two_words rfl (twoWords_encHead ..)
theorem Words.vneg (h : Head) (f : LayA) : Words.Statement (.vneg h f) := two_words rfl (twoWords_encHead ..)
theorem Words.vcmp (h : Head) (f : LayA) : Words.Statement (.vcmp h f) := two_words rfl (twoWords_encHead ..)
theorem Words.vclass (h : Head) (f : LayA) : Words.Statement (.vclass h f) := two_words rfl (twoWords_encHead ..)
theorem Words.vexp2 (h : Head) (f : LayA) : Words.Statement (.vexp2 h f) := two_words rfl (twoWords_encHead ..)
theorem Words.vlog2 (h : Head) (f : LayA) : Words.Statement (.vlog2 h f) := two_words rfl (twoWords_encHead ..)
theorem Words.viadd (h : Head) (f : LayA) : Words.Statement (.viadd h f) := two_words rfl (twoWords_encHead ..)
theorem Words.visub (h : Head) (f : LayA) : Words.Statement (.visub h f) := two_words rfl (twoWords_encHead ..)
theorem Words.vimul (h : Head) (f : LayA) : Words.Statement (.vimul h f) := two_words rfl (twoWords_encHead ..)
theorem Words.vimad (h : Head) (f : LayA) : Words.Statement (.vimad h f) := two_words rfl (twoWords_encHead ..)
theorem Words.viand (h : Head) (f : LayA) : Words.Statement (.viand h f) := two_words rfl (twoWords_encHead ..)
theorem Words.vior (h : Head) (f : LayA) : Words.Statement (.vior h f) := two_words rfl (twoWords_encHead ..)
theorem Words.vixor (h : Head) (f : LayA) : Words.Statement (.vixor h f) := two_words rfl (twoWords_encHead ..)
theorem Words.vishl (h : Head) (f : LayA) : Words.Statement (.vishl h f) := two_words rfl (twoWords_encHead ..)
theorem Words.vishr (h : Head) (f : LayA) : Words.Statement (.vishr h f) := two_words rfl (twoWords_encHead ..)
theorem Words.visar (h : Head) (f : LayA) : Words.Statement (.visar h f) := two_words rfl (twoWords_encHead ..)
theorem Words.vimin (h : Head) (f : LayA) : Words.Statement (.vimin h f) := two_words rfl (twoWords_encHead ..)
theorem Words.vimax (h : Head) (f : LayA) : Words.Statement (.vimax h f) := two_words rfl (twoWords_encHead ..)
theorem Words.vicmp (h : Head) (f : LayA) : Words.Statement (.vicmp h f) := two_words rfl (twoWords_encHead ..)
theorem Words.vcvt (h : Head) (f : LayB) : Words.Statement (.vcvt h f) := two_words rfl (twoWords_encHead ..)
theorem Words.vtfenc (h : Head) (f : LayB) : Words.Statement (.vtfenc h f) := two_words rfl (twoWords_encHead ..)
theorem Words.vtfdec (h : Head) (f : LayB) : Words.Statement (.vtfdec h f) := two_words rfl (twoWords_encHead ..)
theorem Words.vtfcmp (h : Head) (f : LayA) : Words.Statement (.vtfcmp h f) := two_words rfl (twoWords_encHead ..)
theorem Words.vqblk (h : Head) (f : LayB) : Words.Statement (.vqblk h f) := two_words rfl (twoWords_encHead ..)
theorem Words.vdqblk (h : Head) (f : LayB) : Words.Statement (.vdqblk h f) := two_words rfl (twoWords_encHead ..)
theorem Words.vred (h : Head) (f : LayA) : Words.Statement (.vred h f) := two_words rfl (twoWords_encHead ..)
theorem Words.vdot4 (h : Head) (f : LayA) : Words.Statement (.vdot4 h f) := two_words rfl (twoWords_encHead ..)
theorem Words.vld (h : Head) (f : LayB) : Words.Statement (.vld h f) := two_words rfl (twoWords_encHead ..)
theorem Words.vst (h : Head) (f : LayB) : Words.Statement (.vst h f) := two_words rfl (twoWords_encHead ..)
theorem Words.vldc (h : Head) (f : LayA) : Words.Statement (.vldc h f) := two_words rfl (twoWords_encHead ..)
theorem Words.vstc (h : Head) (f : LayA) : Words.Statement (.vstc h f) := two_words rfl (twoWords_encHead ..)
theorem Words.vmov (h : Head) (f : LayA) : Words.Statement (.vmov h f) := two_words rfl (twoWords_encHead ..)
theorem Words.vsel (h : Head) (f : LayA) : Words.Statement (.vsel h f) := two_words rfl (twoWords_encHead ..)
theorem Words.vbcast (h : Head) (f : LayB) : Words.Statement (.vbcast h f) := two_words rfl (twoWords_encHead ..)
theorem Words.vperm (h : Head) (f : LayA) : Words.Statement (.vperm h f) := two_words rfl (twoWords_encHead ..)
theorem Words.vtrans (h : Head) (f : LayA) : Words.Statement (.vtrans h f) := two_words rfl (twoWords_encHead ..)
theorem Words.vgat (h : Head) (f : LayB) : Words.Statement (.vgat h f) := two_words rfl (twoWords_encHead ..)
theorem Words.vsca (h : Head) (f : LayB) : Words.Statement (.vsca h f) := two_words rfl (twoWords_encHead ..)
theorem Words.mlog (h : Head) (f : LayA) : Words.Statement (.mlog h f) := two_words rfl (twoWords_encHead ..)
theorem Words.vkeep (h : Head) (f : LayA) : Words.Statement (.vkeep h f) := two_words rfl (twoWords_encHead ..)
theorem Words.vrng (h : Head) (f : LayA) : Words.Statement (.vrng h f) := two_words rfl (twoWords_encHead ..)
theorem Words.vshape (h : Head) (f : LayB) : Words.Statement (.vshape h f) := two_words rfl (twoWords_encHead ..)
theorem Words.vdfr (h : Head) (f : LayA) : Words.Statement (.vdfr h f) := two_words rfl (twoWords_encHead ..)
theorem Words.vdrn (h : Head) (f : LayA) : Words.Statement (.vdrn h f) := two_words rfl (twoWords_encHead ..)
theorem Words.vdcnt (h : Head) (f : LayA) : Words.Statement (.vdcnt h f) := two_words rfl (twoWords_encHead ..)
theorem Words.mlatch (h : Head) (f : LayA) : Words.Statement (.mlatch h f) := two_words rfl (twoWords_encHead ..)
theorem Words.mgath (h : Head) (f : LayA) : Words.Statement (.mgath h f) := two_words rfl (twoWords_encHead ..)
theorem Words.mmul (h : Head) (f : LayA) : Words.Statement (.mmul h f) := two_words rfl (twoWords_encHead ..)
theorem Words.mattn (h : Head) (f : LayA) : Words.Statement (.mattn h f) := two_words rfl (twoWords_encHead ..)
theorem Words.mpair (h : Head) (f : LayA) : Words.Statement (.mpair h f) := two_words rfl (twoWords_encHead ..)
theorem Words.mdrain (h : Head) (f : LayA) : Words.Statement (.mdrain h f) := two_words rfl (twoWords_encHead ..)
theorem Words.mld (h : Head) (f : LayA) : Words.Statement (.mld h f) := two_words rfl (twoWords_encHead ..)
theorem Words.mzero (h : Head) (f : LayA) : Words.Statement (.mzero h f) := two_words rfl (twoWords_encHead ..)
theorem Words.mmask (h : Head) (f : LayA) : Words.Statement (.mmask h f) := two_words rfl (twoWords_encHead ..)
theorem Words.mstat (h : Head) (f : LayA) : Words.Statement (.mstat h f) := two_words rfl (twoWords_encHead ..)
theorem Words.mtest (h : Head) (f : LayA) : Words.Statement (.mtest h f) := two_words rfl (twoWords_encHead ..)
theorem Words.mwait (h : Head) (f : LayA) : Words.Statement (.mwait h f) := two_words rfl (twoWords_encHead ..)
theorem Words.cpy (h : Head) (f : LayA) : Words.Statement (.cpy h f) := two_words rfl (twoWords_encHead ..)
theorem Words.cpyw (h : Head) (f : LayA) : Words.Statement (.cpyw h f) := two_words rfl (twoWords_encHead ..)
theorem Words.cfill (h : Head) (f : LayA) : Words.Statement (.cfill h f) := two_words rfl (twoWords_encHead ..)
theorem Words.cgat (h : Head) (f : LayA) : Words.Statement (.cgat h f) := two_words rfl (twoWords_encHead ..)
theorem Words.csca (h : Head) (f : LayA) : Words.Statement (.csca h f) := two_words rfl (twoWords_encHead ..)
theorem Words.cxs (h : Head) (f : LayA) : Words.Statement (.cxs h f) := two_words rfl (twoWords_encHead ..)
theorem Words.cpeer (h : Head) (f : LayA) : Words.Statement (.cpeer h f) := two_words rfl (twoWords_encHead ..)
theorem Words.kvopen (h : Head) (f : LayA) : Words.Statement (.kvopen h f) := two_words rfl (twoWords_encHead ..)
theorem Words.kvseek (h : Head) (f : LayA) : Words.Statement (.kvseek h f) := two_words rfl (twoWords_encHead ..)
theorem Words.kvstrm (h : Head) (f : LayA) : Words.Statement (.kvstrm h f) := two_words rfl (twoWords_encHead ..)
theorem Words.kvapp (h : Head) (f : LayA) : Words.Statement (.kvapp h f) := two_words rfl (twoWords_encHead ..)
theorem Words.kvref (h : Head) (f : LayA) : Words.Statement (.kvref h f) := two_words rfl (twoWords_encHead ..)
theorem Words.kvfree (h : Head) (f : LayA) : Words.Statement (.kvfree h f) := two_words rfl (twoWords_encHead ..)
theorem Words.kvstat (h : Head) (f : LayA) : Words.Statement (.kvstat h f) := two_words rfl (twoWords_encHead ..)
theorem Words.fact (h : Head) (f : LayA) : Words.Statement (.fact h f) := two_words rfl (twoWords_encHead ..)
theorem Words.fsa (h : Head) (f : LayA) : Words.Statement (.fsa h f) := two_words rfl (twoWords_encHead ..)
theorem Words.fsav (h : Head) (f : LayA) : Words.Statement (.fsav h f) := two_words rfl (twoWords_encHead ..)
theorem Words.fsense (h : Head) (f : LayA) : Words.Statement (.fsense h f) := two_words rfl (twoWords_encHead ..)
theorem Words.fscal (h : Head) (f : LayA) : Words.Statement (.fscal h f) := two_words rfl (twoWords_encHead ..)
theorem Words.frebuild (h : Head) (f : LayA) : Words.Statement (.frebuild h f) := two_words rfl (twoWords_encHead ..)
theorem Words.fmap (h : Head) (f : LayA) : Words.Statement (.fmap h f) := two_words rfl (twoWords_encHead ..)
theorem Words.fstat (h : Head) (f : LayA) : Words.Statement (.fstat h f) := two_words rfl (twoWords_encHead ..)
theorem Words.fsync (h : Head) (f : LayA) : Words.Statement (.fsync h f) := two_words rfl (twoWords_encHead ..)
theorem Words.fprog (h : Head) (f : LayA) : Words.Statement (.fprog h f) := two_words rfl (twoWords_encHead ..)
theorem Words.ferase (h : Head) (f : LayA) : Words.Statement (.ferase h f) := two_words rfl (twoWords_encHead ..)
theorem Words.fduty (h : Head) (f : LayA) : Words.Statement (.fduty h f) := two_words rfl (twoWords_encHead ..)
theorem Words.xconf (h : Head) (f : LayA) : Words.Statement (.xconf h f) := two_words rfl (twoWords_encHead ..)
theorem Words.bfpost (h : Head) (f : LayA) : Words.Statement (.bfpost h f) := two_words rfl (twoWords_encHead ..)
theorem Words.bfwait (h : Head) (f : LayA) : Words.Statement (.bfwait h f) := two_words rfl (twoWords_encHead ..)
theorem Words.bfmode (h : Head) (f : LayA) : Words.Statement (.bfmode h f) := two_words rfl (twoWords_encHead ..)
theorem Words.bfq (h : Head) (f : LayA) : Words.Statement (.bfq h f) := two_words rfl (twoWords_encHead ..)
theorem Words.bfflush (h : Head) (f : LayA) : Words.Statement (.bfflush h f) := two_words rfl (twoWords_encHead ..)
theorem Words.bdgq (h : Head) (f : LayA) : Words.Statement (.bdgq h f) := two_words rfl (twoWords_encHead ..)
theorem Words.bdghold (h : Head) (f : LayA) : Words.Statement (.bdghold h f) := two_words rfl (twoWords_encHead ..)
theorem Words.instructionStallEnd (k : Fin 16) : Words.Statement (.instructionStallEnd k) := no_words rfl
theorem Words.loadReturn (k : Fin 16) : Words.Statement (.loadReturn k) := no_words rfl
theorem Words.translationWalk (k : Fin 16) (hn : Fin 16) : Words.Statement (.translationWalk k hn) := no_words rfl
theorem Words.vectorEntryStart (k : Fin 16) : Words.Statement (.vectorEntryStart k) := no_words rfl
theorem Words.vectorFaultTaken (k : Fin 16) : Words.Statement (.vectorFaultTaken k) := no_words rfl
theorem Words.matrixEntryStart (k : Fin 16) : Words.Statement (.matrixEntryStart k) := no_words rfl
theorem Words.pairHeaderArrival (k : Fin 16) : Words.Statement (.pairHeaderArrival k) := no_words rfl
theorem Words.pairMerge (k : Fin 16) : Words.Statement (.pairMerge k) := no_words rfl
theorem Words.pairVerdict (k : Fin 16) : Words.Statement (.pairVerdict k) := no_words rfl
theorem Words.pairAbort (k : Fin 16) : Words.Statement (.pairAbort k) := no_words rfl
theorem Words.cxsPathReserve (k : Fin 16) (seq : BitVec 16) : Words.Statement (.cxsPathReserve k seq) := no_words rfl
theorem Words.streamSlotFill (k : Fin 16) (seq : BitVec 16) : Words.Statement (.streamSlotFill k seq) := no_words rfl
theorem Words.stackCommandArrival (j : Fin 16) : Words.Statement (.stackCommandArrival j) := no_words rfl
theorem Words.pairArbitration (j : Fin 16) (die : Fin 8) (q : Fin 64) : Words.Statement (.pairArbitration j die q) := no_words rfl
theorem Words.senseComplete (j : Fin 16) (die : Fin 8) (q : Fin 64) : Words.Statement (.senseComplete j die q) := no_words rfl
theorem Words.pageDecode (j : Fin 16) (die : Fin 8) (pl : Fin 128) (errs : List Nat) : Words.Statement (.pageDecode j die pl errs) := no_words rfl
theorem Words.softReread (j : Fin 16) (die : Fin 8) (pl : Fin 128) (errs : List Nat) : Words.Statement (.softReread j die pl errs) := no_words rfl
theorem Words.macPass (j : Fin 16) (die : Fin 8) (q : Fin 64) : Words.Statement (.macPass j die q) := no_words rfl
theorem Words.groupReduction (j : Fin 16) (cid : Nat) (gi : Nat) : Words.Statement (.groupReduction j cid gi) := no_words rfl
theorem Words.stackOutput (j : Fin 16) (cid : Nat) : Words.Statement (.stackOutput j cid) := no_words rfl
theorem Words.backfillVectorLoad (rec : Nat) (j : Fin 16) : Words.Statement (.backfillVectorLoad rec j) := no_words rfl
theorem Words.backfillRowForm (rec : Nat) (layer : Nat) : Words.Statement (.backfillRowForm rec layer) := no_words rfl
theorem Words.backfillSlotWrite (rec : Nat) (layer : Nat) : Words.Statement (.backfillSlotWrite rec layer) := no_words rfl
theorem Words.engineDispatch (k : Fin 16) (e : Eng) : Words.Statement (.engineDispatch k e) := no_words rfl
theorem Words.jobStart (k : Fin 16) (seq : BitVec 16) : Words.Statement (.jobStart k seq) := no_words rfl
theorem Words.jobCompletion (k : Fin 16) (seq : BitVec 16) : Words.Statement (.jobCompletion k seq) := no_words rfl
theorem Words.jobFault (k : Fin 16) (seq : BitVec 16) : Words.Statement (.jobFault k seq) := no_words rfl
theorem Words.channelViewRequest (k : Fin 16) : Words.Statement (.channelViewRequest k) := no_words rfl
theorem Words.barrierRelease (slot : Fin 16) : Words.Statement (.barrierRelease slot) := no_words rfl
theorem Words.tagSweep (slot : Fin 16) : Words.Statement (.tagSweep slot) := no_words rfl
theorem Words.pageRequestAnswer (idx : Nat) : Words.Statement (.pageRequestAnswer idx) := no_words rfl
theorem Words.doorbell (v : Word) : Words.Statement (.doorbell v) := no_words rfl
theorem Words.launchDecision (slot : Fin 16) : Words.Statement (.launchDecision slot) := no_words rfl
theorem Words.preemption (k : Fin 16) : Words.Statement (.preemption k) := no_words rfl
theorem Words.contextResume (slot : Fin 16) : Words.Statement (.contextResume slot) := no_words rfl
theorem Words.workItemStart (k : Fin 16) : Words.Statement (.workItemStart k) := no_words rfl
theorem Words.trackerEntryFree (k : Fin 16) : Words.Statement (.trackerEntryFree k) := no_words rfl
theorem Words.contextEnd (slot : Fin 16) : Words.Statement (.contextEnd slot) := no_words rfl
theorem Words.abort (lseq : BitVec 32) : Words.Statement (.abort lseq) := no_words rfl
theorem Words.injectionSlotWrite (i : Fin 8) (dw : Fin 3) (v : Word) : Words.Statement (.injectionSlotWrite i dw v) := no_words rfl
theorem Words.registerWrite (bar : BitVec 3) (off : Nat) (data : Option Word) : Words.Statement (.registerWrite bar off data) := no_words rfl
theorem Words.apertureAccess (off : Nat) (len : Nat) (data : Option (List Byte)) : Words.Statement (.apertureAccess off len data) := no_words rfl
theorem Words.hostMemoryAccess (d : Nat) (len : Nat) (data : Option (List Byte)) : Words.Statement (.hostMemoryAccess d len data) := no_words rfl
theorem Words.coldBoot (copies : Bool × Bool) (fails : BitVec 21 × BitVec 64) (temp : Nat) : Words.Statement (.coldBoot copies fails temp) := no_words rfl
theorem Words.encodingNotAnInstruction (r : Reject) : Words.Statement (.encodingNotAnInstruction r) := no_words rfl
theorem Words.pageProgram (j : Fin 16) (cid : Nat) (ok : Bool) (ok2 : Bool) : Words.Statement (.pageProgram j cid ok ok2) := no_words rfl
theorem Words.selfTest (k : Fin 16) (b : Fin 4) (pass : Bool) : Words.Statement (.selfTest k b pass) := no_words rfl
theorem Words.pairWindowExpiry (k : Fin 16) : Words.Statement (.pairWindowExpiry k) := no_words rfl
theorem Words.pendingRefetch (k : Fin 16) (seq : BitVec 16) : Words.Statement (.pendingRefetch k seq) := no_words rfl
theorem Words.coverageQuery (k : Fin 16) (seq : BitVec 16) : Words.Statement (.coverageQuery k seq) := no_words rfl
theorem Words.flitReplay (j : Fin 16) (ok : Bool) : Words.Statement (.flitReplay j ok) := no_words rfl
theorem Words.stackLinkFailure (j : Fin 16) : Words.Statement (.stackLinkFailure j) := no_words rfl
theorem Words.dieNotResponding (j : Fin 16) (die : Fin 8) : Words.Statement (.dieNotResponding j die) := no_words rfl
theorem Words.backfillAgeLimit (slot : Fin 16) : Words.Statement (.backfillAgeLimit slot) := no_words rfl
theorem Words.channelStall (k : Fin 16) : Words.Statement (.channelStall k) := no_words rfl
theorem Words.tier1BurstRead (pa : Nat) (errs : List Nat) (par : List (Fin 8 × Fin 4)) (ctx : Word) : Words.Statement (.tier1BurstRead pa errs par ctx) := no_words rfl
theorem Words.parityRetry (ch : Fin 256) (par : List (Fin 8 × Fin 4)) : Words.Statement (.parityRetry ch par) := no_words rfl
theorem Words.laneTest (ch : Fin 256) (lane : Option (Fin 64)) : Words.Statement (.laneTest ch lane) := no_words rfl
theorem Words.writeParityError (pa : Nat) (par : List (Fin 8 × Fin 4)) (ctx : Word) : Words.Statement (.writeParityError pa par ctx) := no_words rfl
theorem Words.revocation (slot : Fin 16) (lo : Nat) (len : Nat) : Words.Statement (.revocation slot lo len) := no_words rfl
theorem Words.priorityAging (slot : Fin 16) : Words.Statement (.priorityAging slot) := no_words rfl
theorem Words.energyHold (slot : Fin 16) : Words.Statement (.energyHold slot) := no_words rfl
theorem Words.resume (lseq : BitVec 32) : Words.Statement (.resume lseq) := no_words rfl
theorem Words.setEnergy (lseq : BitVec 32) : Words.Statement (.setEnergy lseq) := no_words rfl
theorem Words.completionRingConfigWrite (size : Bool) (v : Word) : Words.Statement (.completionRingConfigWrite size v) := no_words rfl
theorem Words.powlimWrite (v : Word) : Words.Statement (.powlimWrite v) := no_words rfl
theorem Words.peerEntryWrite (i : Fin 4) (v : Word) : Words.Statement (.peerEntryWrite i v) := no_words rfl
theorem Words.inboundWindowWrite (len : Bool) (v : Word) : Words.Statement (.inboundWindowWrite len v) := no_words rfl
theorem Words.apbaseWrite (v : Word) : Words.Statement (.apbaseWrite v) := no_words rfl
theorem Words.peerRequest (port : Byte) (off : Nat) (len : Nat) (data : Option (List Byte)) (poisoned : Bool) :
    Words.Statement (.peerRequest port off len data poisoned) := no_words rfl
theorem Words.peerFlushRead (port : Byte) : Words.Statement (.peerFlushRead port) := no_words rfl
theorem Words.peerTimeout (k : Fin 16) (at_ : BitVec 16 × Nat) : Words.Statement (.peerTimeout k at_) := no_words rfl
theorem Words.ideKeyExchange (spdm : LinkPort × List Byte) : Words.Statement (.ideKeyExchange spdm) := no_words rfl
theorem Words.ideIntegrityFailure (port : LinkPort) : Words.Statement (.ideIntegrityFailure port) := no_words rfl
theorem Words.memoryPortFailure (p : Fin 2) : Words.Statement (.memoryPortFailure p) := no_words rfl
theorem Words.expanderTimeout (p : Fin 2) : Words.Statement (.expanderTimeout p) := no_words rfl
theorem Words.retentionParkExit (k : Fin 16) (errs : List (Nat × List Nat)) : Words.Statement (.retentionParkExit k errs) := no_words rfl
theorem Words.trainingRecordWrite (powerLost : Bool) : Words.Statement (.trainingRecordWrite powerLost) := no_words rfl
theorem Words.stackTrip (j : Fin 16) : Words.Statement (.stackTrip j) := no_words rfl
theorem Words.stackTripClear (j : Fin 16) : Words.Statement (.stackTripClear j) := no_words rfl
theorem Words.stackTripPersisted (j : Fin 16) : Words.Statement (.stackTripPersisted j) := no_words rfl
theorem Words.dutyCyclingStart (j : Fin 16) : Words.Statement (.dutyCyclingStart j) := no_words rfl
theorem Words.dutyCyclingStop (j : Fin 16) : Words.Statement (.dutyCyclingStop j) := no_words rfl
theorem Words.boostEpoch (em : Nat) : Words.Statement (.boostEpoch em) := no_words rfl
theorem Words.energyWindow (uj : List Nat) : Words.Statement (.energyWindow uj) := no_words rfl
theorem Words.undervoltWindow (cl : Fin 4) (errs : Nat) : Words.Statement (.undervoltWindow cl errs) := no_words rfl
theorem Words.marginEvent (isl : Fin 40) (core : Fin 16) (arr : BitVec 4) (addr : Nat) : Words.Statement (.marginEvent isl core arr addr) := no_words rfl
theorem Words.marginStallEnd (isl : Fin 40) : Words.Statement (.marginStallEnd isl) := no_words rfl
theorem Words.undervoltResume (cl : Fin 4) : Words.Statement (.undervoltResume cl) := no_words rfl
theorem Words.bandSwitchOff (c : Fin 4) (b : Fin 4) : Words.Statement (.bandSwitchOff c b) := no_words rfl
theorem Words.bandWake (c : Fin 4) (b : Fin 4) : Words.Statement (.bandWake c b) := no_words rfl
theorem Words.badgerStep (j : Fin 16) (die : Fin 8) (q : Fin 64) : Words.Statement (.badgerStep j die q) := no_words rfl
theorem Words.relocationReadStep (j : Fin 16) (die : Fin 8) (q : Fin 64) (wl : Nat) : Words.Statement (.relocationReadStep j die q wl) := no_words rfl
theorem Words.relocationProgramStep (j : Fin 16) (die : Fin 8) (q : Fin 64) (ok : Bool) : Words.Statement (.relocationProgramStep j die q ok) := no_words rfl
theorem Words.mapSwitch (j : Fin 16) (die : Fin 8) (q : Fin 64) : Words.Statement (.mapSwitch j die q) := no_words rfl
theorem Words.compaction (j : Fin 16) (die : Fin 8) (q : Fin 64) : Words.Statement (.compaction j die q) := no_words rfl
theorem Words.blockErase (j : Fin 16) (die : Fin 8) (q : Fin 64) (blk : Fin 256) (ok : Bool) : Words.Statement (.blockErase j die q blk ok) := no_words rfl
theorem Words.scrubDue (ext : BitVec 32) : Words.Statement (.scrubDue ext) := no_words rfl
theorem Words.scrubSense (j : Fin 16) (ext : BitVec 32) : Words.Statement (.scrubSense j ext) := no_words rfl
theorem Words.holdEnd (j : Fin 16) : Words.Statement (.holdEnd j) := no_words rfl
theorem Words.idleSlotsEnd (j : Fin 16) (die : Fin 8) (q : Fin 64) : Words.Statement (.idleSlotsEnd j die q) := no_words rfl
theorem Words.priorityReturnToPrio (slot : Fin 16) : Words.Statement (.priorityReturnToPrio slot) := no_words rfl
theorem Words.schedulerEvaluation : Words.Statement .schedulerEvaluation := no_words rfl
theorem Words.completionRecordWrite : Words.Statement .completionRecordWrite := no_words rfl
theorem Words.resync : Words.Statement .resync := no_words rfl
theorem Words.logread : Words.Statement .logread := no_words rfl
theorem Words.logclr : Words.Statement .logclr := no_words rfl
theorem Words.owlread : Words.Statement .owlread := no_words rfl
theorem Words.wear : Words.Statement .wear := no_words rfl
theorem Words.attest : Words.Statement .attest := no_words rfl
theorem Words.time : Words.Statement .time := no_words rfl
theorem Words.extadd : Words.Statement .extadd := no_words rfl
theorem Words.extdel : Words.Statement .extdel := no_words rfl
theorem Words.park : Words.Statement .park := no_words rfl
theorem Words.unpark : Words.Statement .unpark := no_words rfl
theorem Words.fwupd : Words.Statement .fwupd := no_words rfl
theorem Words.retrain : Words.Statement .retrain := no_words rfl
theorem Words.moduleReset : Words.Statement .moduleReset := no_words rfl
theorem Words.powerLoss : Words.Statement .powerLoss := no_words rfl
theorem Words.wearSample : Words.Statement .wearSample := no_words rfl
theorem Words.wearCountSave : Words.Statement .wearCountSave := no_words rfl
theorem Words.computeDieTrip : Words.Statement .computeDieTrip := no_words rfl
theorem Words.senseAllowanceWindow : Words.Statement .senseAllowanceWindow := no_words rfl
theorem Words.watchdogExpiry : Words.Statement .watchdogExpiry := no_words rfl
theorem Words.fallbackEnd : Words.Statement .fallbackEnd := no_words rfl
theorem Words.limiterStep : Words.Statement .limiterStep := no_words rfl
theorem Words.badgerBudgetWindow : Words.Statement .badgerBudgetWindow := no_words rfl

end Sys2Proof.Laws
end

