-- ==== Sys2Proof/Tests/Slice0.lean ====
section
/-!
SUPPORT. Tests of one step each on small states, words of the spec and their decoding, the refusal of ill-formed
instructions, and for each statement with hypotheses a witness (`wit_<statement>`) that meets them, clause by clause.
-/
namespace Sys2Proof.Tests
set_option Elab.async false
open Sys2Proof Sys2Proof.Machine

/-! ## Small states -/

/-- Core 0's slice, an unpaged and a paged segment of tier 1, and the program. -/
def seg0 : Seg := ⟨0, 0xC00000, 0, true, true, false, 0, false, false, 0⟩
def seg1 : Seg := ⟨0x10000000, 0x10000, 0x20000, true, true, false, 1, false, false, 0⟩
def segs : List Seg :=
  [seg0, seg1,
   ⟨0x20000000, 0x20000, 0, true, true, false, 1, true, false, 0⟩,
   ⟨placedPC, 0x10000, 0x10000, true, false, true, 1, false, false, 0⟩]

def launch0 : Launch := { placedLaunch 0 placedPC with segs := segs, root := 0x40000 }

/-- Core 0 in user mode, about to issue, its bank as f makes it. -/
def user (f : Bank → Bank) : State :=
  let s := (readyCore State.reset).setLaunch 0 (some launch0)
  s.setBk (f s.bk)

def sup (f : Bank → Bank) : State := user (fun b => f { b with mode := .supervisor })

/-- Scalar registers set to values, from s1 on. -/
def regs (l : List Word) (b : Bank) : Bank :=
  (List.range l.length).foldl (fun b i => putReg b (BitVec.ofNat 6 (i + 1)) (l.getD i 0)) b

def page0 : Word := 0x50003#64

/-- The page table of the paged segment: one page present and writable at 0x50000, the next not present. -/
def paged (s : State) : State :=
  let put (m : List Host.Cell) (a v : Nat) : List Host.Cell := memWrite m a (toBytes 8 v)
  { s with mem := put (put (put s.mem 0x40000 0x60001) 0x60008 0x70001) 0x70000 page0.toNat }

/-- Two layouts' operand fields. -/
def fA (a b c : BitVec 6) (m : BitVec 12 := 0) : LayA := ⟨a, b, c, false, false, m⟩
def hd (dst : BitVec 6) (sch : BitVec 14 := 0) : Head := ⟨0, dst, sch⟩

/-- An answer checked by evaluation. -/
theorem ok_of {ε α : Type} [DecidableEq α] {r : Except ε α} {v : α}
    (h : (match r with | .ok x => decide (x = v) | .error _ => false) = true) : r = .ok v := by
  cases r <;> simp_all

/-! ## Words of the spec and what they decode to (R31 to R47) -/

/-- R35, R164: op 0x01, sD 5, sA 5, sB 6 lie at [30:25], [24:19], [18:13], [12:7]. -/
theorem test_decode_add : decode 0x0228A300#32 0 = .ok (.add 5 5 6) := by rfl

theorem test_decode_lds : decode 0x4038D000#32 0 = .ok (.lds 7 6 2 0) := by rfl
theorem test_decode_xlat : decode 0x4C112000#32 0 = .ok (.xlat 2 9) := by rfl
theorem test_decode_cbadv : decode 0x5A004598#32 0 = .ok (.cbadv 2 11 true) := by rfl
theorem test_decode_amo : decode 0x4E388430#32 0 = .ok (.amo 7 4 8 1 true false 0) := by rfl
theorem test_decode_cas : decode 0x503044E8#32 0 = .ok (.cas 6 2 9 3 false true) := by rfl
theorem test_decode_loopi : decode 0x34000C05#32 0 = .ok (.loopi 0 false 3 5) := by rfl
theorem test_decode_rep : decode 0x38400800#32 0 = .ok (.repImmediate 2) := by rfl
theorem test_decode_lbrk : decode 0x36090000#32 0 = .ok (.lbrk 0 9) := by rfl
theorem test_decode_exit : decode 0x64000800#32 0 = .ok .exit := by rfl
theorem test_decode_addi : decode 0x0428A064#32 0 = .ok (.addi 5 5 100) := by rfl
theorem test_decode_vadd : decode 0x80010820#32 0x0C502000#32 = .ok (.vadd ⟨0, 4, 0x820⟩ ⟨3, 5, 0, true, false, 0⟩) := by
  rfl
theorem test_decode_vshape : decode 0x8EC00000#32 0x00000801#32 = .ok (.vshape ⟨0, 0, 0⟩ ⟨0, 0, 0x801⟩) := by rfl
theorem test_decode_vld : decode 0x8A004000#32 0x04080000#32 = .ok (.vld ⟨0, 1, 0⟩ ⟨1, 0, 0x80000⟩) := by rfl
theorem test_decode_vdot4 : decode 0x89C0C000#32 0x0421C140#32 = .ok (.vdot4 ⟨0, 3, 0⟩ ⟨1, 2, 7, false, false, 0x140⟩) := by
  rfl
theorem test_decode_mmul : decode 0x90960004#32 0x2C034000#32 = .ok (.mmul ⟨1, 24, 4⟩ ⟨11, 0, 13, false, false, 0⟩) := by
  rfl
theorem test_decode_mzero : decode 0x91C50000#32 0x00000001#32 = .ok (.mzero ⟨0, 20, 0⟩ ⟨0, 0, 0, false, false, 1⟩) := by
  rfl
theorem test_decode_mlatch :
    decode 0x90070420#32 0x10002008#32 = .ok (.mlatch ⟨0, 28, 0x420⟩ ⟨4, 0, 0, true, false, 8⟩) := by rfl
theorem test_decode_mdrain : decode 0x91484000#32 0x14000100#32 = .ok (.mdrain ⟨0, 33, 0⟩ ⟨5, 0, 0, false, false, 0x100⟩) := by
  rfl
theorem test_decode_cfill : decode 0xA0850000#32 0x08900002#32 = .ok (.cfill ⟨0, 20, 0⟩ ⟨2, 9, 0, false, false, 2⟩) := by
  rfl
theorem test_decode_cpy : decode 0xA0054000#32 0x28200000#32 = .ok (.cpy ⟨0, 21, 0⟩ ⟨10, 2, 0, false, false, 0⟩) := by rfl
theorem test_decode_kvstrm : decode 0xB0838000#32 0x10527001#32 = .ok (.kvstrm ⟨0, 14, 0⟩ ⟨4, 5, 9, true, true, 1⟩) := by
  rfl
theorem test_decode_fact : decode 0xC0050000#32 0x40900000#32 = .ok (.fact ⟨0, 20, 0⟩ ⟨16, 9, 0, false, false, 0⟩) := by
  rfl
theorem test_decode_fsa : decode 0xC0454000#32 0x49100000#32 = .ok (.fsa ⟨0, 21, 0⟩ ⟨18, 17, 0, false, false, 0⟩) := by rfl
theorem test_decode_bfpost : decode 0xD0464000#32 0x28000000#32 = .ok (.bfpost ⟨0, 25, 0⟩ ⟨10, 0, 0, false, false, 0⟩) := by
  rfl
theorem test_decode_bdgq : decode 0xD4050000#32 0x14600000#32 = .ok (.bdgq ⟨0, 20, 0⟩ ⟨5, 6, 0, false, false, 0⟩) := by rfl
theorem test_decode_bdghold :
    decode 0xD4554004#32 0x1461C000#32 = .ok (.bdghold ⟨1, 21, 4⟩ ⟨5, 6, 7, false, false, 0⟩) := by rfl

/-- R47, R48: a word of zeros, a reserved bit set, and an engine number that no engine has are no instructions. -/
theorem test_decode_rejects :
    decode 0#32 0 = .error (.ill 0) ∧ decode 0x4C112080#32 0 = .error (.ill 0) ∧
    decode 0xE0000000#32 0 = .error (.ill 0) := ⟨rfl, rfl, rfl⟩

/-! ## Ill-formed instructions, one for each check of `legal` -/

theorem test_wf_core :
    ([.bfx 1 2 60 4, .bfi 1 2 1 63, .wrapa 1 2 16, .loop 0 false 1 0, .loopi 0 false 0 5, .loopi 0 false 1 0,
      .repImmediate 0, .ldsu 1 2 3 0, .ldh 1 16 0 0, .sth 1 16 0 0, .ldhu 1 16 0 0, .ldhu 1 2 3 0, .xlat 16 1, .hinv 16,
      .hq 1 16, .amo 1 16 2 0 false true 0, .cas 1 16 2 0 false true, .lda 1 16 0 true, .stl 16 1 0 true, .cbset 16 1,
      .cbadv 16 1 true, .cbq 1 16, .cbwait 16 1 true, .ecfg 0x105 1, .ecfg 0x010 1, .erd 1 0x105, .wid 1 7,
      .csrr 1 0x40A, .csrw 0x40A 1, .csrw 0xC01 1] : List Instr).all (fun i => !i.wf) = true := by decide

/-- R41 to R45: the checks of the head and of channel, mask and type fields, each on one instruction. -/
theorem test_wf_engine :
    ([.vadd ⟨2, 0, 0⟩ (fA 0 0 0), .vadd ⟨0, 0, 1⟩ (fA 0 0 0), .vadd ⟨1, 0, 4⟩ (fA 0 0 0), .vadd ⟨0, 0, 0x400⟩ (fA 0 0 0),
      .vadd ⟨0, 0, 0x10⟩ (fA 0 0 0), .vadd (hd 0) ⟨16, 0, 0, true, false, 0⟩, .vadd (hd 0) (fA 0 0 1),
      .vadd (hd 0) (fA 0 0 0 0xC00), .vadd (hd 0) (fA 0 0 0 0x40), .vadd (hd 0) (fA 0 0 0 1), .vsqrt (hd 0) (fA 0 1 0),
      .vcvt (hd 0) ⟨0, 0, 1⟩, .vqblk (hd 0) ⟨0, 0, 0x1800⟩, .vdqblk (hd 0) ⟨0, 0, 1⟩, .vred (hd 0) (fA 0 0 0 8),
      .vdot4 (hd 0) (fA 0 0 0 1), .vld (hd 0) ⟨16, 0, 0x80000⟩, .vst (hd 0) ⟨0, 0, 0x400⟩, .vldc (hd 0) (fA 0 0 0),
      .vstc (hd 0) (fA 0 0 0), .vmov (hd 0) (fA 0 0 0 0x400), .vsel (hd 0) (fA 0 0 0), .vbcast (hd 0) ⟨0, 0, 0x100⟩,
      .vtrans (hd 0) (fA 0 0 0 0x800), .vgat (hd 0) ⟨0, 16, 0x80000⟩, .vsca (hd 0) ⟨0, 0, 1⟩, .mlog (hd 16) (fA 0 0 0),
      .vkeep (hd 0) (fA 0 0 0 0xC00), .vrng (hd 0) (fA 0 0 0 2), .vshape (hd 1) ⟨0, 0, 0x101⟩, .vdfr (hd 0) (fA 1 0 0),
      .vdrn (hd 0) (fA 0 0 0 1), .vdcnt (hd 0) (fA 0 0 0 0x20), .mlatch (hd 0) (fA 0 0 0 0x18), .mgath (hd 0) (fA 0 0 0 0x80),
      .mmul (hd 0) (fA 1 0 0 0x100), .mattn (hd 0) (fA 0 0 0 1), .mpair (hd 0) (fA 0 1 0), .mdrain (hd 0) (fA 0 0 0 1),
      .mld (hd 0) (fA 0 0 0 1), .mzero (hd 0) (fA 0 0 0), .mmask (hd 0) (fA 0 0 1), .mstat (hd 0) (fA 0 1 0),
      .mtest (hd 0) (fA 0 0 0), .mwait (hd 0) (fA 0 0 0), .cpy (hd 0) (fA 0 0 1), .cpyw (hd 0) (fA 0 0 0),
      .cfill (hd 0) (fA 0 0 0 4), .cgat (hd 0) (fA 0 0 0 1), .csca (hd 0) (fA 0 0 0 1), .cxs (hd 0) (fA 0 0 0 1),
      .cpeer (hd 0) (fA 0 0 0 2), .kvopen (hd 0) (fA 0 0 0 1), .kvseek (hd 0) (fA 0 0 0 1), .kvstrm (hd 0) (fA 0 0 0),
      .kvapp (hd 0) (fA 0 0 1), .kvref (hd 0) (fA 0 0 1), .kvfree (hd 0) (fA 0 1 0), .kvstat (hd 0) (fA 0 0 1),
      .fact (hd 0) (fA 0 0 1), .fsense (hd 0) ⟨0, 0, 0, true, false, 0⟩, .fscal (hd 0) (fA 1 0 0), .xconf (hd 0) (fA 0 0 0 1),
      .bfq (hd 0) (fA 0 0 1), .bfpost (hd 0) (fA 0 1 0), .bdgq (hd 0) (fA 0 0 1), .bdghold (hd 0) (fA 0 0 0 1)] :
      List Instr).all (fun i => !i.wf) = true := by decide

/-- A device's own step stands in no word, and a form the spec gives is well-formed. -/
theorem test_wf_accepts :
    (Instr.wf .park = false) ∧ (Instr.wf (.add 5 5 6) = true) ∧ (Instr.wf (.vadd ⟨0, 4, 0x820⟩ ⟨3, 5, 0, true, false, 0⟩) = true) :=
  by decide

/-! ## Witnesses: arithmetic and control flow -/

/-- A divisor that is not zero with no overflow, a divisor of zero, and the overflow. -/
theorem wit_IntegerArithmetic :
    let b := (user (regs [7, 2, 0x8000000000000000, 0xFFFFFFFFFFFFFFFF])).bk
    (getReg b 2 ≠ 0 ∧ ¬(getReg b 1 = 0x8000000000000000#64 ∧ getReg b 2 = 0xFFFFFFFFFFFFFFFF#64)) ∧ getReg b 5 = 0 ∧
    (getReg b 3 = 0x8000000000000000#64 ∧ getReg b 4 = 0xFFFFFFFFFFFFFFFF#64) := by decide

/-- `bfx` with the largest field, and with one past the word. -/
theorem wit_ImmediateForms : (0 : BitVec 6).toNat + ((63 : BitVec 6).toNat + 1) ≤ 64 ∧
    64 < (1 : BitVec 6).toNat + ((63 : BitVec 6).toNat + 1) := by decide

theorem wit_BranchesAndJumps :
    let s := user (regs [4, 6, 0x0100000000000000, 0x00FFFFFFFFFFFFFC])
    let a (r : Reg) := (getReg s.bk r).toNat
    (s.bk.mode = .supervisor ∨ s.bk.repc = 0) ∧ (a 4 % 4 = 0 ∧ a 4 < 2 ^ 56) ∧
    (s.bk.mode = .user ∧ s.bk.repc = 0 ∧ s.bk.loads = []) ∧ a 2 % 4 ≠ 0 ∧ (a 3 % 4 = 0 ∧ 2 ^ 56 ≤ a 3) := by decide

/-- A plain level and a pipelined one, at their ends, and an inner level a break leaves alone. -/
def looping : Bank := { (user (regs [5, 9])).bk with
  pc := 0x100, rotn := 8, rrb := 3, spm := 7, sp := 1
  loops := #v[⟨true, true, false, false, 2, 5, 0x80, 0x104⟩, ⟨true, false, false, false, 0, 0, 0x80, 0x200⟩,
    LoopLevel.zero, LoopLevel.zero] }

theorem wit_Loops :
    let s := user (regs [0, 1])
    let b := looping
    ((s.bk.mode = .supervisor ∨ s.bk.repc = 0) ∧ s.bk.pc.toNat + 2 ^ 19 < 2 ^ 56 ∧ getReg s.bk 1 = 0 ∧ getReg s.bk 2 ≠ 0) ∧
    (b.mode = .user ∧ (getLoop b 0).act = true ∧ (getLoop b 0).stop = lo56 0x104 ∧
      ∀ m, m ≠ 0 → (getLoop b m).act = true → (getLoop b m).stop ≠ lo56 0x104) ∧
    ((getLoop b 0).pipe = true ∧ b.rotn.toNat ≠ 0) ∧ (getLoop b 1).pipe = false ∧
    ((b.mode = .supervisor ∨ b.repc = 0) ∧ (getLoop b 0).act = true ∧ (getLoop b 0).ut = false ∧
      (∀ j ∈ b.jobs, tagBeyond 0 (getLoop b 0).idx j.e.tag = false) ∧ getReg b 1 = (getLoop b 0).idx ∧
      (getLoop b 0).idx.toNat < (getReg b 2).toNat) := by decide

theorem wit_RetirementAndRepeat :
    let s := (user (regs [0, 2])).withFetchWord 64 (0x0228A30038400000 : Nat)
    let b (n : Word) := { s.bk with repc := n }
    ((sup id).bk.mode = .supervisor) ∧ (s.bk.mode = .user ∧ s.bk.repc = 0 ∧
      ∀ l, (getLoop s.bk l).act = true → (getLoop s.bk l).stop ≠ lo56 (s.bk.pc + 4)) ∧
    (1 < (b 2).repc.toNat ∧ (b 1).repc = 1) ∧ (getReg s.bk 2 ≠ 0 ∧ getReg s.bk 1 = 0) ∧
    fetchAt (retire s 1) (retireBank s.bk 1) (retireBank s.bk 1).pc = .ok (.add 5 5 6) ∧
    needsSupervisor (.add 5 5 6) = false := by
  refine ⟨rfl, by decide, by decide, by decide, rfl, rfl⟩

/-! ## Witnesses: memory access -/

/-- The last word of the segment, one byte past it, a misaligned address, and a segment without the right. -/
theorem wit_OnChipAddressCheck :
    let s := user id
    let inside (a : Word) (z : Nat) (r w : Bool) := ∃ i g, findSeg (s.segsOf s.bk) a.toNat = some (i, g) ∧ g.tier = 0 ∧
      a.toNat + z ≤ g.vbase + g.len ∧ (r = true → g.r = true) ∧ (w = true → g.w = true)
    (inside 0xBFFFF8 8 true true ∧ (0xBFFFF8#64).toNat % 8 = 0) ∧ (inside 0xBFFFF7 8 true true ∧ (0xBFFFF7#64).toNat % 8 ≠ 0) ∧
    ¬inside 0xBFFFF9 8 true false ∧ ¬inside 0x10000000 8 true false := by
  have h1 : findSeg ((user id).segsOf (user id).bk) 12582905 = some (0, seg0) := rfl
  have h2 : findSeg ((user id).segsOf (user id).bk) 0x10000000 = some (1, seg1) := rfl
  refine ⟨⟨⟨0, seg0, by decide⟩, by decide⟩, ⟨⟨0, seg0, by decide⟩, by decide⟩, ?_, ?_⟩
  · rintro ⟨i, g, h, -, hb, -⟩
    cases h1.symm.trans h
    exact absurd hb (by decide)
  · rintro ⟨i, g, h, ht, -⟩
    cases h2.symm.trans h
    exact absurd ht (by decide)

/-- Handles 1 to 5: invalid, a window on the unpaged segment, a walk pending, a page missing, and the paged page. -/
def handled (s : State) : State :=
  let win (f : Handle → Handle) : Handle :=
    f ⟨true, false, false, 1, true, true, false, 0x10000000, 1, 0x10000000, 0x10010000, 0x20000, false⟩
  s.setBk { s.bk with handles := #v[Handle.invalid, Handle.invalid, win id, win (fun h => { h with pd := true }),
    win (fun h => { h with missing := true }),
    win (fun h => { h with va := 0x20000000, seg := 2, lo := 0x20000000, hi := 0x20010000, phys := 0x50000 }),
    win (fun h => { h with va := 0x20000000, seg := 2, lo := 0x20000000, hi := 0x20010000, pd := true }),
    win (fun h => { h with va := 0x20010000, seg := 2, lo := 0x20010000, hi := 0x20020000, pd := true }),
    Handle.invalid, Handle.invalid, Handle.invalid, Handle.invalid, Handle.invalid, Handle.invalid, Handle.invalid,
    Handle.invalid] }

theorem wit_HandleAddressCheck :
    let s := handled (user id)
    let h (r : Reg) := getHandle s.bk r
    let a (r : Reg) (off : Int) : Int := ((h r).va.toNat : Int) + off
    let window (r : Reg) (off : Int) := ((h r).lo : Int) ≤ a r off ∧ a r off + 8 ≤ (h r).hi ∧ (h r).r = true ∧ (h r).w = true
    (h 1).v = false ∧ ((h 2).v = true ∧ ¬window 2 (-8) ∧ ¬window 2 0xFFFC) ∧ (window 2 4 ∧ a 2 4 % 8 ≠ 0) ∧
    (window 3 0xFFF8 ∧ a 3 0xFFF8 % 8 = 0 ∧ (h 3).pd = true ∧ (h 3).missing = false) ∧ (window 4 0 ∧ (h 4).missing = true) ∧
    (window 2 0xFFF8 ∧ a 2 0xFFF8 % 8 = 0 ∧ (h 2).pd = false ∧ (h 2).missing = false ∧
      ((s.segsOf s.bk)[(h 2).seg]?.all (fun g => !g.pg)) = true) := by decide

/-- On-chip and through a handle: the core's own slice, and memory that answers later. -/
theorem wit_LoadsComplete :
    let s := handled (user (regs [0xBFFFF8]))
    let t : Target := ⟨0x1000000BFFFF8, 0xBFFFF8, true⟩
    let u : Target := ⟨0x20008, 0x10000008, false⟩
    s.Quiet ∧ (onChipTarget s s.bk (getReg s.bk 1) 8 true false = .ok t ∧ ownSlice s.cur t = true ∧
      AccessPasses s t 8 false ∧ s.poisonIn t.key 8 = none) ∧
    (handleTarget s s.bk 2 8 8 true false = .ok u ∧ ownSlice s.cur u = false ∧ mmxClash s.bk u.va 8 false = false) := by
  refine ⟨⟨by decide, rfl, by decide⟩, ⟨rfl, by decide, ⟨rfl, by decide +kernel⟩, by decide +kernel⟩, ⟨rfl, by decide, by decide⟩⟩

def pending : PendingLoad :=
  { rd := 4, key := 0x20008, got := none, win := some (0x10000000, 0x10010000), va := 0x10000008, checked := false, size := 8, signed := true, pc := 0x40
    x := (user id).bk.x, loops := (user id).bk.loops, handles := (user id).bk.handles, repc := 0, rrb := 0, sp := 0
    spm := 0 }

/-- R185, R241: a posted store is not seen before it performs. -/
theorem test_posted_store :
    let s := user (fun b => { b with posted := [⟨0x20000, 0x10000000, none, [7, 0, 0, 0]⟩] })
    s.natAt 0x20000 4 = 0 ∧ (storePerforms s 0 false 0).natAt 0x20000 4 = 7 := by decide +kernel

/-- An unpoisoned and a poisoned load at the head of the outstanding ones. -/
theorem wit_LoadReturns :
    let s := user (fun b => { b with loads := [pending] })
    let q := s.setPoison 0x20000 (some .due)
    pending.got = none ∧ { pending with got := some 7 }.got = some 7 ∧ s.Quiet ∧ q.Quiet ∧ (s.active 0).loads = [pending] ∧ (s.active 0).stoppedAt = none ∧
    (s.checkTag ⟨0x20008, 0x10000008, false⟩ (s.phaseOf s.bk) 0 false).isSome = true ∧ s.poisonIn 0x20008 8 = none ∧
    q.poisonIn 0x20008 8 = some .due ∧ (q.active 0).mode = .user := by
  refine ⟨rfl, rfl, ⟨by decide, rfl, by decide⟩, ⟨by decide, rfl, by decide⟩, rfl, rfl, rfl, rfl, rfl, rfl⟩

/-- A store to the core's slice, to unpaged and to paged memory. -/
theorem wit_StoresComplete :
    let s := paged (handled (user (regs [0xBFFFF8])))
    let t : Target := ⟨0x1000000BFFFF8, 0xBFFFF8, true⟩
    let u : Target := ⟨0x20000, 0x10000000, false⟩
    let v : Target := ⟨0x50008, 0x20000008, false⟩
    let p : PostedStore := ⟨0x20000, 0x10000000, some (0x10000000, 0x10010000), [7, 0, 0, 0, 0, 0, 0, 0]⟩
    let w := user (fun b => { b with posted := [p] })
    (w.Quiet ∧ (w.bankAt 0 false).posted[0]? = some p) ∧
    s.Quiet ∧ (onChipTarget s s.bk (getReg s.bk 1) 8 false true = .ok t ∧ AccessPasses s t 8 true ∧ Unpaged s t.va) ∧
    (handleTarget s s.bk 2 0 8 false true = .ok u ∧ AccessPasses s u 8 true ∧ Unpaged s u.va) ∧
    (handleTarget s s.bk 5 8 8 false true = .ok v ∧ AccessPasses s v 8 true ∧
      ∃ n g, findSeg (s.segsOf s.bk) v.va = some (n, g) ∧ g.pg = true ∧
        walk s (s.rootOf s.bk) g.chk v.va = some (0x70000, page0)) := by
  refine ⟨⟨⟨by decide, rfl, by decide⟩, rfl⟩, ⟨by decide, rfl, by decide⟩, ⟨rfl, ⟨rfl, by decide⟩, ?_⟩, ⟨rfl, ⟨rfl, by decide⟩, ?_⟩, ok_of (by decide +kernel), ⟨by decide +kernel, by decide +kernel⟩,
    2, ⟨0x20000000, 0x20000, 0, true, true, false, 1, true, false, 0⟩, rfl, rfl, by decide +kernel⟩
  · rintro g h; cases h; rfl
  · rintro g h; cases h; rfl

theorem wit_AtomicAndOrdered :
    let s := handled (user (regs [0xBFFFF8]))
    let t : Target := ⟨0x1000000BFFFF8, 0xBFFFF8, true⟩
    let u : Target := ⟨0x20000, 0x10000000, false⟩
    s.Quiet ∧ (onChipTarget s s.bk (getReg s.bk 1) 8 true true = .ok t ∧ mmxClash s.bk t.va 8 true = false ∧
      s.poisonIn t.key 8 = none ∧ Unpaged s t.va) ∧
    (handleTarget s s.bk 2 0 8 true true = .ok u ∧ mmxClash s.bk u.va 8 true = false ∧ s.poisonIn u.key 8 = none ∧
      Unpaged s u.va) ∧
    (handleTarget s s.bk 2 0 1 true false = .ok u ∧ onChipTarget s s.bk (getReg s.bk 1) 8 false true = .ok t) := by
  refine ⟨⟨by decide, rfl, by decide⟩, ⟨rfl, by decide, rfl, ?_⟩, ⟨rfl, by decide, rfl, ?_⟩, rfl, rfl⟩
  · rintro g h; cases h; rfl
  · rintro g h; cases h; rfl

theorem wit_HandlesAndWalks :
    let s := paged (handled (user (regs [0x1000FFFF, 0x0FFFFFFF])))
    (s.Quiet ∧ s.bk.vec.queue.any (fun e => namesHandle e.i (ix16 3)) = false) ∧
    (∃ n g, findSeg (s.segsOf s.bk) (getReg s.bk 1).toNat = some (n, g) ∧ g.pg = false) ∧
    (s.bk.mode = .user ∧ s.bk.loads = [] ∧ findSeg (s.segsOf s.bk) (getReg s.bk 2).toNat = none) ∧
    (let h (i : Fin 16) := (s.active 0).handles.get i
     ((h 6).v = true ∧ (h 6).pd = true ∧ (h 6).missing = false) ∧ ((h 7).v = true ∧ (h 7).pd = true ∧ (h 7).missing = false) ∧
     walk s (s.rootOf (s.active 0)) false (h 6).va.toNat = some (0x70000, page0) ∧
     walk s (s.rootOf (s.active 0)) false (h 7).va.toNat = none) := by
  refine ⟨⟨⟨by decide, rfl, by decide⟩, by decide⟩, ⟨1, _, rfl, rfl⟩, by decide, by decide⟩

/-! ## Witnesses: barriers, channels, configuration, exceptions, work items -/

/-- A core about to arrive, one with a `bara` outstanding that has released, and a context all of whose cores arrived. -/
theorem wit_BarrierProtocol :
    let s := user id
    let o := { user (fun b => { b with baraOut := true, barReleased := some 0, barArrived := true }) with clk := 8 }
    let l := { launch0 with arrived := 1, lastArrival := 3, sweptAt := some 2 }
    (s.bk.repc = 0 ∧ s.bk.slot = some 0 ∧ s.launch 0 = some launch0 ∧ s.bk.baraOut = false ∧ s.bk.vec.queue = [] ∧
      s.bk.barArrived = false ∧ s.bk.mode = .user ∧ s.bk.loads = []) ∧
    (o.bk.baraOut = true ∧ o.bk.barReleased = some 0 ∧ 0 + 4 ≤ o.stamp ∧ o.bk.mode = .user ∧ o.bk.repc = 0 ∧ o.bk.loads = []) ∧
    ((releaseTick l).isSome = true ∧ bit (participants l) 0 = true ∧ (o.setLaunch 0 (some l)).residentAt 0 0 = some false) ∧
    (launch0.started = true ∧ launch0.state ≠ .ended ∧ launch0.sweptAt = none ∧
      shutIn s ((launch0.segs.filter (fun g => g.tier = 0)).map (fun g => memRegion g.vbase g.len)) = []) := by decide

/-- A descriptor in the slice: a ring that ends at the slice's end, and 32 bytes of zeros. -/
def descs (s : State) : State := s.storeWords 0x1000000000100 [0xBF0000, 65536, 1, 0]

theorem wit_ChannelSet :
    let s := descs (user (regs [0x100, 0x200]))
    let w (k : Nat) (i : Nat) : Word := s.wordAt (k + 8 * i)
    let t (a : Nat) : Target := ⟨0x1000000000000 + a, a, true⟩
    s.Quiet ∧ s.bk.repc = 0 ∧ (onChipTarget s s.bk (getReg s.bk 1) 32 true false = .ok (t 0x100) ∧ AccessPasses s (t 0x100) 32 false ∧
      s.poisonIn (t 0x100).key 32 = none ∧ chanNamed s.bk (ix16 5) = false) ∧
    (let k := (t 0x100).key
     (w k 0).toNat < 2 ^ 28 ∧ (w k 0).toNat % 32 = 0 ∧ (w k 1).toNat % 32 = 0 ∧ 32 ≤ (w k 1).toNat ∧ (w k 1).toNat ≤ 65536 ∧
     1 ≤ (w k 2).toNat ∧ (w k 2).toNat ≤ 4096 ∧ (w k 0).toNat % 2 ^ 24 + (w k 1).toNat * (w k 2).toNat ≤ 0xC00000 ∧ w k 3 = 0) ∧
    (onChipTarget s s.bk (getReg s.bk 2) 32 true false = .ok (t 0x200) ∧ AccessPasses s (t 0x200) 32 false ∧
      s.poisonIn (t 0x200).key 32 = none) ∧
    (w 0x1000000000200 0 = 0 ∧ w 0x1000000000200 1 = 0 ∧ w 0x1000000000200 2 = 0 ∧ w 0x1000000000200 3 = 0) := by
  refine ⟨⟨by decide, rfl, by decide⟩, rfl, ⟨ok_of (by decide +kernel), ⟨rfl, by decide +kernel⟩, by decide +kernel, by decide⟩,
    by decide +kernel, ⟨ok_of (by decide +kernel), ⟨rfl, by decide +kernel⟩, by decide +kernel⟩, by decide +kernel⟩

/-- Channel 1: a home register with 3 of 4 slots filled; channel 2: unset; channel 3: a view of core 1's channel 3. -/
def chans (b : Bank) : Bank :=
  let c : Chan := ⟨true, false, 0, 0x1000, 64, 4, 3, 0, 3⟩
  { b with chans := #v[Chan.unset, c, Chan.unset, { c with view := true, home := 1, base := 0x1001000 }, c, c, Chan.unset, Chan.unset,
    Chan.unset, Chan.unset, Chan.unset, Chan.unset, Chan.unset, Chan.unset, Chan.unset, Chan.unset] }

/-- The core waits on its view of a ready channel; and has waited a second on a channel that does not move. -/
def viewing : State :=
  let s := user (fun b => { chans b with stall := some (.channel 3 false 1 false) })
  s.setBankAt 1 false { s.bankAt 1 false with
    slot := some 0, chans := Vector.replicate 16 ⟨true, false, 1, 0x1001000, 64, 4, 3, 0, 3⟩ }

def blocked : State :=
  let b0 := chans (user id).bk
  let s := user (fun _ => b0)
  { user (fun _ => { b0 with
      stall := some (.channel 1 true 2 false)
      chst := some (0, chanPointers { s with cur := 0 } { b0 with stall := some (.channel 1 true 2 false) } (s.activeLoc 0) [1]) }) with
    clk := 1200000000 }

theorem wit_ChannelProtocol :
    let s := user (fun b => chans (regs [1, 2, 3, 4, 5, 0] b))
    let c := getChan s.bk 1
    let v (r : Reg) := (getReg s.bk r).toNat
    (c.set = true ∧ c.view = false ∧ c.filled ≤ c.count) ∧ (v 1 ≤ c.count - c.filled ∧ v 6 ≤ c.count - c.filled) ∧
    (v 3 ≤ c.filled) ∧ (v 2 ≤ c.count ∧ c.count - c.filled < v 2) ∧ (v 4 ≤ c.count ∧ c.filled < v 4) ∧
    (s.bk.mode = .user ∧ s.bk.loads = [] ∧ (getChan s.bk 2).set = false ∧ c.count < v 5) ∧
    (let b := viewing.active 0
     b.stall = some (.channel 3 false 1 false) ∧ (chanAt b 3).view = true ∧ b.stoppedAt = none ∧
     ((viewing.chanHome 0 b (viewing.activeLoc 0) 3).any (fun h => chanReady h.2.2 false 1)) = true) ∧
    (let b := blocked.active 0
     b.mode = .user ∧ b.stoppedAt = none ∧ b.stall = some (.channel 1 true 2 false) ∧ queueHeads b = [] ∧
     anyRunning blocked b.slot = false ∧
     b.chst = some (0, chanPointers { blocked with cur := 0 } b (blocked.activeLoc 0) [1]) ∧ 0 + 600000000 ≤ blocked.stamp) := by
  decide +kernel

theorem wit_WrapAddress :
    let s := user chans
    (getChan s.bk 1).set = true ∧ (getChan s.bk 2).set = false ∧ s.bk.mode = .user ∧ s.bk.loads = [] := by decide

/-- A job of SEQ 7 in the queue. -/
def job7 : Job :=
  newJob 7 .copy (baseEntry (user id).bk (.cfill (hd 20) (fA 1 0 0)) (hd 20)) 20 [] [] [] 0

theorem wit_QueriesAndWaits :
    let s := user (fun b => { chans (regs [0x8000000000000007, 7, 8, 1] b) with jobs := [job7] })
    let a (r : Reg) := getReg s.bk r
    (a 1).getLsbD 63 = true ∧ (∀ j ∈ s.bk.jobs, j.seq = (a 3).setWidth 16 → j.phase = .done) ∧
    ((a 2).getLsbD 63 = false ∧ ∃ j ∈ s.bk.jobs, j.seq = (a 2).setWidth 16 ∧ j.phase ≠ .done) ∧
    (s.bk.jobs.find? (fun j => j.seq = (a 2).setWidth 16) = some job7) ∧ (∀ j ∈ s.bk.jobs, j.seq ≠ (a 3).setWidth 16) ∧
    (getChan s.bk 2).set = false ∧
    (let c := getChan s.bk 1
     c.set = true ∧ c.view = false ∧ c.filled < 2 ^ 13 ∧ c.head < 2 ^ 12 ∧ c.tail < 2 ^ 12) ∧
    ((a 5).toNat ≤ s.clk / 2 ∧ deliveryOwed s s.cur = false ∧ ¬(a 4).toNat ≤ s.clk / 2) := by decide +kernel

/-- The largest and the smallest value ROTN takes, and one above. -/
theorem wit_ConfigWrites :
    let s := user (regs [64, 65])
    (0x641#12).toNat ∈ writableItems ∧ itemValid 0x641 (getReg s.bk 1) = true ∧ itemValid 0x641 0 = true ∧
    (0x641#12 = 0 → s.bk.vec.queue = []) ∧ (itemValid 0x641 (getReg s.bk 2) = false ∧ s.bk.mode = .user ∧ s.bk.loads = []) ∧
    itemValid 0 0 = true ∧ s.bk.vec.queue = [] := by decide

theorem wit_ConfigurationAndCsrs : (sup id).bk.mode = .supervisor ∧ (sup id).bk.vec.queue = [] := by decide

theorem wit_Exceptions :
    let s := user id
    (s.bk.mode = .user ∧ s.bk.loads = [] ∧ s.bk.repc = 0) ∧ bits (0x800#12) 10 2 = 2#2 ∧ bits (0x400#12) 10 2 = 1#2 ∧
    loopSpan s.bk = false ∧
    ((sup id).bk.mode = .supervisor ∧ (sup id).bk.slot = some 0 ∧ (sup id).launch 0 = some launch0 ∧
      launch0.finishing = none) := by decide

theorem wit_StallsEnd :
    let s (x : Stall) := { user (fun b => { b with stall := some x, barReleased := some 0 }) with clk := 8 }
    (user id).bk.repc = 0 ∧ clStalled (s .loads) 0 = false ∧ (((s .loads).active 0).stoppedAt = none ∧ ((s .loads).active 0).stall = some .loads ∧
      ((s .loads).active 0).loads = []) ∧
    (((s (.wfe 8)).active 0).stall = some (.wfe 8) ∧ 8 ≤ (s (.wfe 8)).clk) ∧
    (((s .barrier).active 0).stall = some .barrier ∧ ((s .barrier).active 0).barReleased = some 0 ∧ 0 + 4 ≤ (s .barrier).stamp) := by
  decide

/-- A core between two work items, and one that runs an item. -/
theorem wit_WorkItems :
    let s := user (fun b => { b with itemLive := false })
    let b := s.active 0
    (b.slot = some 0 ∧ s.launch 0 = some launch0 ∧ b.itemLive = false ∧ b.shareEnded = false ∧ b.stoppedAt = none ∧
      b.mode = .user ∧ clStalled s 0 = false ∧ (nextCombo launch0.hdr 0 b.combo).isSome = true) ∧
    (let s := user id
     s.bk.repc = 0 ∧ s.bk.slot = some 0 ∧ (s.core s.cur).tracker.length < 8 ∧ s.bk.mat.latchS = none ∧
     s.bk.mat.latchV = none ∧ s.bk.mat.latchO = none ∧ s.launch 0 = some launch0 ∧ launch0.hdr.nf ≤ 6 ∧
     (0#3).toNat < launch0.hdr.nf ∧ launch0.hdr.nf ≤ (1#3).toNat ∧ launch0.hdr.nf ≤ (7#3).toNat) := by decide +kernel

/-! ## Witnesses: engine instructions at enqueue -/

/-- A read answers, and its answer has a property. -/
def answers {ε α : Type} (r : Except ε α) (p : α → Bool) : Bool := match r with
  | .ok x => p x
  | .error _ => false

/-- The vector queue one short of full. -/
def vecBank (b : Bank) : Bank :=
  { chans b with
    fmt := b.fmt.set 1 0x4005, sp := 1
    vec := { b.vec with queue := List.replicate 31 (baseEntry b (.vmov (hd 1) (fA 2 0 0)) (hd 1)) } }

theorem wit_VectorQueue :
    let s := user vecBank
    let f : LayA := ⟨1, 4, 0, true, true, 0⟩
    VectorReady s (.vadd (hd 2) f) ∧ VectorReady s (.mlog (hd 2) (fA 1 1 0)) ∧
    (shpRows s.bk.shp = 16 ∧ eCount s.bk.shp (intWidth (cmT (fA 1 0 0))) % 16 = 0 ∧ VectorReady s (.vtrans (hd 2) (fA 1 0 0))) ∧
    (let f : LayB := ⟨1, 0, 0x01000⟩
     cvFrom f < 14 ∧ cvTo f < 14 ∧ cvPART f < 32 / 16 ∧ cvRZ f = false ∧ cvSAT f = false ∧ isTaper (cvFrom f) = false ∧
     isTaper (cvTo f) = false ∧ VectorReady s (.vcvt (hd 2) f)) ∧
    (cvFrom ⟨1, 0, 0x07000⟩ ≠ 13 ∧ isTaper (cvTo ⟨1, 0, 0x07000⟩) = true ∧ isTaper (cvFrom ⟨1, 0, 0x70000⟩) = true ∧
      isTaper (cvTo ⟨1, 0, 0x70000⟩) = false ∧ cvTo ⟨1, 0, 0x70000⟩ ≠ 13) ∧
    (let f : LayB := ⟨1, 0, 0x04000⟩
     answers (blockEntry s.bk (bkFX f) (bkL f)) (fun w => w = 0x4005 && fmtROW w ≤ shpLN s.bk.shp * 32 / fmtWidth (wideFC f) &&
       !fmtBND w) = true ∧ VectorReady s (.vqblk (hd 2) f) ∧ VectorReady s (.vdqblk (hd 2) f)) ∧
    (let g : LayA := fA 1 2 3 0x40
     answers (blockEntry s.bk (mHi g) (mL g)) (fun w => !fmtBND w && fmtROW w % 8 = 0) = true ∧
       VectorReady s (.vdot4 (hd 2) g)) ∧
    ((bcR ⟨1, 0, 0x83F00⟩ = true → bcIDX ⟨1, 0, 0x83F00⟩ < eCount s.bk.shp (bcastWidth ⟨1, 0, 0x83F00⟩)) ∧
      VectorReady s (.vbcast (hd 2) ⟨1, 0, 0x83F00⟩) ∧ VectorReady s (.vgat (hd 2) ⟨1, 2, 0⟩)) ∧
    (vsLN ⟨0, 0, 0x4010⟩ ≠ 0 ∧ vsLN ⟨0, 0, 0x4010⟩ ≤ 64 ∧ vsROWS ⟨0, 0, 0x4010⟩ ≠ 0 ∧ vsROWS ⟨0, 0, 0x4010⟩ ≤ 16) ∧
    (mfPE ⟨1, 0, 0x82400⟩ = true ∧ bit s.bk.sp (mfSPK ⟨1, 0, 0x82400⟩) = false ∧ bit s.bk.sp (mfSPK ⟨1, 0, 0x82000⟩) = true ∧
      loopSpan s.bk = false) ∧
    (cmPE (fA 1 0 0 9) = true ∧ bit s.bk.sp (cmSPK (fA 1 0 0 9)) = false ∧ bit s.bk.sp (cmSPK (fA 1 0 0 8)) = true) := by
  unfold VectorReady ChannelsSet
  refine ⟨?_, ?_, ?_, ?_, ?_, ?_, ?_, ?_, ?_, ?_, ?_⟩ <;> decide +kernel

/-- Two maps of two rows of 32 bytes, a KV request, matrix descriptors, sense descriptors and a post block in core 0's
slice; registers that point to them; channels 1 and 4 set. -/
def engine (f : Bank → Bank) : State :=
  let s := user (fun b => f { chans (regs [0x1000, 0x1040, 0xC000, 3, 0x10000000, 0x1080, 255, 4, 0xFFFF,
    1 ||| 0x7FFE0 <<< 16 ||| 32 <<< 35, 0x1100, 0x1140, 0x1180, 1 ||| 1 <<< 20, 1 ||| 1200000 <<< 16, 0x11C0,
    0x3FFF00000000] b) with fmt := Vector.replicate 64 0x2001 })
  let s := s.storeWords 0x1000000001000 [0x0100000000004000, 31, 1, 64]
  let s := s.storeWords 0x1000000001040 [0x0100000000008000, 31, 1, 64]
  let s := s.storeWords 0x1000000001080 [0x10000000, 3, 4, 0]
  let s := s.storeWords 0x1000000001100 [1, 3, 0, 0, 0, 0]
  let s := s.storeWords 0x1000000001140 [1, 3, 0, 0, 0, 1]
  let s := s.storeWords 0x1000000001180 [1, 3, 0, 0, 0, 0x10000]
  let s := s.storeWords 0x10000000011C0 [0, 0x100, 0x2000, 0x2000, 0x1F00000000, 0]
  { s with host := { s.host with peers := Vector.replicate 4 1 } }

theorem wit_DescriptorReads :
    let s := engine id
    s.Quiet ∧ InTier0 s 0xBFFFC0 64 true false ∧ mmxClash s.bk 0xBFFFC0 64 false = false ∧
    ∀ q ∈ parts 0xBFFFC0 64, s.poisonIn (onKey q.1) q.2 = none ∧
      (s.checkTag ⟨onKey q.1, q.1, true⟩ (s.phaseOf s.bk) s.cur false).isSome = true := by
  refine ⟨⟨by decide, rfl, by decide⟩, ⟨(0, seg0), rfl, by decide⟩, by decide, by decide +kernel⟩

theorem wit_CopyEnqueues :
    let s := engine id
    let a (r : Reg) := getReg s.bk r
    let within (s1 : State) (m : TMap) (r w : Bool) : Bool := boundOk s1 m.lo m.hi r w
    let goes (n : Nat) : Bool := (getReg s.bk (mHi (fA 1 2 3))).toNat * 32 < n
    s.Quiet ∧ JobReady s .copy false ∧
    ((a 1).toNat % 64 = 0 ∧ (a 2).toNat % 64 = 0 ∧ answers (readMap s (a 1)) (fun p => !mapBad p.2 &&
      within p.1 (toMap p.2) false true && goes (toMap p.2).total) = true) ∧
    (answers (readTwoMaps s (a 1) (a 2)) (fun p =>
      let x := p.2.1
      let y := p.2.2
      let mx := toMap x
      let my := toMap y
      !mapBad x && !mapBad y && mx.total = my.total && within p.1 mx true true && within p.1 my true true &&
      !regionsMeet [my.region] [mx.region] && mx.total ≤ 65536 && boundSlice my = some s.cur.val && (boundSlice mx).isSome &&
      (a 4).toNat < 4 && peerV p.1 (a 4).toNat && gatherOk y my mx && gatherOk x mx my &&
      !regionsMeet [my.region, memRegion (a 3).toNat 8] [mx.region]) = true) ∧
    ((a 3).toNat % 4 = 0 ∧ InTier0 s (a 3) 8 true false) := by
  refine ⟨⟨by decide, rfl, by decide⟩, by unfold JobReady; decide, ⟨by decide, by decide, by decide +kernel⟩, by decide +kernel, by decide,
    ⟨(0, seg0), rfl, by decide⟩⟩

/-- `cpyw` through a ring of four slots at 0x8000. -/
theorem wit_CopyEnqueues_cpyw :
    let c : Chan := ⟨true, false, 0, 0x8000, 64, 4, 0, 0, 0⟩
    let s := engine (fun b => putChan b 1 c)
    let f : LayA := ⟨1, 1, 2, true, false, 0⟩
    ChannelsSet s.bk (.cpyw (hd 20) f) ∧ f.ka = true ∧ answers (readTwoMaps s (getReg s.bk 1) (getReg s.bk 2)) (fun p =>
      let my := toMap p.2.2
      0x8000 ≤ my.base && my.base < 0x8000 + 256 && my.hi - my.lo ≤ 256 && boundOk p.1 (0x8000 : Nat) (0x8000 + 256 : Nat) false true)
      = true := by unfold ChannelsSet; decide +kernel

theorem wit_KvEnqueues :
    let s := engine id
    let a (r : Reg) := getReg s.bk r
    JobReady s .kv false ∧ KvDescriptor s (a 5) ∧ (1 ≤ (a 7).toNat ∧ (a 7).toNat ≤ 255) ∧
    ((a 1).toNat % 32 = 0 ∧ InTier0 s (a 1) 128 true true) ∧
    (answers (fmtRowEntry s.bk (mHi (fA 1 1 1)) (mL (fA 1 1 1))) (fun w => 2 * rowBytes w (fmtROW w) = 128) = true ∧
      (1 ≤ (a 9).toNat ∧ (a 9).toNat ≤ 65535) ∧ bit (fA 1 1 1 1).m 0 = true ∧ bit (fA 1 1 1).m 0 = false) ∧
    s.Quiet ∧ ((a 6).toNat % 32 = 0 ∧ answers (enqRead s (a 6) (a 6) 32) (fun s1 =>
      let ws := onWords s1 (a 6) 4
      (bits (ws.getD 0 0) 0 56).setWidth 64 = a 5 && (ws.getD 1 0).toNat < (ws.getD 2 0).toNat &&
        bits (ws.getD 0 0) 56 8 = 0 && ws.getD 3 0 = 0) = true) ∧
    ChannelsSet s.bk (.kvstrm (hd 20) ⟨1, 4, 6, true, true, 0⟩) ∧ ix16 1 ≠ ix16 4 := by
  refine ⟨by unfold JobReady; decide, ⟨by decide, (1, seg1), rfl, by decide⟩, by decide, ⟨by decide, (0, seg0), rfl, by decide⟩,
    by decide +kernel, ⟨by decide, rfl, by decide⟩, by decide +kernel, by unfold ChannelsSet; decide, by decide⟩

/-- Matrix descriptors at 0x1200 (3 rows of 512 bytes and no table) and 0x1240 (32 rows of 64 bytes). -/
def matrix : State :=
  let s := engine (fun b => regs [0x1200, 0x1240, 0x2000, 4] b)
  let s := s.storeWords 0x1000000001200 [0x4000, 512 ||| 2 <<< 17, 0, 0]
  let s := s.storeWords 0x1000000001240 [0x4000, 64 ||| 31 <<< 17, 0, 0]
  s.setLaunch 0 (some { launch0 with hdr := { launch0.hdr with cormask := 0x11 } })

theorem wit_MatrixEnqueues :
    let s := matrix
    let a (r : Reg) := getReg s.bk r
    s.Quiet ∧ JobReady s .matrix false ∧ (itemValid 0x103 0 = true ∧ itemValid 0x104 0 = true) ∧
    ((a 3).toNat % 32 = 0 ∧ InTier0 s (a 3) 1024 true true) ∧
    (s.launchOf s.bk = some { launch0 with hdr := { launch0.hdr with cormask := 0x11 } } ∧ (a 4).toNat < 16 ∧
      bit (0x11#16) (a 4).toNat = true ∧ (a 4).toNat / 4 ≠ s.cur.val / 4 ∧ (getTile s.bk 0).kind ≠ .attn ∧
      chainScaled (getTile s.bk 0) = false) ∧
    ((a 1).toNat % 32 = 0 ∧ answers (readDesc s (a 1) [] (fun d => [rangeBad s (d.span d.n 512).1 (d.span d.n 512).2 true false]))
      (fun p => let d := mDesc p.2
        !d.bad && d.ntab = 0 && 512 ≤ d.pitch) = true) ∧
    (let fp := rowBytes (mfxRaw s.bk 24) (fmtROW (mfxRaw s.bk 24))
     answers (mfxEntry s.bk 24) (fun w => fmtFC w ≠ 5 && fmtFC w ≠ 9 && fmtROW w ≤ 128) = true ∧
     answers (readDesc s (a 1) [] (fun d => [rangeBad s (d.span d.n fp).1 (d.span d.n fp).2 false true]))
      (fun p => let d := mDesc p.2
        !d.bad && d.ntab = 0 && fp ≤ d.pitch) = true) ∧
    (let fp := rowBytes (mfxRaw s.bk 0) (fmtROW (mfxRaw s.bk 0))
     (a 3).toNat % 4 = 0 ∧ answers (mfxEntry s.bk 0) (fun w => fmtFC w ≠ 5) = true ∧
     answers (readDesc s (a 1) [rangeBad s (a 3).toNat (4 * 128) true false] (fun d =>
       [rangeBad s (d.span d.ntab fp).1 (d.span d.ntab fp).2 true false])) (fun p => !(mDesc p.2).bad && fp ≤ (mDesc p.2).pitch) = true) := by
  refine ⟨⟨by decide, rfl, by decide⟩, by unfold JobReady; decide, by decide, ⟨by decide, (0, seg0), rfl, by decide⟩,
    ⟨rfl, by decide, by decide, by decide, by decide, by decide⟩, ⟨by decide, by decide +kernel⟩,
    ⟨by decide +kernel, by decide +kernel⟩, by decide, by decide +kernel, by decide +kernel⟩

/-- A streamed operand of 32 rows and 32 elements, for a latch, a product with two latches and an attention pass, with no
shape recorded; and, with shapes recorded, a product with one latch into a chain that has begun, and an attention pass with
its bitmap. -/
theorem wit_ProductsEnqueue :
    let s := matrix
    let f : LayA := fA 2 0 0 0x80
    s.Quiet ∧ JobReady s .matrix false ∧ answers (mfxEntry s.bk 0) (fun w => w = 0x2001) = true ∧
    answers (mfxEntry s.bk 8) (fun w => w = 0x2001) = true ∧ answers (mfxEntry s.bk 16) (fun w => w = 0x2001) = true ∧
    answers (operandA s f false (mxVB f) 0x2001 (fun _ => [])) (fun p =>
      !p.2.ill && p.2.n ≤ 32 * bandCount s.bk.mat.mash && p.2.elems ≤ 128 && mxTWO f && !mxOL f) = true ∧ fmtFC 0x2001 ≠ 5 ∧
    (s.bk.mat.shapeS = none ∧ s.bk.mat.shapeV = none ∧ (getTile s.bk (mxT f)).kind = .none) ∧
    mmulFormats 0x2001 [0x2001, 0x2001] = true ∧ bit s.bk.mat.mmsk 2 = false ∧
    (fmtBND 0x2001 = false ∧ (classG (fmtFC 0x2001)).isSome = true) ∧
    (let x : Shape := ⟨32, 16, false, none, false, 0x2001⟩
     let u := s.setBk (putTile { s.bk with mat := { s.bk.mat with shapeS := some x } } 0
       { getTile s.bk 0 with kind := .plain, scaleId := some ⟨none, false, none⟩ })
     let g : LayA := fA 2 0 0
     JobReady u .matrix false ∧ mxTWO g = false ∧ x.tr = false ∧ x.red ≤ 32 * bandCount u.bk.mat.mash ∧
     answers (operandA u g false false 0x2001 (fun _ => [])) (fun p => !p.2.ill && p.2.elems = x.red && p.2.scale.isNone) = true ∧
     latchSpans (some x) = false ∧ (getTile u.bk (mxT g)).kind = .plain ∧
     (getTile u.bk (mxT g)).scaleId = some ⟨latchIdentity (some x), fmtRSC 0x2001, none⟩ ∧ fmtRSC 0x2001 = false ∧
     mmulFormats 0x2001 [x.fx, x.fx] = true) ∧
    (let x : Shape := ⟨32, 16, true, none, false, 0x2001⟩
     let y : Shape := ⟨16, 8, false, none, false, 0x2001⟩
     let u := s.setBk { s.bk with mat := { s.bk.mat with shapeS := some x, shapeV := some y, mmsk := 4, mbmp := 0x4000 } }
     let g : LayA := fA 2 0 0
     JobReady u .matrix false ∧ bit u.bk.mat.mmsk 2 = true ∧ x.tr = true ∧ x.cols = y.red ∧
     y.red ≤ 32 * bandCount u.bk.mat.mash ∧ (getTile u.bk (mxT g)).kind ≠ .plain ∧
     answers (operandA u g false false 0x2001 (fun n => [rangeBad u 0x4000 (16 * n) true false]))
       (fun p => !p.2.ill && p.2.elems = x.red) = true) := by
  refine ⟨⟨by decide, rfl, by decide⟩, by unfold JobReady; decide, by decide +kernel, by decide +kernel, by decide +kernel,
    by decide +kernel, by decide, by decide, by decide, by decide, by decide, ?_, ?_⟩
  · exact ⟨by unfold JobReady; decide, by decide, by decide, by decide, by decide +kernel, by decide, by decide, by decide, by decide, by decide⟩
  · exact ⟨by unfold JobReady; decide, by decide, by decide, by decide, by decide, by decide, by decide +kernel⟩

theorem wit_StackEnqueues :
    let s := engine id
    let a (r : Reg) := getReg s.bk r
    let word := a 10
    let sv (r : Reg) (i : Instr) (p : SDesc → Bool) : Prop := (a r).toNat % 64 = 0 ∧
      answers (readSDesc s (a r) []) (fun q => !(sDesc q.2).splitPair && (sDesc q.2).pmap = 0 && !descIll i q.2 none && p (sDesc q.2)) = true
    let f : LayA := fA 1 1 0
    let h := hd 20
    s.Quiet ∧ JobReady s .stack false ∧ (a 9 ≠ 0 ∧ (a 9).toNat < 65536) ∧
    ((a 1).toNat % 32 = 0 ∧ (maskStacks (a 9).toNat).length = 16 ∧ InTier0 s (a 1) 16416 true true) ∧
    ((bits word 0 16).toNat ≠ 0 ∧ bits word 55 9 = 0 ∧ (bits word 16 19).toNat % 32 = 0 ∧ 32 ≤ (bits word 35 20).toNat ∧
      (bits word 35 20).toNat % 32 = 0 ∧ (bits word 16 19).toNat + (bits word 35 20).toNat ≤ 524288 ∧
      ChannelsSet s.bk (.fact h ⟨1, 10, 0, true, false, 0⟩) ∧ slotSpan (getChan s.bk 1) 32 ≤ (getChan s.bk 1).count) ∧
    (sv 11 (.fsa h f) (fun d => !d.oacc && 0 < d.nout) ∧ sv 11 (.fsav h f) (fun _ => true) ∧
      sv 11 (.fsense h f) (fun _ => true) ∧ sv 11 (.fscal h f) (fun _ => true) ∧ sv 12 (.frebuild h f) (fun _ => true) ∧
      sv 11 (.fmap h f) (fun _ => true) ∧ sv 11 (.fprog h f) (fun _ => true) ∧ sv 13 (.ferase h f) (fun _ => true)) ∧
    JobReady (engine (fun b => { b with mode := .supervisor })) .stack true ∧
    (bits (a 14) 0 16 ≠ 0 ∧ 1 ≤ (bits (a 14) 20 5).toNat ∧ (bits (a 14) 20 5).toNat ≤ 16 ∧ bits (a 14) 25 39 = 0) := by
  refine ⟨⟨by decide, rfl, by decide⟩, by unfold JobReady; decide, by decide, ⟨by decide, by decide, (0, seg0), rfl, by decide⟩,
    ⟨by decide, by decide, by decide, by decide, by decide, by decide, by unfold ChannelsSet; decide, by decide⟩,
    ⟨⟨by decide, ?_⟩, ⟨by decide, ?_⟩, ⟨by decide, ?_⟩, ⟨by decide, ?_⟩, ⟨by decide, ?_⟩, ⟨by decide, ?_⟩, ⟨by decide, ?_⟩,
      by decide, ?_⟩, by unfold JobReady; decide, by decide⟩ <;> decide +kernel

theorem wit_BackfillEnqueues :
    let s := engine id
    let a (r : Reg) := getReg s.bk r
    s.Quiet ∧ JobReady s .backfill false ∧ (s.bk.slot = some 0 ∧ s.launch 0 = some launch0) ∧ modeIll 0 = false ∧
    ((a 1).toNat % 32 = 0 ∧ InTier0 s (a 1) 1024 true true) ∧
    (bits (a 15) 0 16 ≠ 0 ∧ 1 ≤ (bits (a 15) 16 21).toNat ∧ (bits (a 15) 16 21).toNat ≤ 1200000 ∧ bits (a 15) 37 27 = 0) ∧
    (a 9 ≠ 0 ∧ (a 9).toNat < 65536) ∧
    ((a 16).toNat % 64 = 0 ∧ InTier0 s (a 16) 64 true false ∧
      answers (enqRead s (a 16) (a 16) 48) (fun s1 => !postIll (onWords s1 (a 16) 6)) = true) ∧
    (4 * xconfN (a 17) = 65536 ∧ (a 3).toNat % 4 = 0 ∧ InTier0 s (a 3) 65536 true false ∧ (21 : Reg) ≠ 0#6 ∧ (21 : Reg) ≠ 20 ∧
      bits (a 17) 46 18 = 0) := by
  refine ⟨⟨by decide, rfl, by decide⟩, by unfold JobReady; decide, ⟨rfl, rfl⟩, by decide, ⟨by decide, (0, seg0), rfl, by decide⟩, by decide,
    by decide, ⟨by decide, ⟨(0, seg0), rfl, by decide⟩, by decide +kernel⟩, ⟨by decide, by decide, ⟨(0, seg0), rfl, by decide⟩,
    by decide, by decide, by decide⟩⟩

/-! ## Witnesses: engines at work -/

/-- The head entry of core 0's vector queue is the instruction, as captured in a full shape. -/
def vecEntryOf (i : Instr) : Entry := { baseEntry (user id).bk i (hd 4) with vd := 4, va := 1, vb := 2, vc := 3 }
def vecState (i : Instr) : State := user (fun b => { b with vec := { b.vec with queue := [vecEntryOf i] } })

theorem vecState_runs (i : Instr) (h : chanAOf i = none ∧ chanBOf i = none) :
    VectorRuns (vecState i) 0 (vecEntryOf i) [] := by
  have hs : clStalled (readyCore State.reset) 0 = false := by decide
  have hq : ((readyCore State.reset).setLaunch 0 (some launch0)).Quiet := ⟨by decide, rfl, by decide⟩
  exact ⟨hq.setBk _, rfl, hs, rfl, h.1, h.2, fun r _ => rfl⟩

theorem wit_VectorIntegerResults :
    (∀ i ∈ [Instr.viadd (hd 4) (fA 1 2 3), .vicmp (hd 4) (fA 1 2 3 9), .vmov (hd 4) (fA 1 0 0), .vsel (hd 4) (fA 1 2 0 0x20),
      .vperm (hd 4) (fA 1 2 0), .vtrans (hd 4) (fA 1 0 0)], VectorRuns (vecState i) 0 (vecEntryOf i) []) ∧
    shpRows (vecEntryOf .nop).shp ≤ 16 ∧ shpLN (vecEntryOf .nop).shp ≤ 64 ∧ cmFN (fA 1 2 3 1) ≤ 1 := by
  refine ⟨?_, by decide, by decide, by decide⟩
  intro i hi
  apply vecState_runs
  revert hi i; decide

theorem wit_VectorFloatResults :
    ∀ i ∈ [Instr.vadd (hd 4) (fA 1 2 0), .vfma (hd 4) (fA 1 2 3), .vabs (hd 4) (fA 1 0 0), .vsqrt (hd 4) (fA 1 0 0)],
      VectorRuns (vecState i) 0 (vecEntryOf i) [] := by
  intro i hi
  apply vecState_runs
  revert hi i; decide

/-- A load through an invalid handle, and a fault held in user mode. -/
theorem wit_VectorFaults :
    let f : LayB := ⟨1, 0, 0x80000⟩
    VectorRuns (vecState (.vld (hd 4) f)) 0 (vecEntryOf (.vld (hd 4) f)) [] ∧ mfH f = true ∧ mfME f = false ∧
    0 < shpRows (vecEntryOf .nop).shp ∧ 0 < shpLN (vecEntryOf .nop).shp ∧
    (getHandle ((vecState (.vld (hd 4) f)).active 0) f.a).v = false ∧
    (let b := (user (fun b => { b with vec := { b.vec with fault := some ⟨.hiv, 0, 0, false⟩ } })).active 0
     b.vec.fault = some ⟨.hiv, 0, 0, false⟩ ∧ b.mode = .user ∧ b.loads = [] ∧ b.stoppedAt = none ∧ clStalled (user id) 0 = false) :=
  ⟨vecState_runs _ (by decide), by decide, by decide, by decide, by decide, by decide, by decide⟩

/-- A job of core 0, as enqueued, and a state that holds it. -/
def jobOf (i : Instr) (eng : Eng) (p : JobPhase) : Job :=
  { newJob 7 eng (baseEntry (user id).bk i (hd 20)) 20 [] [] [] 0 with phase := p }
def withJobs (l : List Job) : State := user (fun b => putReg { b with jobs := l } 20 7)

theorem wit_JobLifecycle :
    let c := Instr.cfill (hd 20) (fA 1 0 0)
    let j := jobOf c .copy .queued
    let d := jobOf c .copy .ended
    let e := { d with code := FaultCode.segv.byte }
    let g := { d with item := d.item + 1 }
    let w := { jobOf c .copy .queued with seq := 8, edges := [7] }
    (Eng.copy ≠ .vector ∧ Eng.copy ≠ .matrix ∧ ((withJobs [j]).active 0).slot.isSome = true ∧ ((withJobs [j]).active 0).stoppedAt = none ∧
      queued ((withJobs [j]).active 0) .copy = [j] ∧ placesUsed (withJobs [j]) 0 .copy < places .copy) ∧
    ((withJobs [d]).findJob 0 7 = some (.bank false, d) ∧ d.seq = 7 ∧ d.phase = .ended ∧ d.due ≤ (withJobs [d]).stamp ∧
      frecOf (withJobs [d]) ((withJobs [d]).bankAt 0 false).slot = 0 ∧ d.dst ≠ 0#6 ∧
      getReg ((withJobs [d]).bankAt 0 false) d.dst = (7#16).setWidth 64 ∧ d.code = 0 ∧
      ((withJobs [d]).bankAt 0 false).itemLive = true ∧ d.item = ((withJobs [d]).bankAt 0 false).item) ∧
    ((withJobs [g]).findJob 0 7 = some (.bank false, g) ∧ g.seq = 7 ∧ g.phase = .ended ∧ g.code = 0 ∧
      g.due ≤ (withJobs [g]).stamp ∧ g.item ≠ ((withJobs [g]).bankAt 0 false).item) ∧
    ((withJobs [e, w]).findJob 0 7 = some (.bank false, e) ∧ e.code ≠ 0 ∧ w ∈ ((withJobs [e, w]).bankAt 0 false).jobs ∧
      w.inTable = true ∧ w.phase = .queued ∧ w.edges.contains 7 = true) ∧
    (∀ i ∈ ((withJobs [e]).bankAt 0 false).jobs, i.edges.contains 7 = false) := by decide +kernel

/-- A fill of 32 bytes at the end of the segment; a send to core 1 along a free path. -/
def fillMap : List Word := [0xBFFFE0, 31, 0, 0]
def cxsMaps : List (List Word) := [[0x1000000, 63, 0, 0], [0x2000, 63, 0, 0]]

theorem wit_CopyTransfers :
    let j := jobOf (.cfill (hd 20) (fA 1 0 0)) .copy .dispatched
    let j := { j with e := { j.e with maps := [fillMap] } }
    let c := jobOf (.cxs (hd 20) (fA 1 2 0)) .copy .running
    let c := { c with e := { c.e with maps := cxsMaps } }
    let s := (withJobs [j])
    let u := (withJobs [c]).setLaunch 0 (some { launch0 with segs := [⟨0, 0x2000000, 0, true, true, false, 0, false, false, 0⟩] })
    let p := jobOf (.cpeer (hd 20) (fA 1 2 3)) .copy .running
    s.Quiet ∧ (s.findJob 0 7 = some (.bank false, j) ∧ j.phase = .dispatched ∧ j.eng = .copy ∧ j.code = 0 ∧
      edgesMet (s.bankAt 0 false) j = true ∧ j.e.maps = [fillMap] ∧ j.e.xr = 0 ∧ mapND fillMap = 0 ∧ (toMap fillMap).n0 ≤ 32 ∧
      (toMap fillMap).base % 32 + (toMap fillMap).n0 ≤ 32 ∧
      answers (engineTarget s (s.whoOf (some 0) 0 true) (toMap fillMap).base 32 false true) (fun _ => true) = true) ∧
    (u.findJob 0 7 = some (.bank false, c) ∧ u.locBank 0 (.bank false) = some (u.bankAt 0 false) ∧ c.phase = .running ∧
      (∀ p ∈ cxsWaiting u, p.2.2 < c.result.toNat ∨ (p.2.2 = c.result.toNat ∧ p.1.val < (0 : Fin 16).val) →
        pathsShare (cxsShape 0 c.e).1 (cxsShape p.1.val p.2.1.e).1 = false) ∧ shutIn u (c.reads ++ c.writes) = [] ∧
      (match runCxs (reservePath u (cxsShape 0 c.e).1 (pathFree u (cxsShape 0 c.e).1 + (cxsShape 0 c.e).2.1)) 0 (some 0) c.e with
        | .ok _ _ => true
        | _ => false) = true) ∧
    (withJobs [p]).findJob 0 7 = some (.bank false, p) ∧ bit (fA 1 2 3).m 0 = false ∧ p.wait = none := by
  refine ⟨⟨by decide, rfl, by decide⟩, ?_, ?_, ?_⟩ <;> decide +kernel

/-- An unstamped and a stamped entry alone in the queue; one whose edge is not met at its tick. -/
theorem wit_MatrixStarts :
    let j := jobOf (.mzero (hd 20) (fA 0 0 0 0xFF)) .matrix .queued
    let t := { j with e := { j.e with stamp := some 0 } }
    let m := { t with edges := [7] }
    let ok (s : State) (j : Job) : Prop := (s.active 0).slot.isSome = true ∧ (s.active 0).stoppedAt = none ∧ clStalled s 0 = false ∧
      staleLatches (s.active 0) = [] ∧ matWaiting (s.active 0) = [j] ∧ j.phase = .queued ∧ j.code = 0 ∧ j.e.late = false ∧
      (entryLay j.e).ka = false ∧ s.findJob 0 j.seq = some (s.activeLoc 0, j) ∧
      shutIn s (j.reads ++ j.writes ++ ringRegions s 0 (s.active 0) (s.activeLoc 0) j.e.i) = []
    let at_ (s : State) (j : Job) (n : Nat) := waitReason s 0 (s.activeLoc 0) (s.active 0) j n
    ok (withJobs [j]) j ∧ (withJobs [j]).pow.stallUntil.get (clIsland 0) ≤ 0 ∧
    (effTick ((withJobs [j]).active 0) j = none ∧ 0 = (withJobs [j]).stamp ∧ edgesLate ((withJobs [j]).active 0) j 0 = false ∧
      engineBusy (withJobs [j]) 0 ((withJobs [j]).activeLoc 0) 0 = false ∧ testRuns (withJobs [j]) 0 = false) ∧
    (ok (withJobs [t]) t ∧ effTick ((withJobs [t]).active 0) t = some 0 ∧ at_ (withJobs [t]) t 0 = 0) ∧
    (ok (withJobs [m]) m ∧ effTick ((withJobs [m]).active 0) m = some 0 ∧ at_ (withJobs [m]) m 0 = 1) := by
  refine ⟨?_, ?_, ?_, ?_, ?_⟩ <;> decide +kernel

/-- An engine that may begin a self-test, and one whose test is over. -/
theorem wit_SelfTests :
    let s := user id
    let t := s.setCore 0 { s.core 0 with testing := some (0, 0) }
    (clStalled s 0 = false ∧ clStalled t 0 = false ∧ mayTest s 0 = true ∧ nextTestBand s 0 = some 0 ∧ (s.core 0).testing = none) ∧
    ((t.core 0).testing = some (0, 0) ∧ 0 ≤ t.stamp) := by decide +kernel

/-- A leader on core 0 whose partner is core 4, in pair state p with slot h and message m; the follower waits. -/
def pairJob : Job :=
  let j := jobOf (.mpair (hd 20) (fA 1 0 0)) .matrix .running
  { j with e := { j.e with xa := 4, vd := 2 } }
def pairing (p : PairState) (h : Option PairSlot) (m : Option PairMsg) : State :=
  let s := withJobs [pairJob]
  let s := s.setBk { s.bk with mat := { s.bk.mat with pair := p, slot := h, inbox := m } }
  { s.setBankAt 4 false { s.bankAt 4 false with
      slot := some 0, jobs := [{ pairJob with e := { pairJob.e with xa := 0 } }]
      mat := { (s.bankAt 4 false).mat with pair := .followerWait 7 256 } } with clk := 1088 }

theorem wit_Pairs :
    let h : PairSlot := ⟨256, 4, 2, [1, 2], []⟩
    let a := pairing (.leaderWait 7 0) (some h) none
    let m := pairing (.merging 7 544) (some h) none
    let n := pairing (.leaderWait 7 0) none none
    let f (x : Option PairMsg) := pairing (.followerWait 7 256) none x
    let b (s : State) := s.active 0
    let ok (s : State) : Prop := (b s).slot.isSome = true ∧ (b s).stoppedAt = none ∧ clStalled s 0 = false ∧
      s.findJob 0 7 = some (s.activeLoc 0, pairJob) ∧ pairJob.seq = 7 ∧ pairJob.phase = .running ∧ pairJob.code = 0
    (ok a ∧ (b a).mat.pair = .leaderWait 7 0 ∧ (b a).mat.slot = some h ∧ partnerOf (b a) 7 = some 4 ∧ (4 : Fin 16) ≠ 0 ∧
      h.follower = (4 : Fin 16).val ∧ 0 ≤ h.f + 256 ∧ h.f ≤ 0 + 256 ∧ (b a).slot = some 0 ∧ a.locOf 4 0 = some (.bank false) ∧
      a.locBank 4 (.bank false) = some (a.bankAt 4 false) ∧ (a.bankAt 4 false).mat.pair = .followerWait 7 256 ∧ pairedWith (a.bankAt 4 false) 0 = true) ∧
    (ok m ∧ (b m).mat.pair = .merging 7 544 ∧ (b m).mat.slot = some h ∧ 544 ≤ m.stamp ∧
      (b m).jobs.find? (fun x => x.seq = 7 && x.phase = .running) = some pairJob ∧ h.rows.length = h.n ∧ h.poison = [] ∧ h.n ≤ 128) ∧
    (ok (f (some .ok)) ∧ (b (f (some .ok))).mat.inbox = some .ok ∧ (b (f (some .reject))).mat.inbox = some .reject ∧
      (b (f none)).mat.inbox = none ∧ 256 + 288 ≤ (f none).stamp ∧ (b (f (some (.abort 4)))).mat.inbox = some (.abort 4)) ∧
    (ok n ∧ (b n).mat.pair = .leaderWait 7 0 ∧ 0 + 272 ≤ n.stamp ∧ partnerOf (b n) 7 = some 4 ∧ headerInTime (b n) 4 0 = false ∧
      (b n).slot = some 0 ∧ n.locOf 4 0 = some (.bank false)) ∧
    (let x := pairing (.leaderWait 7 0) none (some (.abort 4))
     ok x ∧ (b x).mat.pair = .leaderWait 7 0 ∧ (b x).mat.inbox = some (.abort 4)) := by
  refine ⟨?_, ?_, ?_, ?_, ?_⟩ <;> decide +kernel

/-! ## Witnesses: weight stacks -/

def cmdOf (i : Instr) (dw : List Word) : StackCmd :=
  { id := 0, owner := .job 0 (some 0) 7, i := i, dw := dw, ctx := 0, cls := .foreground, arrive := 0, arrived := true, planes := [],
    attached := [], groups := [], out := [], outBad := [], sram := false, result := [], due := 0, stop := none, isOver := false
    clear := true, place := none }
def stackIn (f : Stack → Stack) : State := let s := user id; s.setStack 0 (f (s.stack 0))

/-- A command whose job is over and left the table has no context that does not hold a bank. -/
theorem ownerResident_of {s : State} {c : StackCmd} {k : Fin 16} {x : Option (Fin 16)} {seq : BitVec 16}
    (h : c.owner = .job k x seq) (hr : Resident s k seq) : OwnerResident s c := by
  intro _ _ _ h'
  cases h.symm.trans h'
  exact hr

theorem resident_of_none {s : State} {k : Fin 16} {seq : BitVec 16} (h : s.findJob k seq = none) : Resident s k seq :=
  fun _ _ h' => nomatch h.symm.trans h'

/-- Commands on their way, an injected link error, sixteen failed replays; trips, temperatures and idle slots. -/
theorem wit_StackArrivalAndHealth :
    let d := { cmdOf (.fduty (hd 0) (fA 0 1 0)) [1 ||| 15 <<< 16 ||| 16 <<< 20] with arrived := false }
    let f := { cmdOf (.fact (hd 0) (fA 1 2 0)) [1 ||| 32 <<< 35, 1, 2, 3, 4] with arrived := false }
    let first (s : State) := oldestCmd ((s.stack 0).cmds.filter (fun x => !x.arrived && !x.isOver && x.arrive ≤ s.stamp))
    let s (c : StackCmd) := stackIn (fun w => { w with cmds := [c] })
    let inj := { s d with svc := { (s d).svc with inj := (s d).svc.inj.set 0 ⟨0x1007, 0, 0⟩ } }
    let w (f : Stack → Stack) := (stackIn f).stack 0
    let hot := w (fun w => { w with temp := 115 })
    OwnerResident (s d) d ∧ OwnerResident (s f) f ∧ (s d).Quiet ∧ (s f).Quiet ∧
    (plStalled (s d) 0 = false ∧ plStalled (s f) 0 = false ∧ plStalled inj 0 = false ∧ first inj = some d) ∧
    first (s d) = some d ∧ (first (s f) = some f ∧ 0 < ((unpackWords (f.dw.drop 1)).take (bits (f.dw.headD 0) 35 20).toNat).length) ∧
    (armedSlots inj 7 (fun x => (bits x.target 0 4).toNat = 0)).head? = some (0, ⟨0x1007, 0, 0⟩) ∧ (inj.stack 0).linkFails < 16 ∧
    (16 ≤ (w (fun w => { w with linkFails := 16 })).linkFails ∧ failedReason (w (fun w => { w with linkFails := 16 })) = none) ∧
    (let t := w (fun w => { w with mode := .tripped 0, temp := 100 })
     t.mode = .tripped 0 ∧ 0 + 6000000000 ≤ { user id with clk := 12000000000 }.stamp ∧ t.temp ≤ 100) ∧
    (hot.mode = .ready ∧ 115 ≤ hot.temp ∧ 85 < hot.temp) ∧ (w (fun w => { w with temp := 83 })).temp ≤ 83 ∧
    (amapGet (w (fun w => { w with duty := [(0, ⟨0, 0, 8⟩)] })).duty (pairKey 0 0) = some ⟨0, 0, 8⟩ ∧ 8 ≤ { user id with clk := 16 }.stamp) := by
  refine ⟨ownerResident_of rfl (resident_of_none (by decide +kernel)), ownerResident_of rfl (resident_of_none (by decide +kernel)),
    ⟨by decide, rfl, by decide⟩, ⟨by decide, rfl, by decide⟩, ?_, ?_, ?_, ?_, ?_, ?_, ?_, ?_, ?_⟩ <;> decide +kernel

def planeOf (st : PlaneStep) : PlaneWork := ⟨0, 0, 47, st, 0, 0, 47, 0, 0, 0, List.replicate 8 0, false⟩
def mapped (e : MapEntry) (w : Stack) : Stack := { w with map := [(0, e)] }

theorem wit_StackSenses :
    let c := { cmdOf (.fsa (hd 0) (fA 1 2 0)) [1, 3, 0, 0, 0, 0] with planes := [planeOf .waiting] }
    let e : MapEntry := ⟨0, 0, 48, 48, false⟩
    let s := stackIn (fun w => mapped e { w with cmds := [c], used := 7312 })
    let w := s.stack 0
    pairFree s w 0 0 = true ∧ dutyAllows s w 0 0 = true ∧ badgerGoes s w 0 0 = false ∧ arbiterPick s w 0 0 = some c ∧
    (plStalled s 0 = false ∧ s.svc.parked = false ∧ askFirst s w 0 0 = none ∧ c.place = none ∧ computeBar w c = none) ∧
    (∀ h f, c.i ≠ .fprog h f ∧ c.i ≠ .ferase h f) ∧ c ∈ w.cmds ∧ nextPages c 0 0 = [planeOf .waiting] ∧
    mapOf w (pairKey 0 0) (planeOf .waiting).lp = some e ∧ e.moving = false ∧ levelOf w (pairKey 0 0) (47 / 48) ≠ 3 ∧
    allowanceFits s w 2 = true := by
  refine ⟨?_, ?_, ?_, ?_, ?_, fun h f => ⟨nofun, nofun⟩, ?_, ?_, ?_, ?_, ?_, ?_⟩ <;> decide +kernel

/-- A page of zeros with its tag: its codewords have no error. -/
def rawPage : BitVec 73728 := BitVec.ofNat 73728 (packTag ⟨5, 47, 1, false, 0⟩ * 2 ^ 73600)

theorem revBytes_zero (n : Nat) : revBytes n 0 0 = 0 := by
  induction n with
  | zero => rfl
  | succ n ih => simpa [revBytes] using ih

theorem bchRem_zero (g n : Nat) : bchRem g n 0 = 0 := by
  induction n with
  | zero => rfl
  | succ n ih => simpa [bchRem] using ih

theorem rawPage_clean (k : Nat) (hk : k < 8) : cwErrors rawPage k = some [] := by
  have hd : ∀ k : Fin 8, cwData rawPage k.val = 0 ∧ cwParity rawPage k.val = 0 := by decide +kernel
  have h := hd ⟨k, hk⟩
  simp only at h
  simp [cwErrors, h.1, h.2, bchWord, revBytes_zero, bchErrors, bchRem_zero]

theorem wit_StackDecodes :
    let g : FlashPage := ⟨rawPage, 5, 1, false, false⟩
    let s (st : PlaneStep) := stackIn (fun w => { w with
      pages := [(pageKey 0 0 47, g)], cmds := [{ cmdOf (.fsa (hd 0) (fA 1 2 0)) [1, 3, 0, 0, 0, 0] with planes := [planeOf st] }] })
    let again (x : PlaneStep) : Bool := match x with
      | .reread _ => true
      | _ => false
    (s .sensed).Quiet ∧ (s (.reread 1)).Quiet ∧ (plStalled (s .sensed) 0 = false ∧ plStalled (s (.reread 1)) 0 = false) ∧
    amapGet ((s .sensed).stack 0).pages (pageKey 0 0 47) = some g ∧ (∀ k, k < 8 → cwErrors g.raw k = some []) ∧
    ((findPage ((s .sensed).stack 0) 0 0 (fun x => x = .sensed)).map Prod.snd = some (planeOf .sensed) ∧
      (planeOf .sensed).soft = false ∧ tagOf g.raw = (⟨5, 47, 1, false, 0⟩, true) ∧ (planeOf .sensed).lp = 47 ∧ g.ext = 5 ∧ g.kind = 1) ∧
    ((findPage ((s (.reread 1)).stack 0) 0 0 again).map Prod.snd = some (planeOf (.reread 1)) ∧
      (planeOf (.reread 1)).due ≤ (s (.reread 1)).stamp ∧ allowanceFits (s (.reread 1)) ((s (.reread 1)).stack 0) 1 = true ∧
      ((s (.reread 1)).stack 0).mode = .ready ∧ dutyAllows (s (.reread 1)) ((s (.reread 1)).stack 0) 0 0 = true) :=
  ⟨⟨by decide, rfl, by decide⟩, ⟨by decide, rfl, by decide⟩, by decide +kernel, rfl, rawPage_clean, by decide +kernel, by decide +kernel⟩

/-- One command whose one page is decoded; whose group is worked; and an `fsync` that has arrived. -/
theorem wit_StackWorks :
    let fsa := Instr.fsa (hd 0) (fA 1 2 0)
    let c (st : PlaneStep) := { cmdOf fsa [1, 3, 0, 0, 0, 0] with planes := [planeOf st] }
    let y := cmdOf (.fsync (hd 0) (fA 0 1 0)) [0]
    let s := { stackIn (fun w => { w with cmds := [c .done] }) with clk := 64 }
    ((c .decoded).isOver = false ∧ (c .decoded).computes = true ∧ (c .decoded).onPair 0 0 = [planeOf .decoded] ∧
      (planeOf .decoded).due ≤ s.stamp ∧ plStalled s 0 = false ∧ (amapGet (s.stack 0).sau (pairKey 0 0)).getD 0 ≤ s.stamp) ∧
    (s.Quiet ∧ computeBar (s.stack 0) (c .done) = none ∧ (s.stack 0).cmds = [c .done] ∧ (c .done).stop = none ∧ 0 < (c .done).desc.ng ∧
      (c .done).groups.contains 0 = false ∧ (∀ x ∈ groupPages (c .done) 0, x.step = .done) ∧
      afterStall s 0 ((groupPages (c .done) 0).foldl (fun m p => Nat.max m p.due) 0) + 32 ≤ s.stamp) ∧
    Resident s 0 7 ∧
    (y.owner = .job 0 (some 0) 7 ∧ y.i = .fsync (hd 0) (fA 0 1 0) ∧ y.arrived = true ∧ y.due ≤ s.stamp ∧ y.isOver = false) := by
  refine ⟨?_, ⟨⟨by decide, rfl, by decide⟩, ?_⟩, resident_of_none (by decide +kernel), ?_⟩ <;> decide +kernel

/-! ## Witnesses: streams, backfill, maintenance -/

def answersK {α : Type} (r : EStateM.Result KvFault KvSt α) (p : α → KvSt → Bool) : Bool := match r with
  | .ok a x => p a x
  | .error _ _ => false

/-- A stream of one slot of one row, whose first row is written; and one that waits on the first slot of a page whose
header says PENDING. -/
def streamOf (row : Nat) (p1 : Nat) : Stream :=
  { Stream.none with p1 := p1, rowF := 32, g := 1, nslot := 8, row := row, pins := [⟨0, 0x10000000, 1⟩], waitSince := some 0 }
def streamJob (st : Stream) : Job :=
  { jobOf (.kvstrm (hd 20) ⟨1, 4, 9, true, true, 1⟩) .kv .running with stream := some st }
def streaming (st : Stream) : State :=
  let c : Chan := ⟨true, false, 0, 0x1000, 64, 4, 0, 0, 0⟩
  let s := withJobs [streamJob st]
  let s := s.setBk (putChan (putChan s.bk 1 c) 4 { c with base := 0x2000 })
  { s with mem := memWrite (memWrite s.mem 0x20018 [8]) 0x20080 [1], clk := 120000 }

theorem wit_Streams :
    let st := streamOf 1 2
    let q := streamOf 0 2
    let s := streaming st
    let u := streaming q
    let b (s : State) := s.bankAt 0 false
    let w (s : State) := s.whoOf (b s).slot 0 false
    let p : Pin := ⟨0, 0x10000000, 1⟩
    let r : Rings := ⟨getChan (b s) 1, getChan (b s) 4⟩
    (shutIn s ((streamJob st).reads ++ (streamJob st).writes ++ ringRegions s 0 (b s) (.bank false) (streamJob st).e.i) = [] ∧
      shutIn u ((streamJob q).reads ++ (streamJob q).writes ++ ringRegions u 0 (b u) (.bank false) (streamJob q).e.i) = [] ∧
      s.findJob 0 7 = some (.bank false, streamJob st) ∧ u.findJob 0 7 = some (.bank false, streamJob q) ∧ ix16 1 ≠ ix16 4) ∧
    (r.k.set = true ∧ r.k.view = false ∧ r.v.set = true ∧ r.v.view = false ∧ chanReady r.k true 1 = true ∧ chanReady r.v true 1 = true) ∧
    (answersK (fillRows (w s) (bfOf s (b s).slot) r s.stamp s.clk (st.g + 1) ⟨s, { st with first := false }⟩) (fun full y =>
      full && answersK (writeBitmaps (w s) r y) (fun _ z => z.s.bankAt 0 false = b s &&
        z.s.findJob 0 7 = s.findJob 0 7 && z.st.p0 + z.st.g * (z.st.m + 1) < z.st.p1 &&
        answers (advanceRings z.s 0 (.bank false) (entryLay (streamJob st).e)) (fun a =>
          answersK (kvHold (w s) z.st.next.pos ⟨a, z.st.next⟩) (fun _ v =>
            v.s.bankAt 0 false = a.bankAt 0 false && v.s.findJob 0 7 = s.findJob 0 7)))) = true) ∧
    (q.here = some p ∧ q.waitSince = some 0 ∧ q.lastFetch + 256 ≤ u.clk ∧
      answersK (refetch (w u) p ⟨u, { q with lastFetch := u.clk }⟩) (fun _ _ => true) = true) ∧
    (0 + 60000 ≤ u.stamp ∧ slotCovered u q.desc q.pos = false ∧ answersK (refetch (w u) p ⟨u, q⟩) (fun _ y =>
      (y.st.here.any (fun q' => stateOf q'.states (q.pos % q.nslot) = 1)) && y.s.findJob 0 7 = u.findJob 0 7) = true) ∧
    (let r : ExitRec := ⟨0, 0, 16, 0, 0, 2, 0, 0, 0, 32, 0, false, [⟨1, q.desc, 0, 0, 0, 0, [], [], none, false, false⟩]⟩
     slotCovered { u with bf := ⟨[r], 1⟩ } q.desc q.pos = true) := by
  refine ⟨?_, ?_, ?_, ?_, ?_, ?_⟩ <;> decide +kernel

/-- A record of the launch in slot 0 with one layer, one part of which still lacks its sense of stack 0. -/
def part (sensed : Bool) : PartSense := ⟨[1, 3, 0, 0, 0, 0], sensed, false, 1, false, [], []⟩
def layerOf (sensed : Bool) (rows : Option (List Byte × List Byte × List (Option Mark) × List (Option Mark))) : BfLayer :=
  { layer := 1, desc := 0x10000000, fc := 0, row := 8, rope := 0, abase := 0, ks := [part sensed], vs := [part sensed], rows := rows,
    final := false, dropped := false }
def recOf (l : BfLayer) : ExitRec :=
  { id := 0, slot := 0, ctx := 16, pos := 0, el := 0, nl := 2, ltab := 0x3000, hid := 0x4000, sig := 0, hlen := 32, created := 0
    flushed := true, layers := [l] }
def backfilling (l : BfLayer) : State := { user id with bf := ⟨[recOf l], 1⟩ }

/-- Its descriptor, of one page of eight slots, and the page's header with the first slot in state st. -/
def slotState (st : Nat) (s : State) : State :=
  let s := s.storeWords 0x20000 [1, 0, 0x10001000, 0x800000001, 0x10020, 0, 0, 0, 0x10001000]
  (s.storeWords 0x21000 [0, 0x10002000, 0, 0x10008]).storeNat 0x21080 1 st

theorem wit_BackfillRecords :
    let l := layerOf false none
    let s := backfilling l
    let t := s.setStack 0 { s.stack 0 with bfBuf := (s.stack 0).bfBuf.set 0 (some ⟨0, 16, [], []⟩) }
    let rows : List Byte × List Byte × List (Option Mark) × List (Option Mark) :=
      (List.replicate 32 0, List.replicate 32 0, [none], [none])
    let u := backfilling (layerOf true none)
    let v (st : Nat) := slotState st (backfilling (layerOf true (some rows)))
    let writes (st : Nat) (want : Bool) : Prop := answersK (slotWrite ((v st).whoOf (some 0) 0 false) (recOf (layerOf true (some rows)))
      (layerOf true (some rows)) rows ⟨v st, Stream.none⟩) (fun ok y => ok = want && y.s.bf = (v st).bf) = true
    (plStalled s 0 = false ∧ shutIn s [memRegion (recOf l).hid (recOf l).hlen] = [] ∧ recById s 0 = some (recOf l) ∧ freeSlot (s.stack 0) = some 0 ∧ wantsStack (recOf l) 0 = true ∧ vectorSlot (s.stack 0) 0 = none ∧
      answers (engineRead s (s.whoOf (some (recOf l).slot) 0 false) (recOf l).hid (recOf l).hlen) (fun _ => true) = true) ∧
    (t.launch 0 = some launch0 ∧ duePart t launch0 (ctxidOf t (some 0)) = some [1, 3, 0, 0, 0, 0] ∧
      ∀ y ∈ maskStacks (sDesc [1, 3, 0, 0, 0, 0]).smask, failedReason (t.stack y) = none) ∧
    (recById u 0 = some (recOf (layerOf true none)) ∧ (layerOf true none).open_ = true ∧
      (∀ p ∈ (layerOf true none).ks ++ (layerOf true none).vs, p.sensed = true) ∧ (layerOf true none).rope = 0) ∧
    (recById (v 1) 0 = some (recOf (layerOf true (some rows))) ∧ writes 1 true ∧ writes 2 false) := by
  refine ⟨?_, ?_, ?_, ?_⟩ <;> decide +kernel

theorem wit_Relocations :
    let r (st : RelocStep) (wl : Nat) : Reloc := ⟨0, 0, 0, .soft, some (1, 0), st, wl, [], [], [], [], 0, true, 0⟩
    let e : MapEntry := ⟨0, 0, 48, 48, false⟩
    let c := { cmdOf (.fsense (hd 0) (fA 1 2 0)) [1, 3, 0, 0, 0, 0] with owner := .badger, planes := [planeOf .decoded] }
    let s (st : RelocStep) (wl : Nat) := { stackIn (fun w => mapped e { w with relocs := [r st wl], cmds := [c] }) with clk := 1200 }
    let p := { stackIn (fun w => mapped e { w with relocs := [r .toProgram 0] }) with clk := 1200 }
    let w (st : RelocStep) (wl : Nat) := (s st wl).stack 0
    let o := p.stack 0
    (p.svc.parked = false ∧ plStalled p 0 = false ∧ starved o 0 0 = [] ∧ bestReloc p o 0 0 = some (r .toProgram 0) ∧
      pairFree p o 0 0 = true ∧ allowanceFits p o 6 = true ∧ dutyAllows p o 0 0 = true ∧ othersWait o 0 0 = false ∧
      olderWaits o 0 0 0 = false ∧
      outranked p o (relocRank .soft) (olderThan o (r .toProgram 0)) = false) ∧
    (pagesRead (w (.reading 0) 0) 0 = some [planeOf .decoded] ∧ (planeOf .decoded).bad = 0 ∧
      relocIn (w (.reading 0) 0) 0 0 RelocStep.awaitsPages = some (r (.reading 0) 0) ∧
      relocIn (w (.verifying 0) 15) 0 0 RelocStep.awaitsPages = some (r (.verifying 0) 15) ∧
      pagesRead (w (.verifying 0) 15) 0 = some [planeOf .decoded] ∧ ∀ n ∈ (planeOf .decoded).corrected, n ≤ 8) ∧
    (relocIn (w .programming 15) 0 0 (fun x => x = .programming) = some (r .programming 15) ∧
      (amapGet (w .programming 15).held (pairKey 0 0)).getD 0 ≤ (s .programming 15).stamp) ∧
    (relocIn (w .toSwitch 16) 0 0 RelocStep.isSwitch = some (r .toSwitch 16) ∧ (lsbKey (pairKey 0 0) 0, e) ∈ (w .toSwitch 16).map) ∧
    (relocIn (w .moving 16) 0 0 RelocStep.isSwitch = some (r .moving 16) ∧ (lsbKey (pairKey 0 0) 0, e) ∈ (w .moving 16).map ∧
      sensingOld (w .moving 16) (r .moving 16) = false) ∧
    (relocIn (w (.switching 0) 16) 0 0 RelocStep.isSwitch = some (r (.switching 0) 16) ∧ 0 + 600 ≤ (s (.switching 0) 16).stamp ∧
      (lsbKey (pairKey 0 0) 0, e) ∈ (w (.switching 0) 16).map) ∧
    (∀ c, (r (.switching 0) 16).cause ≠ .rebuild c) := by
  refine ⟨?_, ?_, ?_, ?_, ?_, ?_, nofun⟩ <;> decide +kernel

/-- No erased block pair left, before and after its pair waits for an erase; an erase about to end; a new window; a hold past its end; a page to program. -/
theorem wit_UpkeepAndScrubs :
    let full := stackIn (fun w => { w with dirty := (List.range 240).map (fun b => (b, true)) })
    let w := full.stack 0
    let due := full.setStack 0 { w with eraseQ := [0] }
    let v := due.stack 0
    let er := stackIn (fun w => { w with erasing := [(0, 0)], pec := [(0, 2998)] })
    let late := { user id with clk := 120000000 }
    let held := stackIn (fun w => { w with hold := some ⟨0, 0, 0, 0⟩ })
    let pr := { cmdOf (.fprog (hd 0) (fA 1 2 0)) [1 ||| 47 <<< 24, 3, 0, 0, 0, 0] with planes := [planeOf .sensed] }
    let e : MapEntry := ⟨0, 0, 47, 45, false⟩
    let p := stackIn (fun w => mapped e { w with cmds := [pr] })
    let x : Extent := ⟨5, false, 0, [0], false, 0, none⟩
    let sc := { stackIn (fun w => { w with extents := [x], scrubQ := [5] }) with
      svc := { (user id).svc with clock := some (2592000, 0) } }
    (poolSize w 0 < 48 ∧ w.mode = .ready ∧ compactBlock w 0 = some 0 ∧ mappedIn w 0 0 = [] ∧ full.svc.parked = false ∧
      plStalled full 0 = false ∧ ((compacting full).filter (fun x => x != 0)).length < 4 ∧ w.eraseQ.contains 0 = false) ∧
    (poolSize v 0 < 48 ∧ v.mode = .ready ∧ compactBlock v 0 = some 0 ∧ mappedIn v 0 0 = [] ∧ due.svc.parked = false ∧
      plStalled due 0 = false ∧ ((compacting due).filter (fun x => x != 0)).length < 4 ∧ v.eraseQ.contains 0 = true ∧
      erasesBefore due v 0 = [] ∧ pairFree due v 0 0 = true ∧ dutyAllows due v 0 0 = true ∧ othersWait v 0 0 = false ∧
      olderWaits v 0 0 due.stamp = false ∧ allowanceFits due v 12 = true ∧ inHold due v = false ∧ outranked due v 6 [] = false) ∧
    ((er.stack 0).erasing.contains (0, 0) = true ∧ (amapGet (er.stack 0).held 0).getD 0 ≤ er.stamp ∧ pecOf (er.stack 0) 0 0 < 2999 ∧ (er.stack 0).cmds = []) ∧
    late.pow.budgetWin < late.stamp / 60000000 ∧ ((held.stack 0).hold = some ⟨0, 0, 0, 0⟩ ∧ 0 ≤ held.stamp) ∧
    ((p.stack 0).cmds.find? (fun d => d.id = pr.id) = some pr ∧ pr.isOver = false ∧ (∃ x ∈ pr.planes, x.step = .sensed) ∧
      mapOf (p.stack 0) (pairKey pr.desc.die (pr.desc.planes.headD 0 / 2)) pr.desc.lp = some e ∧ e.programmed = pr.desc.lp % 48 ∧
      isRetired (p.stack 0) (pairKey pr.desc.die (pr.desc.planes.headD 0 / 2)) e.pblk = false ∧ p.findJob 0 7 = none) ∧
    (x ∈ (sc.stack 0).extents ∧ x.lastSeen + 2592000 ≤ wallClock sc ∧ sc.svc.parked = false ∧ plStalled sc 0 = false ∧ (∀ i, (sc.stack i).scrub = none) ∧
      (sc.stack 0).scrubQ = [x.ext] ∧ (sc.stack 0).extents.find? (fun y => y.ext = x.ext) = some x) := by
  refine ⟨?_, ?_, ?_, ?_, ?_, ?_, ?_⟩ <;> decide +kernel

/-! ## Witnesses: launches and contexts -/

def up (s : State) : State := { s with svc := { s.svc with powered := true, booted := true } }
def inSlot (l : Launch) : State := up ((user id).setLaunch 0 (some l))
/-- No context anywhere; launch l in slot 0. -/
def idle (l : Option Launch) : State := up (State.reset.setLaunch 0 l)

def header : Launch := Launch.submitted 1 ⟨0x200000, 0x300000, 0, 0, 0⟩ 0
def submitted (l : Launch) : State :=
  let s := idle (some l)
  let s := s.storeWords 0x200000 [0x20000000, 0x201000, 0x1000000000001, 0x11000, 0, 0, 0, 0, 0, 0, 0x100, 0, 0, 0, 0, 0]
  s.storeWords 0x201000 [1, 0, 0, 0, 0x20000000, 0x10000, 0x10000, 0xD]

theorem wit_Submissions :
    let m : Submission := ⟨0x200000, 0x300000, 0, 0, 0⟩
    let taken (s : State) := { s with host := { s.host with captured := some m }, clk := 2400 }
    let full := taken ((List.finRange 16).foldl (fun s i => s.setLaunch i (some header)) (idle none))
    let s := submitted header
    let hdr := hdrOf (hdrWords s header.hdrPA)
    (doorbellOpen (idle none) = true ∧ bit (idle none).host.subres 63 = false) ∧
    ((taken (idle none)).host.captured = some m ∧ m.at_ + 1200 ≤ (taken (idle none)).stamp ∧
      freeLaunchSlot (taken (idle none)) = some 0) ∧ (full.host.captured = some m ∧ freeLaunchSlot full = none) ∧
    (s.host.captured = none ∧ s.launch 0 = some header ∧ header.state = .submitted ∧ header.finishing = none ∧
      { header with hdrPA := 0x200020 }.hdrPA % 64 ≠ 0) ∧
    (header.hdrPA % 64 = 0 ∧ tier1Ok header.hdrPA 128 = true ∧ saveOk s 0 header = true ∧ hdrOk (hdrWords s header.hdrPA) = true ∧
      ((readSegs s hdr.segt).any (fun p => hdrSegsOk hdr p.1)) = true ∧ hdr.aft0 = 0 ∧ hdr.aft1 = 0 ∧ header.ovr = 0 ∧ header.energySet = false) := by
  refine ⟨?_, ?_, ?_, ?_, ?_⟩ <;> decide +kernel

/-- The host has written a command for a launch to CMD. -/
def asks (n : BitVec 32) (op : Nat) (s : State) : State := { s with host := { s.host with cmdPending := some (n, op) } }

theorem wit_HostActions :
    let s := inSlot launch0
    let brk := { launch0 with hold := .brk, state := .held }
    let spent := { launch0 with energy := 1, energyNJ := 1000000 }
    let asked : State :=
      let s := inSlot launch0
      let s := s.setBk { s.bk with heldXF := true }
      { s with ls := { s.ls with pageReqs := [⟨0, 0, 0x20010000, false, none⟩] } }
    (∀ op ∈ [1, 2, 3], mailboxOn (asks 2 op s) = true ∧ slotOfLseq (asks 2 op s) 2 = none ∧
      (asks 2 op s).host.cmdPending = some (2, op)) ∧
    (mailboxOn (asks 1 1 s) = true ∧ slotOfLseq (asks 1 1 s) 1 = some (0, launch0) ∧ (asks 1 1 s).launch 0 = some launch0 ∧
      launch0.state ≠ .ended ∧ launch0.finishing = none ∧ launch0.hold ≠ .brk) ∧
    (slotOfLseq (asks 1 2 (inSlot brk)) 1 = some (0, brk) ∧ brk.hold = .brk ∧ brk.state ≠ .ended ∧ brk.finishing = none) ∧
    ((inSlot spent).launch 0 = some spent ∧ spent.energy ≠ 0 ∧ spent.energy * 1000 ≤ spent.energyNJ / 1000 ∧ spent.hold = .none ∧
      spent.finishing = none ∧ spent.state = .running) ∧
    (asked.ls.pageReqs[0]? = some ⟨0, 0, 0x20010000, false, none⟩ ∧ asked.residentAt 0 0 = some false ∧
      (asked.bankAt 0 false).heldXF = true) ∧
    (∀ p ∈ launchBanks s 0 launch0, rangeBusy 0x20000000 0x10000 p.2.2 = false) := by
  refine ⟨?_, ?_, ?_, ?_, ?_, ?_⟩ <;> decide +kernel

theorem wit_Scheduling :
    let w := { launch0 with state := .waiting }
    let s := idle (some w)
    let stopped := inSlot launch0
    let stopped := stopped.setBk { stopped.bk with stoppedAt := some 0 }
    let both : State :=
      let s := (user (fun b => { b with stoppedAt := some 0 })).setLaunch 1 (some { launch0 with lseq := 2 })
      let s := s.setBankAt 0 true { s.bankAt 0 true with slot := some 1, stoppedAt := some 0 }
      (s.setLaunch 0 (some { launch0 with state := .preempted })).setCore 0 { s.core 0 with second := false }
    let old := { w with aged := 1, since := 0 }
    (s.launch 0 = some w ∧ schedulerOn s = true ∧ w.state = .waiting ∧ w.finishing = none ∧ w.hold = .none ∧ eligible s w = true ∧
      (∀ m, m ≠ 0 → s.launch m = none) ∧ (∀ c ∈ usedCores w, (s.bankAt c false).slot = none ∧ (s.bankAt c true).slot = none)) ∧
    (stopped.Quiet ∧ launchRuns launch0 = true ∧
      launch0.started = true ∧ usedCores launch0 ≠ [] ∧ (∀ c ∈ usedCores launch0, ∃ x, resumeOn stopped 0 c = some (x, true))) ∧
    ((both.core 0).second = false ∧ (both.bankAt 0 false).stoppedAt.isSome = true ∧ (both.bankAt 0 false).slot.isSome = true ∧
      matrixBusy both (both.bankAt 0 false) = false ∧ both.mayRun 0 true = true ∧ both.mayRun 0 false = false ∧
      (both.bankAt 0 false).loads = [] ∧ clStalled both 0 = false) ∧
    ((old.aged + 1) * 6000000 ≤ waitedTicks { s with clk := 24000000 } old ∧ old.state = .waiting ∧ launch0.state = .running ∧
      launch0.since + 6000000 ≤ { s with clk := 24000000 }.stamp) := by
  refine ⟨?_, ⟨⟨by decide, rfl, by decide⟩, ?_⟩, ?_, ?_⟩ <;> decide +kernel

theorem wit_ContextEnds :
    let t : Tracked := ⟨0, 0, 0, false⟩
    let s : State :=
      let s := inSlot launch0
      s.setCore 0 { s.core 0 with tracker := [t] }
    let r : Record := ⟨1, 0, 0, true, 0, 0, 0, 0, 0⟩
    let gone := { launch0 with finishing := some r }
    let o := (inSlot gone).setBk { (inSlot gone).bk with stoppedAt := some 0 }
    let ring := { user id with
      ls := { (user id).ls with records := [{ r with final := false }] }
      host := { (user id).host with crsize := 16, crtail := 65535, crhead := 1 } }
    ((s.core 0).tracker = [t] ∧ s.residentAt 0 t.slot = some false ∧ itemDone (s.bankAt 0 false) t = true ∧ staleLatches (s.bankAt 0 false) = []) ∧
    (o.launch 0 = some gone ∧ gone.state ≠ .ended ∧ gone.finishing = some r ∧ workOver o 0 gone = true ∧
      recsOf o (ctxidOf o (some 0)) = [] ∧ (∀ p ∈ launchBanks o 0 gone, p.2.2.jobs = [])) ∧
    (ring.ls.records = [{ r with final := false }] ∧ ringOpen ring.host = true ∧ ring.svc.powered = true) := by
  refine ⟨?_, ?_, ?_⟩ <;> decide +kernel

/-! ## Witnesses: near DRAM, power, host link, service -/

def sequence (c : DramChan) : State := { user id with dram := [(0, c)] }
def chan0 : DramChan :=
  { spares := [], degraded := false, retries := 0, burst := 0x2FFFFF0000, beats := 1, grps := 1, isWrite := false, ctx := 0, active := true
    testing := false, swapped := false }

theorem wit_NearMemory :
    let s := user id
    let at_ (c : DramChan) := (sequence c).dramAt 0
    (tier1Ok 0x2FFFFFFFC0 64 = true ∧ (s.dramAt (dramChannel 0x2FFFFFFFC0)).active = false) ∧
    (at_ chan0 = chan0 ∧ chan0.active = true ∧ dramChannel chan0.burst = 0 ∧ chan0.retries < 2) ∧
    (at_ { chan0 with retries := 2 }).retries = 2 ∧ (at_ { chan0 with retries := 2, degraded := true }).degraded = true ∧
    (at_ { chan0 with testing := true, spares := [3] }).spares.length < 2 ∧ (at_ { chan0 with testing := true }).testing = true ∧
    2 ≤ (at_ { chan0 with testing := true, spares := [3, 4] }).spares.length ∧ s.svc.powered = true := by decide +kernel

/-- A running context with a share, two windows past, an energy budget, and an island between its voltages. -/
theorem wit_BoostAndWindows :
    let l := { launch0 with state := .running, share := 1 }
    let s := { idle (some l) with clk := 240000000 }
    let low := { s with pow := { s.pow with volt := s.pow.volt.set 16 (Config.vmin 16) } }
    (600000 * (s.pow.boostWin + 1) ≤ s.stamp ∧ s.launch 0 = some l ∧ (∀ m, m ≠ 0 → s.launch m = none) ∧ l.state = .running ∧
      0 < l.share) ∧
    60000 * s.pow.energyWin + 60000 ≤ s.stamp ∧
    (60000000 * (s.pow.uvWin.get 0 + 1) ≤ s.stamp ∧ s.pow.fallback = false ∧ s.pow.suspendUntil.get 0 = 0 ∧ s.pow.marginM.get 0 ≤ 7 ∧
      s.pow.allowWin < s.stamp / 60000) ∧
    (islandVolt s 16 = s.pow.volt.get 16 ∧ islandVolt low 16 = low.pow.volt.get 16 ∧ Config.vmin 16 ≤ low.pow.volt.get 16 ∧ low.pow.volt.get 16 ≤ Config.vsafe 16 ∧ Config.vmin 16 ≤ s.pow.volt.get 16 ∧
      s.pow.volt.get 16 ≤ Config.vsafe 16) := by
  refine ⟨by decide +kernel, by decide +kernel, by decide +kernel, rfl, rfl, Nat.le_refl _, ?_, ?_, Nat.le_refl _⟩
  · show Config.vmin 16 ≤ Config.vmin 16 + 1 + Config.undervoltSpan 16; omega
  · show Config.vmin 16 ≤ Config.vmin 16 + 1 + Config.undervoltSpan 16; omega

theorem wit_LimiterAndBands :
    let r : LimReq := ⟨0, 7, 128, 0⟩
    let s (l : List LimReq) := { user id with pow := { (user id).pow with na := 1, reqs := l } }
    let dark := { user id with clk := 120000, pow := { (user id).pow with bandOff := 1 } }
    let needs := withJobs [jobOf (.mlatch (hd 20) (fA 1 0 0 8)) .matrix .queued]
    ((s []).pow.na ≠ 0 ∧ (s []).pow.limNext ≤ (s []).stamp) ∧ ((s [r]).pow.reqs = [r] ∧ r.tick ≤ (s [r]).pow.limNext ∧
      (∀ k, ((s [r]).pow.held.get k).doneTick = none)) ∧
    (bandWanted dark 0 0 = false ∧ dark.pow.bandIdle.get 0 + 60000 ≤ dark.stamp) ∧
    (headNeeds needs 0 0 = true ∧ bit dark.pow.bandOff 0 = true) := by
  refine ⟨?_, ?_, ?_, ?_⟩ <;> decide +kernel

/-- An island below Vsafe and one at it; a stall and a suspension that are over; fallback; a die at 110 °C. -/
theorem wit_MarginGuardAndTrips :
    let s := user id
    let low := { s with pow := { s.pow with volt := s.pow.volt.set 16 (Config.vmin 16), suspendUntil := s.pow.suspendUntil.set 0 1 }, clk := 2 }
    let hot := { s with pow := { s.pow with uncTemp := 110 } }
    islandVolt low 16 < Config.vsafe 16 ∧ Config.vsafe 16 ≤ islandVolt s 16 ∧ s.pow.stallUntil.get 16 ≤ s.stamp ∧
    (low.pow.suspendUntil.get 0 ≠ 0 ∧ low.pow.suspendUntil.get 0 ≤ low.stamp) ∧ s.pow.fallback = false ∧
    { s.pow with fallback := true }.fallback = true ∧
    (hot.pow.dieHeld = false ∧ 110 ≤ hot.pow.uncTemp ∧ hot.launch 0 = some launch0 ∧ launch0.state ≠ .ended) := by
  refine ⟨?_, Nat.le_refl _, by decide +kernel, by decide +kernel, by decide +kernel, rfl, by decide +kernel⟩
  show Config.vmin 16 < Config.vmin 16 + 1 + Config.undervoltSpan 16; omega

/-- A port byte other than the device's own, and the device's own. -/
theorem wit_HostRegisters :
    (user id).svc.powered = true ∧ (∃ v : Word, bits v 8 8 ≠ Config.ownPort) ∧ (∃ v : Word, bits v 8 8 = Config.ownPort) ∧
    ((300#64).toNat % 1024 = 300 ∧ (701#64).toNat % 1024 = 701 ∧ (299#64).toNat % 1024 = 299) ∧
    ((user id).host.ideStopped = false ∧ (user id).ls.records = []) ∧
    { (user id).ls with records := [⟨1, 0, 0, true, 0, 0, 0, 0, 0⟩] }.records ≠ [] ∧
    ((user id).host.cmdPending = none ∧ (bits 0x300000001#64 32 4).toNat = 3 ∧ (bits 0x100000001#64 32 4).toNat = 1) ∧
    ((user id).svc.busy = none ∧ (bits 13#64 0 8).toNat = 13 ∧ (bits 1#64 0 8).toNat = 1) ∧
    { (user id).svc with busy := some 5 }.busy.isSome = true := by
  refine ⟨rfl, ?_, ⟨Config.ownPort.setWidth 64 <<< 8, ?_⟩, by decide, ⟨rfl, rfl⟩, nofun, by decide, by decide, rfl⟩
  · by_cases h : Config.ownPort = 0
    · exact ⟨0x100, by rw [h]; decide⟩
    · exact ⟨0, fun e => h (e.symm.trans (by decide))⟩
  · ext i hi
    have h1 : 8 + i < 64 := by omega
    have h2 : ¬8 + i < 8 := by omega
    have h3 : i < 64 := by omega
    simp [bits, h1, h2, BitVec.getLsbD_eq_getElem hi]

/-- A window of the peers, the last byte it takes, and one past it; keys established; a memory port. -/
theorem wit_HostAccessesAndFailures :
    let s := user id
    let w := { s with host := { s.host with inwb := 0x2000001, inwl := 1, ideKeys := 7, peers := Vector.replicate 4 0x501 } }
    s.Quiet ∧ s.svc.powered = true ∧ s.host.ideStopped = false ∧ { s.host with hdm := true }.hdm = true ∧ 0x1FFFFFF + 1 ≤ 0x2000000 ∧
    (peerAccepts w 5 0xFFFF 1 = true ∧ peerAccepts w 5 0x10000 1 = false ∧ peerAccepts w 5 0 0 = true ∧ peerAccepts s 5 0 0 = false) ∧
    bit w.host.ideKeys 0 = true ∧ bit w.host.portFailed 0 = false ∧ bit w.host.ideKeys ((1 : Fin 2).val + 1) = true := by
  refine ⟨⟨by decide, rfl, by decide⟩, rfl, rfl, rfl, by decide, ?_, by decide, by decide, by decide⟩
  decide +kernel

/-- The device booted, with a command and its arguments in the service mailbox. -/
def served (opc : Nat) (a0 len : Word) (mem : List Host.Cell) (s : State) : State :=
  let s := up s
  { s with
    svc := { s.svc with args := s.svc.args.set 0 a0, len := len, busy := some opc }
    host := { s.host with hostMem := mem } }

theorem wit_LogCommands :
    let s (opc : Nat) (a : Word) := served opc a 0xF80 [] (user id)
    (∀ n, ServiceUp (s n 3) n) ∧ (3#64).toNat = (3 : Fin 4).val ∧ ((s 2 3).svc.cell.get 3).entries.length ≤ 256 ∧
    (0x300#64).toNat = 0x300 ∧ (s 2 0).svc.power.entries.length ≤ 256 ∧ (0#64).toNat = 0 ∧
    (s 4 0).svc.owl.entries.length ≤ 8192 ∧
    ((0x104#64).toNat = 0x104 ∧ (0x210#64).toNat = 0x210 ∧ (0x301#64).toNat = 0x301 ∧ 0x600 ≤ (0x600#64).toNat) := by
  refine ⟨fun n => ⟨rfl, rfl, rfl, rfl⟩, ?_⟩
  decide

/-- Buffers with room for a report and one byte short of it. -/
theorem wit_ServiceReports :
    let s (opc : Nat) (len : Word) := served opc 0 len [] (user id)
    (∀ n len, ServiceUp (s n len) n) ∧ ((s 1 0).svc.powered = true ∧ (s 1 0).svc.booted = true ∧ (s 1 0).svc.busy = some 1) ∧
    (96 ≤ (s 5 96).svc.len.toNat ∧ (s 5 95).svc.len.toNat < 96) ∧
    (0x272 ≤ (s 6 0x272).svc.len.toNat ∧ (s 6 0x271).svc.len.toNat < 0x272) ∧
    (0xF80 ≤ (s 1 0xF80).svc.len.toNat ∧ (s 1 0xF7F).svc.len.toNat < 0xF80) ∧ (s 1 0).ls.lastStop.get 0 = none := by
  refine ⟨fun n len => ⟨rfl, rfl, rfl, rfl⟩, ?_⟩
  decide

/-- A host buffer that holds the digest of no bytes, and one that does not; an extent whose run names no page. -/
theorem wit_ServiceCommands :
    let d := shake256 []
    let buf (v : BitVec 512) := memWrite [] 0 (toBytes 64 v.toNat)
    let dig (s : State) : BitVec 512 := BitVec.ofNat 512 (ofBytes (memReadN s.host.hostMem s.svc.buf.toNat 64))
    let s (v : BitVec 512) := served 8 5 72 (buf v) (user id)
    let x (s : State) : Extent := ⟨5, false, dig s, [0], false, 0, some 0⟩
    let u := served 8 5 72 [] (stackIn (fun w => { w with extents := [⟨5, false, 0, [0], false, 0, none⟩] }))
    ServiceUp u 8 ∧ (u.svc.len.toNat = 64 + 8 * [0#64].length ∧ (u.svc.args.get 0).toNat < 2 ^ 32) ∧
    (∀ v i, i < 1 → ofBytes (memReadN (s v).host.hostMem ((s v).svc.buf.toNat + (64 + 8 * i)) 8) = (([0#64] : List Word).getD i 0).toNat) ∧
    (∀ r ∈ ([0#64] : List Word), (bits r 0 4).toNat = (0 : Fin 16).val) ∧
    (∀ y : Extent, y.runs = [0] → extentData (u.stack 0) 5 false (extentPages y 0) = some []) ∧
    d = (x (s d)).digest ∧ (∃ v, d ≠ (x (s v)).digest) ∧
    (∃ e ∈ (u.stack 0).extents, e.ext.toNat = (u.svc.args.get 0).toNat) ∧
    (∀ i, (idle none).launch i = none) ∧ (∃ i, u.launch i ≠ none) ∧ (∀ n, ServiceUp (served n 3 115 [] u) n) ∧
    ((served 12 3 115 [] u).svc.args.get 0).toNat = (3 : Fin 5).val := by
  have hdig : ∀ v : BitVec 512, BitVec.ofNat 512 (ofBytes (memReadN (memWrite [] 0 (toBytes 64 v.toNat)) 0 64)) = v := by
    intro v
    have h := memReadN_memWrite [] 0 (toBytes 64 v.toNat)
    rw [toBytes_length] at h
    rw [h, ofBytes_toBytes, Nat.mod_eq_of_lt (by have := v.isLt; omega)]
    simp
  refine ⟨by unfold ServiceUp; decide +kernel, by decide +kernel, ?_,
    by intro r hr; obtain rfl := List.mem_singleton.mp hr; rfl, ?_, ?_, ?_, by decide +kernel, by decide +kernel,
    ⟨0, by decide +kernel⟩, fun n => ⟨rfl, rfl, rfl, rfl⟩, by decide +kernel⟩
  · intro v i hi
    obtain rfl : i = 0 := by omega
    show ofBytes (memReadN (memWrite [] 0 (toBytes 64 v.toNat)) 64 8) = 0
    have h : ∀ a, 64 ≤ a → memRead (memWrite [] 0 (toBytes 64 v.toNat)) a = 0 := by
      intro a ha
      rw [memRead_memWrite_out _ _ _ _ (by rw [toBytes_length]; omega)]
      rfl
    simp [memReadN, h, ofBytes]
  · intro y hy
    have : extentPages y 0 = [] := by
      have hz : ∀ (p : Word → Bool), (([0#64] : List Word).filter p).flatMap
          (fun r => (List.range (r.toNat >>> 32 % 262144)).map (fun i => r.toNat >>> 14 % 262144 + i)) = [] := by
        intro p
        by_cases h : p 0#64 = true <;> simp [h]
      simp [extentPages, hy, bits]
      intro k _ q _
      rw [hz]; exact List.mergeSort_nil
    rw [this]; rfl
  · exact (hdig _).symm
  · by_cases h : shake256 [] = 0
    · exact ⟨1, fun e => by
        rw [h] at e
        have h1 := congrArg (fun v => v.getLsbD 0) (e.trans (hdig 1))
        simp at h1⟩
    · exact ⟨0, fun e => h (e.trans (hdig 0))⟩

/-- An exit from a park that is over; a record to write; the second and the save that are due. -/
theorem wit_ServiceDuties :
    let s := up (user id)
    let p := s.setCore 0 { s.core 0 with parked := true, exitAt := some 0 }
    let late := { s with clk := 720000000000 }
    let f := { s with svc := { s.svc with fullTrained := true } }
    ((p.core 0).parked = true ∧ (p.core 0).exitAt = some 0 ∧ 0 ≤ p.stamp ∧ 2 < ([0, 1, 255] : List Nat).eraseDups.length ∧
      0x5FFFF < 0x60000) ∧
    (f.svc.booted = true ∧ f.svc.fullTrained = true ∧ f.svc.trainA.torn = f.svc.trainB.torn ∧
      f.svc.trainA.seqNo ≤ f.svc.trainB.seqNo) ∧
    (late.svc.booted = true ∧ late.svc.sampleAt ≤ late.stamp ∧ late.svc.saveAt ≤ late.stamp) := by
  decide +kernel

/-- A byte string as it is printed: the first byte at the top. -/
def printed (n v : Nat) : List Byte := (toBytes n v).reverse

/-- The public key of RFC 8032, 7.4 "Blank", and a signature of its digest by the private key beside it. -/
def publicKey : List Byte := printed 57
  0x5fd7449b59b461fd2ce787ec616ad46a1da1342485a70e1f8a0ea75d80e96778edf124769b46c7061bd6783df1e50f6cd1fa1abeafe8256180
def signed : List Byte := publicKey ++ printed 114
  8587960730753277847559358738094898771758597791472881202700034057056146924111084438988750060788638282464518124843973490550970913157005329743120015924326222664290943324444204183686012863150322772067155551590701084597299128147308733140157298620617098800702975895536123066387456

theorem signed_ok : imageOk (shake256 publicKey) signed = true := by decide +kernel

/-- RFC 8032, 7.4 "Blank"; FIPS 202: SHAKE256 of no bytes. -/
theorem test_ed448 : edVerify publicKey [] (printed 114
    0x533a37f6bbe457251f023c0d88f976ae2dfb504a843e34d2074fd823d41a591f2b233f034f628281f2fd7a22ddd47d7828c59bd0a21bfd3980ff0d2028d4b18a9df63e006c5d1c2d345b925d8dc00b4104852db99ac5c7cdda8530a113a0f4dbb61149f05a7363268c71d95808ff2e652600)
    = true := by decide +kernel
theorem test_shake256 : shakeBytes [] 32 = printed 32 0x46b9dd2b0ba88d13233b3feb743eeb243fcd52ea62b81b82b50c27646ed5762f := by
  decide +kernel

/-- A device with an image that verifies in each slot, and one whose images are empty. -/
theorem wit_BootAndReset :
    let dev (img : List Byte) : State := { State.reset with svc := { State.reset.svc with
      keyDigest := shake256 publicKey, fw := Vector.replicate 5 { runB := false, imgA := img, imgB := img } } }
    let good (s : State) (img : List Byte) : Prop :=
      imageOk s.svc.keyDigest img = true ∧ s.svc.rollback ≤ Config.imageVersion (signedPart img)
    (∀ img, (dev img).svc.booted = false ∧ (dev img).svc.recovery = false) ∧
    (∀ k, good (dev signed) ((dev signed).svc.fw.get k).imgA) ∧
    (¬(good (dev []) ((dev []).svc.fw.get 0).imgA ∨ good (dev []) ((dev []).svc.fw.get 0).imgB)) ∧
    (up (user id)).svc.powered = true := by
  refine ⟨fun _ => ⟨rfl, rfl⟩, fun k => ⟨?_, Nat.zero_le _⟩, ?_, rfl⟩
  · have e : ((Vector.replicate 5 ({ runB := false, imgA := signed, imgB := signed } : FwSlots)).get k).imgA = signed := by
      match k with
      | 0 | 1 | 2 | 3 | 4 => rfl
    exact (congrArg (imageOk (shake256 publicKey)) e).trans signed_ok
  · have h : imageOk (shake256 publicKey) [] = false := rfl
    rintro (⟨g, -⟩ | ⟨g, -⟩) <;> exact Bool.noConfusion (h.symm.trans g)

/-! ## Witnesses: the step -/

/-- Core 0 is to issue an instruction in a word, an engine instruction, a load's user, and a word of zeros. -/
theorem wit_StepRunsInstruction :
    let s (w : Nat) := { (user id).withFetchWord 64 w with sched := [.issue 0] }
    let o (w : Nat) := { s w with sched := [], cur := 0, clk := (s w).clk + 1 }
    let u (w : Nat) := (o w).fetched
    let m0 := (user id).withFetchWord 64 0x0228A300
    let m := m0.setBk { m0.bk with loads := [{ pending with rd := 5 }] }
    let v := ({ m with sched := [], cur := 0, clk := m.clk + 1 } : State).fetched
    let f0 := (user id).withFetchWord 64 0x64000800
    let f := f0.setBk { f0.bk with posted := [⟨0x20000, 0x10000000, none, [7]⟩] }
    let x := ({ f with sched := [], cur := 0, clk := f.clk + 1 } : State).fetched
    (decode (x.iwordAt 0x10000) 0 = .ok .exit ∧ loadHazard .exit x.bk = false ∧ storeWaits .exit x = true) ∧
    ((s 0x0228A300).svc.powered = true ∧ (s 0x0228A300).sched = [.issue 0] ∧ canIssue (o 0x0228A300) 0 = true ∧
      (o 0x0228A300).Quiet ∧ (o 0x0228A300).bk.vec.fault = none ∧ fetchKey (u 0x0228A300) (u 0x0228A300).bk (u 0x0228A300).bk.pc = some 0x10000 ∧
      ((u 0x0228A300).iwordAt 0x10000).getLsbD 31 = false ∧ loadHazard (.add 5 5 6) (u 0x0228A300).bk = false ∧ storeWaits (.add 5 5 6) (u 0x0228A300) = false) ∧
    decode ((u 0x0228A300).iwordAt 0x10000) ((u 0x0228A300).iwordAt 0x10004) = .ok (.add 5 5 6) ∧
    fetchKey (u 0) (u 0).bk ((u 0).bk.pc + 4) = some 0x10004 ∧ loadHazard (.add 5 5 6) v.bk = true ∧
    decode ((u 0).iwordAt 0x10000) 0 = .error (.ill 0) := by
  refine ⟨⟨by rfl, by decide +kernel, by decide +kernel⟩, ⟨by decide +kernel, by decide +kernel, by decide +kernel, ⟨by decide +kernel, rfl, rfl, by decide +kernel⟩, by decide +kernel⟩, by rfl, by decide +kernel, by decide +kernel, by rfl⟩

/-- An add and a trap, in user mode, of which the first answers a next state in user mode. -/
theorem wit_UserModeKeeps :
    Instr.wf (.add 5 5 6) = true ∧ (user id).bk.mode = .user ∧
    ∃ t, exec (.add 5 5 6) (user id) = .next t ∧ t.bk.mode = .user := ⟨rfl, rfl, _, rfl, rfl⟩

theorem wit_SoundStep : State.reset.Sound ∧ ∃ t, step State.reset = .next t := by
  refine ⟨⟨rfl, rfl⟩, ?_⟩
  exact ⟨_, rfl⟩

/-! ## Examples of the spec, worked there by hand -/

/-- The words of the kernel sum8 (the worked encodings of the encoding file), and the branch back of 24 bytes. -/
theorem test_decode_sum8 :
    [0x10300101#32, 0x0430DF40, 0x04280000, 0x34002003, 0x4038D000, 0x0228A380, 0x0430C004, 0x4428D800, 0x64000800,
      0x22181FFA].map (fun w => (decode w 0).toOption) =
    [some (.lui 6 0x101), some (.addi 6 6 0x1F40), some (.addi 5 0 0), some (.loopi 0 false 8 3), some (.lds 7 6 2 0),
      some (.add 5 5 7), some (.addi 6 6 4), some (.sts 5 6 3 0), some .exit, some (.bne 3 0 0x1FFA)] := by decide

/-- R70: the rounding to E2M1 of 2.5, 5, 1.75, 0.75, 0.25 and −0.25. -/
theorem test_round_e2m1 :
    [Val.fin false 5 (-1), .fin false 5 0, .fin false 7 (-2), .fin false 3 (-2), .fin false 1 (-2), .fin true 1 (-2)].map
      (fun v => (roundIEEE v 5).1) = [4, 6, 4, 2, 0, 8] := by decide +kernel

/-- R67, R225: 1.09375, −2^−20, −0 and 3,000 in TF8, with NX and UF. -/
theorem test_taper :
    [Val.fin false 35 (-5), .fin true 1 (-20), .fin true 0 0, .fin false 3000 0].map (fun v => (roundTF v 6).1) =
      [0x42, 0xFF, 0, 0x7F] ∧ (roundTF (.fin false 35 (-5)) 6).2 = fNX ∧ (roundTF (.fin true 1 (-20)) 6).2 &&& fUF ≠ 0 ∧
      (roundTF (.fin false 3000 0) 6).2 &&& fOF = 0 := by decide +kernel

/-- R73, R228: the block {3, −1.5, 0.75, 0, 12, 0.5, −6, 2} and its bytes. -/
theorem test_qblock :
    let q := qBlock [.fin false 3 0, .fin true 3 (-1), .fin false 3 (-2), .fin false 0 0, .fin false 12 0, .fin false 1 (-1),
      .fin true 6 0, .fin false 2 0] 13
    q.2.1 = 0x80 ∧ packE2M1 q.1 = [0xA3, 0x01, 0x07, 0x2D] ∧ q.2.2 &&& (fIV ||| fOF ||| fNX) = fNX := by decide +kernel

/-- R223: saturation in `viadd`. -/
theorem test_viadd_sat : addSub 1 8 false 0x70 0x20 = 0x7F ∧ addSub 2 8 false 0xF0 0x20 = 0xFF := by decide

/-- R229: the FP32 row of 2^24, 1, 1, 1 sums pairwise to 2^24 + 2. -/
theorem test_sum_pairs : (redList 0 0 32 true [0x4B800000, 0x3F800000, 0x3F800000, 0x3F800000]).1 = 0x4B800001 := by
  decide +kernel

/-- R266: data bit 37 of a cell codeword has syndrome 0x12C, which the die corrects. -/
theorem test_ecc : eccColumn 37 = 0x12C ∧ eccDecode 0x12C = .corrected 37 := by decide +kernel

/-- The placement example of R134: WID 346 on core 6. -/
theorem test_placement :
    let h : Header := { (placedLaunch 0 placedPC).hdr with
      widths := [3, 4, 2, 0, 0, 0], nf := 3, places := [1, 2, 0, 0, 0, 0], exts := [7, 9, 3, 0, 0, 0], clmask := 0xF
      cormask := 0xFFFF }
    widOf h [5, 6, 2] = 346 ∧ placedOn h [5, 6, 2] = some 6 ∧ placedOn h [1, 2, 0] = some 6 := by decide +kernel

/-- R380: logits 5, 5 and −1,000 give P = 0.5 and element 0; θ = 0.5 exits, θ = 0.6 does not. -/
theorem test_exit_test :
    exitTest [0x40A00000, 0x40A00000, 0xC47A0000] 0x3F000000 = (true, 0, 0x3F000000) ∧
    (exitTest [0x40A00000, 0x40A00000, 0xC47A0000] 0x3F19999A).1 = false := by decide +kernel

/-- R403, R404: seventy weighted senses on a counter at 4,999,990 reach SOFT. -/
theorem test_disturb :
    [65, 80, 90].map disturbWeight = [1, 2, 4] ∧ distLevel (4 * 4999990) = 0 ∧ distLevel (4 * 4999990 + 70) = 1 ∧
    (4 * 4999990 + 70) / 4 = 5000007 ∧ (4 * 4999990 + 70) % 4 = 2 := by decide

/-- R476, R477: nine samples and two cycles. -/
theorem test_wear :
    ([30, 64, 58, 70, 38, 45, 75, 72, 41].foldl wearStep { low := 30, peak := 0, armed := false, cycles := 0 }).cycles = 2 ∧
    ([30, 64, 58, 70, 38].foldl wearStep { low := 30, peak := 0, armed := false, cycles := 0 }).low = 38 := by decide

/-- R7, R262: two hops from core 0 to core 5, and the link the sends of cores 0 and 1 share. -/
theorem test_mesh : (meshPath 0 5).length = 2 ∧ (meshPath 1 5).length = 1 ∧ pathsShare (meshPath 0 5) (meshPath 1 5) = true ∧
    (meshPath 0 15).length = 6 := by decide

/-- R427: BH = 40 between SHARE 3 and SHARE 1. -/
theorem test_boost :
    let l (n : Nat) : Launch := { launch0 with share := n }
    boostShare 40 [l 3, l 1] (l 3) = 30 ∧ boostShare 40 [l 3, l 1] (l 1) = 10 := by decide +kernel

/-! ## One step each -/

/-- The bank of core 0 after an instruction. -/
def after (i : Instr) (s : State) : Option Bank := match exec i s with
  | .next t => some t.bk
  | _ => none

def get (i : Instr) (l : List Word) (r : Reg) : Option Word := (after i (user (regs l))).map (fun b => getReg b r)

/-- R164: sums wrap; s0 stays zero; a source is the destination. -/
theorem test_add : get (.add 1 1 2) [0xFFFFFFFFFFFFFFFF, 2] 1 = some 1 ∧ get (.add 0 1 2) [3, 4] 0 = some 0 := by decide
theorem test_sub_slt : get (.sub 3 1 2) [1, 2] 3 = some 0xFFFFFFFFFFFFFFFF ∧ get (.slt 3 1 2) [0xFFFFFFFFFFFFFFFF, 0] 3 = some 1 := by
  decide
/-- R165: division rounds toward zero; a zero divisor gives all ones and leaves the dividend as the remainder. -/
theorem test_div : get (.div 3 1 2) [0xFFFFFFFFFFFFFFF9, 2] 3 = some 0xFFFFFFFFFFFFFFFD ∧ get (.div 3 1 2) [7, 0] 3 = some 0xFFFFFFFFFFFFFFFF ∧
    get (.rem 3 1 2) [7, 0] 3 = some 7 := by decide
theorem test_mulh : get (.mulhu 3 1 2) [0xFFFFFFFFFFFFFFFF, 0xFFFFFFFFFFFFFFFF] 3 = some 0xFFFFFFFFFFFFFFFE := by decide
/-- The example of R166: `andi s4, s4, -32`. -/
theorem test_andi : get (.andi 1 1 0x1FE0) [0x1234567F] 1 = some 0x12345660 := by decide
/-- R169: `jal` of 16 words leaves the address after it in s1, and the target counts from the instruction itself. -/
theorem test_jal :
    (after (.jal 16) (user id)).map (fun b => (b.pc, getReg b 1)) = some (0x100000000040, 0x100000000004) := by decide
/-- A word store to the scratchpad leaves its bytes, the least significant at the lowest address. -/
theorem test_store :
    (match exec (.sts 1 2 2 0) (user (regs [0xAABBCCDD, 0x100])) with
     | .next t => t.mem.map (fun c => (c.1 % 0x1000, c.2))
     | _ => []) = [(0x100, 0xDD), (0x101, 0xCC), (0x102, 0xBB), (0x103, 0xAA)] := by
  decide +kernel
/-- A trap is a fault of user code: the mode changes, and the return address and cause are saved. -/
theorem test_trap :
    (after (.trap 9) (user id)).map (fun b => b.mode) = some Mode.supervisor := by decide +kernel

end Sys2Proof.Tests
end

section
/-!
SUPPORT. The control core: integer arithmetic and immediate forms (R36, R164 to R167), hardware loops (R170, R171, R176,
R179), and the faults of the control core with the return from them (R103, R151, R161, R207, R208).
-/
namespace Sys2Proof.ControlCore
open Sys2Proof Sys2Proof.Machine

/-! ## The register forms -/

/-- An instruction of the form with two sources writes the value of its function. -/
theorem writesReg_of_aluRR {i : Instr} {f : Word → Word → Word} {rd ra rb : Reg} {s : State} {w : Word}
    (h : exec i s = aluRR f rd ra rb s) (e : f (getReg s.bk ra) (getReg s.bk rb) = w) : WritesReg i s rd w :=
  writesReg_of i s rd _ w h e

/-- An instruction of the form with one source writes the value of its function. -/
theorem writesReg_of_aluR {i : Instr} {f : Word → Word} {rd ra : Reg} {s : State} {w : Word}
    (h : exec i s = aluR f rd ra s) (e : f (getReg s.bk ra) = w) : WritesReg i s rd w :=
  writesReg_of i s rd _ w h e

/-! ## Words as exact integers (R164) -/

theorem sub_eq_ofInt (a b : Word) : a - b = BitVec.ofInt 64 (a.toInt - b.toInt) :=
  BitVec.eq_of_toInt_eq (by rw [BitVec.toInt_sub, BitVec.toInt_ofInt])

theorem mul_eq_ofNat (a b : Word) : a * b = BitVec.ofNat 64 (a.toNat * b.toNat) :=
  BitVec.eq_of_toNat_eq (by simp)

/-- The high half of a 128-bit integer. -/
theorem bits_ofInt_high (z : Int) : bits (BitVec.ofInt 128 z) 64 64 = BitVec.ofInt 64 (z / 2 ^ 64) := by
  apply BitVec.eq_of_toNat_eq
  simp only [bits, BitVec.extractLsb'_toNat, BitVec.toNat_ofInt, Nat.shiftRight_eq_div_pow]
  omega

theorem mulHigh_signed (a b : Word) : mulHigh true a b = BitVec.ofInt 64 (a.toInt * b.toInt / 2 ^ 64) := by
  rw [← bits_ofInt_high, BitVec.ofInt_mul]
  rfl

theorem mulHigh_unsigned (a b : Word) : mulHigh false a b = BitVec.ofNat 64 (a.toNat * b.toNat / 2 ^ 64) := by
  have hlt : a.toNat * b.toNat < 2 ^ 64 * 2 ^ 64 := Nat.mul_lt_mul'' a.isLt b.isLt
  apply BitVec.eq_of_toNat_eq
  simp [mulHigh, bits, BitVec.extractLsb'_toNat, Nat.shiftRight_eq_div_pow]
  omega

theorem shAmt_eq (b : Word) : shAmt b = b.toNat % 64 := by
  simp [shAmt, bits, BitVec.extractLsb'_toNat]

theorem shiftLeft_eq_ofNat (a : Word) (n : Nat) : a <<< n = BitVec.ofNat 64 (a.toNat * 2 ^ n) :=
  BitVec.eq_of_toNat_eq (by simp [Nat.shiftLeft_eq])

theorem ushiftRight_eq_ofNat (a : Word) (n : Nat) : a >>> n = BitVec.ofNat 64 (a.toNat / 2 ^ n) := by
  rw [← Nat.shiftRight_eq_div_pow, ← BitVec.toNat_ushiftRight, BitVec.ofNat_toNat, BitVec.setWidth_eq]

theorem sshiftRight_eq_ofInt (a : Word) (n : Nat) : a.sshiftRight n = BitVec.ofInt 64 (a.toInt / 2 ^ n) := by
  simp [BitVec.sshiftRight, Int.shiftRight_eq_div_pow]

/-- A strict and a weak comparison choose the same unless the weak one alone holds, where the choices are equal. -/
theorem ite_strict_eq_ite_weak {p q : Prop} [Decidable p] [Decidable q] {x y : Word} (hpq : p → q)
    (heq : q → ¬ p → x = y) : (if decide p then x else y) = if q then x else y := by
  by_cases hp : p
  · rw [if_pos (decide_eq_true hp), if_pos (hpq hp)]
  · rw [if_neg (fun h => hp (of_decide_eq_true h))]
    by_cases hq : q
    · rw [if_pos hq, heq hq hp]
    · rw [if_neg hq]

theorem ite_slt (a b x y : Word) (h : a = b → x = y) :
    (if a.slt b then x else y) = if a.toInt ≤ b.toInt then x else y :=
  ite_strict_eq_ite_weak Int.le_of_lt fun hle hlt =>
    h (BitVec.eq_of_toInt_eq (Int.le_antisymm hle (Int.not_lt.1 hlt)))

theorem ite_ult (a b x y : Word) (h : a = b → x = y) :
    (if a.ult b then x else y) = if a.toNat ≤ b.toNat then x else y :=
  ite_strict_eq_ite_weak Nat.le_of_lt fun hle hlt =>
    h (BitVec.eq_of_toNat_eq (Nat.le_antisymm hle (Nat.not_lt.1 hlt)))

theorem flagW_decide (p : Prop) [Decidable p] : flagW (decide p) = if p then 1 else 0 := by
  simp [flagW]

theorem integerResults : Claims.IntegerResults := by
  intro s rd ra rb a b
  exact ⟨writesReg_of_aluRR rfl (BitVec.add_def a b), writesReg_of_aluRR rfl (sub_eq_ofInt a b),
    writesReg_of_aluRR rfl (mul_eq_ofNat a b), writesReg_of_aluRR rfl (mulHigh_signed a b),
    writesReg_of_aluRR rfl (mulHigh_unsigned a b), writesReg_of_aluRR rfl rfl, writesReg_of_aluRR rfl rfl,
    writesReg_of_aluRR rfl rfl,
    writesReg_of_aluRR (f := fun a b => a &&& ~~~b) rfl rfl,
    writesReg_of_aluRR (f := fun a b => a <<< shAmt b) rfl (shAmt_eq b ▸ shiftLeft_eq_ofNat a (shAmt b)),
    writesReg_of_aluRR (f := fun a b => a >>> shAmt b) rfl (shAmt_eq b ▸ ushiftRight_eq_ofNat a (shAmt b)),
    writesReg_of_aluRR (f := fun a b => a.sshiftRight (shAmt b)) rfl (shAmt_eq b ▸ sshiftRight_eq_ofInt a (shAmt b)),
    writesReg_of_aluRR (f := fun a b => if a.slt b then a else b) rfl (ite_slt a b a b id),
    writesReg_of_aluRR (f := fun a b => if a.slt b then b else a) rfl (ite_slt a b b a Eq.symm),
    writesReg_of_aluRR (f := fun a b => if a.ult b then a else b) rfl (ite_ult a b a b id),
    writesReg_of_aluRR (f := fun a b => if a.ult b then b else a) rfl (ite_ult a b b a Eq.symm),
    writesReg_of_aluRR (f := fun a b => flagW (a.slt b)) rfl (flagW_decide _),
    writesReg_of_aluRR (f := fun a b => flagW (a.ult b)) rfl (flagW_decide _)⟩

/-! ## Bit counts (R164) -/

/-- What `clz` counts: a nonzero word lies between the two powers of two its leading zeros name. -/
theorem clzW_spec (a : Word) : ∃ n, clzW a = BitVec.ofNat 64 n ∧ n ≤ 64 ∧ (n = 64 ↔ a = 0) ∧
    (a ≠ 0 → 2 ^ (63 - n) ≤ a.toNat ∧ a.toNat < 2 ^ (64 - n)) := by
  by_cases h : a = 0
  · exact ⟨64, if_pos h, Nat.le_refl _, by simp [h], fun h' => absurd h h'⟩
  · have hn : a.toNat ≠ 0 := fun e => h (BitVec.eq_of_toNat_eq e)
    have hl : Nat.log2 a.toNat < 64 := (Nat.log2_lt hn).2 a.isLt
    refine ⟨63 - Nat.log2 a.toNat, if_neg h, by omega, ⟨fun e => by omega, fun e => absurd e h⟩, fun _ => ?_⟩
    rw [show 63 - (63 - Nat.log2 a.toNat) = Nat.log2 a.toNat by omega,
      show 64 - (63 - Nat.log2 a.toNat) = Nat.log2 a.toNat + 1 by omega]
    exact ⟨Nat.log2_self_le hn, Nat.lt_log2_self⟩

/-- `ctzFrom` stops at the first one bit at or above i, or has looked at f zeros. -/
theorem ctzFrom_spec (a : Word) (f i : Nat) :
    i ≤ ctzFrom a f i ∧ ctzFrom a f i ≤ i + f ∧ (∀ j, i ≤ j → j < ctzFrom a f i → a.getLsbD j = false) ∧
    (ctzFrom a f i < i + f → a.getLsbD (ctzFrom a f i) = true) := by
  induction f generalizing i with
  | zero => exact ⟨Nat.le_refl i, Nat.le_refl i, fun j h h' => absurd h' (Nat.not_lt.2 h), fun h => absurd h (Nat.lt_irrefl i)⟩
  | succ f ih =>
    by_cases hb : a.getLsbD i = true
    · rw [show ctzFrom a (f + 1) i = i from if_pos hb]
      exact ⟨Nat.le_refl i, by omega, fun j h h' => absurd h' (Nat.not_lt.2 h), fun _ => hb⟩
    · rw [show ctzFrom a (f + 1) i = ctzFrom a f (i + 1) from if_neg hb]
      obtain ⟨hlo, hhi, hzero, hone⟩ := ih (i + 1)
      refine ⟨by omega, by omega, fun j h h' => ?_, fun h => hone (by omega)⟩
      rcases Nat.eq_or_lt_of_le h with rfl | h
      · exact eq_false_of_ne_true hb
      · exact hzero j h h'

/-- What `ctz` counts: the zeros below the lowest one bit. -/
theorem ctzW_spec (a : Word) : ∃ n, ctzW a = BitVec.ofNat 64 n ∧ n ≤ 64 ∧ (n = 64 ↔ a = 0) ∧
    (a ≠ 0 → a.getLsbD n = true) ∧ ∀ i, i < n → a.getLsbD i = false := by
  obtain ⟨-, hhi, hzero, hone⟩ := ctzFrom_spec a 64 0
  refine ⟨ctzFrom a 64 0, rfl, ?_⟩
  generalize ctzFrom a 64 0 = n at hhi hzero hone
  have h64 : n = 64 ↔ a = 0 := by
    constructor
    · rintro rfl
      exact BitVec.eq_of_getLsbD_eq fun j hj => (hzero j (Nat.zero_le j) hj).trans (by simp)
    · rintro rfl
      refine Decidable.byContradiction fun h => ?_
      exact Bool.false_ne_true (BitVec.getLsbD_zero.symm.trans (hone (by omega)))
  exact ⟨by omega, h64, fun h => hone (by have := mt h64.1 h; omega), fun i => hzero i (Nat.zero_le i)⟩

theorem popcBelow_eq_countP (a : Word) (n : Nat) : popcBelow a n = (List.range n).countP (fun i => a.getLsbD i) := by
  induction n with
  | zero => rfl
  | succ n ih => rw [popcBelow, ih, List.range_succ, List.countP_append, List.countP_singleton]; rfl

theorem bitCounts : Claims.BitCounts := by
  intro s rd ra a
  obtain ⟨n, hclz, hn⟩ := clzW_spec a
  obtain ⟨m, hctz, hm⟩ := ctzW_spec a
  exact ⟨⟨n, writesReg_of_aluR rfl hclz, hn⟩, ⟨m, writesReg_of_aluR rfl hctz, hm⟩,
    writesReg_of_aluR rfl (congrArg (BitVec.ofNat 64) (popcBelow_eq_countP a 64))⟩

/-! ## Division (R165) -/

theorem sdiv_eq_ofInt (a b : Word) : a.sdiv b = BitVec.ofInt 64 (a.toInt.tdiv b.toInt) :=
  BitVec.eq_of_toInt_eq (by rw [BitVec.toInt_sdiv, BitVec.toInt_ofInt])

theorem srem_eq_ofInt (a b : Word) : a.srem b = BitVec.ofInt 64 (a.toInt.tmod b.toInt) := by
  rw [← BitVec.toInt_srem, BitVec.ofInt_toInt]

theorem divisionResults : Claims.DivisionResults := by
  intro s rd ra rb a b overflow
  refine ⟨fun hb _ => ⟨writesReg_of_aluRR rfl ((if_neg hb).trans (sdiv_eq_ofInt a b)),
      writesReg_of_aluRR rfl ((if_neg hb).trans (srem_eq_ofInt a b))⟩,
    fun hb => ⟨writesReg_of_aluRR rfl ((if_neg hb).trans BitVec.udiv_def),
      writesReg_of_aluRR rfl ((if_neg hb).trans BitVec.umod_def)⟩,
    fun hb => ⟨writesReg_of_aluRR rfl (if_pos hb), writesReg_of_aluRR rfl (if_pos hb),
      writesReg_of_aluRR rfl (if_pos hb), writesReg_of_aluRR rfl (if_pos hb)⟩,
    fun ⟨ha, hb⟩ => ⟨writesReg_of_aluRR rfl ?_, writesReg_of_aluRR rfl ?_⟩⟩
  · show sdivW a b = _
    rw [ha, hb]; decide
  · show sremW a b = _
    rw [ha, hb]; decide

/-- Settles O30: each value is the exact integer of R164 and R165, brought into the word. -/
theorem integerArithmetic : Obligations.IntegerArithmetic := ⟨integerResults, bitCounts, divisionResults⟩

/-! ## Immediate forms (R36, R166) -/

theorem add_simm {n : Nat} (a : Word) (i : BitVec n) : a + simm i = BitVec.ofInt 64 (a.toInt + i.toInt) := by
  rw [BitVec.ofInt_add, BitVec.ofInt_toInt]
  rfl

theorem toInt_simm {n : Nat} (i : BitVec n) (h : n ≤ 64) : (simm i).toInt = i.toInt :=
  BitVec.toInt_signExtend_of_le h

theorem simm_shiftLeft_13 {n : Nat} (i : BitVec n) : simm i <<< 13 = BitVec.ofInt 64 (i.toInt * 2 ^ 13) := by
  rw [BitVec.ofInt_mul, BitVec.shiftLeft_eq_mul_twoPow]
  rfl

theorem flagW_slt_simm (a : Word) (i : BitVec 13) : flagW (a.slt (simm i)) = if a.toInt < i.toInt then 1 else 0 := by
  rw [BitVec.slt_eq_decide, toInt_simm i (by decide), flagW_decide]

theorem immediateResults : Claims.ImmediateResults := by
  intro s rd ra imm n u a i
  exact ⟨writesReg_of_aluR (f := fun a => a + simm imm) rfl (add_simm a imm),
    writesReg_of_aluR (f := fun a => a &&& simm imm) rfl rfl,
    writesReg_of_aluR (f := fun a => a ||| simm imm) rfl rfl, writesReg_of_aluR (f := fun a => a ^^^ simm imm) rfl rfl,
    writesReg_of_aluR (f := fun a => flagW (a.slt (simm imm))) rfl (flagW_slt_simm a imm),
    writesReg_of_aluR (f := fun a => a <<< n.toNat) rfl (shiftLeft_eq_ofNat a n.toNat),
    writesReg_of_aluR (f := fun a => a >>> n.toNat) rfl (ushiftRight_eq_ofNat a n.toNat),
    writesReg_of_aluR (f := fun a => a.sshiftRight n.toNat) rfl (sshiftRight_eq_ofInt a n.toNat),
    writesReg_of _ s rd _ _ rfl (simm_shiftLeft_13 u)⟩

/-! ## Bit fields (R167) -/

/-- The mask of the low n bits. -/
theorem lowMask_eq_ofNat (n : Nat) (hn : n ≤ 64) : (1#64 <<< n) - 1 = BitVec.ofNat 64 (2 ^ n - 1) := by
  rcases Nat.lt_or_eq_of_le hn with h | rfl
  · have hlt : 2 ^ n < 2 ^ 64 := Nat.pow_lt_pow_right (by decide) h
    have hpos : 0 < 2 ^ n := Nat.two_pow_pos n
    apply BitVec.eq_of_toNat_eq
    simp only [BitVec.toNat_sub, BitVec.toNat_shiftLeft, BitVec.toNat_ofNat, Nat.shiftLeft_eq, BitVec.reduceToNat]
    generalize 2 ^ n = p at hlt hpos
    omega
  · rfl

theorem getLsbD_lowMask (n i : Nat) (hn : n ≤ 64) : ((1#64 <<< n) - 1).getLsbD i = decide (i < n) := by
  rw [lowMask_eq_ofNat n hn, BitVec.getLsbD_ofNat, Nat.testBit_two_pow_sub_one, ← Bool.decide_and, decide_eq_decide]
  omega

theorem getLsbD_bfxW (a : Word) (pos n i : Nat) (h : pos + n ≤ 64) :
    (bfxW a pos n).getLsbD i = (decide (i < n) && a.getLsbD (pos + i)) := by
  rw [bfxW, BitVec.getLsbD_and, BitVec.getLsbD_ushiftRight, getLsbD_lowMask n i (by omega), Bool.and_comm]

theorem getLsbD_bfiW (d a : Word) (pos n i : Nat) (h : pos + n ≤ 64) (hi : i < 64) :
    (bfiW d a pos n).getLsbD i = if pos ≤ i ∧ i < pos + n then a.getLsbD (i - pos) else d.getLsbD i := by
  have hm := getLsbD_lowMask n (i - pos) (by omega)
  simp only [bfiW, BitVec.getLsbD_or, BitVec.getLsbD_and, BitVec.getLsbD_not, BitVec.getLsbD_shiftLeft, hm, hi]
  by_cases hlo : i < pos
  · simp [hlo, Nat.not_le.2 hlo]
  · by_cases hhi : i < pos + n
    · simp [hlo, hhi, Nat.le_of_not_lt hlo, show i - pos < n by omega]
    · simp [hhi, show ¬ i - pos < n by omega]

/-! ## The fields of an I-format word (R36) -/

@[simp] theorem bits_encI_op (op rd ra imm) : bits (encI op rd ra imm) 25 6 = op := by
  rw [bits, encI, BitVec.extractLsb'_append_eq_of_le (by decide), BitVec.extractLsb'_append_eq_of_le (by decide),
    BitVec.extractLsb'_append_eq_of_le (by decide), BitVec.extractLsb'_append_eq_of_add_le (by decide),
    BitVec.extractLsb'_eq_self]
@[simp] theorem bits_encI_rd (op rd ra imm) : bits (encI op rd ra imm) 19 6 = rd := by
  rw [bits, encI, BitVec.extractLsb'_append_eq_of_le (by decide), BitVec.extractLsb'_append_eq_of_le (by decide),
    BitVec.extractLsb'_append_eq_of_add_le (by decide), BitVec.extractLsb'_eq_self]
@[simp] theorem bits_encI_ra (op rd ra imm) : bits (encI op rd ra imm) 13 6 = ra := by
  rw [bits, encI, BitVec.extractLsb'_append_eq_of_le (by decide), BitVec.extractLsb'_append_eq_of_add_le (by decide),
    BitVec.extractLsb'_eq_self]
/-- A field that lies inside the immediate. -/
theorem bits_encI_imm (op rd ra imm) (lo w : Nat) (h : lo + w ≤ 13) : bits (encI op rd ra imm) lo w = bits imm lo w :=
  BitVec.extractLsb'_append_eq_of_add_le h

/-- The immediate of `bfx` and `bfi`: a zero, the position and the length less 1. -/
theorem fields_encI_bitField (op rd ra) (pos lm : BitVec 6) :
    let w := encI op rd ra (0#1 ++ pos ++ lm)
    bit w 12 = false ∧ bits w 6 6 = pos ∧ bits w 0 6 = lm := by
  refine ⟨?_, ?_, ?_⟩
  · simp only [bit, encI, BitVec.getLsbD_append]; simp
  · rw [bits_encI_imm _ _ _ _ _ _ (by decide), bits, BitVec.extractLsb'_append_eq_of_le (by decide),
      BitVec.extractLsb'_append_eq_of_add_le (by decide), BitVec.extractLsb'_eq_self]
  · rw [bits_encI_imm _ _ _ _ _ _ (by decide), bits, BitVec.extractLsb'_append_eq_of_add_le (by decide),
      BitVec.extractLsb'_eq_self]

theorem decodeControl_word0_bfx (rd ra : Reg) (pos lm : BitVec 6) :
    decodeControl (word0 (.bfx rd ra pos lm)) = some (.bfx rd ra pos lm) := by
  obtain ⟨hz, hp, hl⟩ := fields_encI_bitField 0x0A#6 rd ra pos lm
  show decodeControl (encI 0x0A#6 rd ra (0#1 ++ pos ++ lm)) = _
  simp [decodeControl, hz, hp, hl]

theorem decodeControl_word0_bfi (rd ra : Reg) (pos lm : BitVec 6) :
    decodeControl (word0 (.bfi rd ra pos lm)) = some (.bfi rd ra pos lm) := by
  obtain ⟨hz, hp, hl⟩ := fields_encI_bitField 0x0B#6 rd ra pos lm
  show decodeControl (encI 0x0B#6 rd ra (0#1 ++ pos ++ lm)) = _
  simp [decodeControl, hz, hp, hl]

/-- A control word whose instruction R48 refuses is ILL. -/
theorem decode_illegal {w0 : IWord} {i : Instr} (w1 : IWord) (hw : twoWords w0 = false)
    (hd : decodeControl w0 = some i) (hl : legal i = false) : decode w0 w1 = .error (.ill (illFlta i)) := by
  simp [decode, hw, hd, hl]

/-! ## Three operands (R167) -/

theorem mul_add_eq_ofNat (a b c : Word) : a * b + c = BitVec.ofNat 64 (a.toNat * b.toNat + c.toNat) := by
  rw [BitVec.ofNat_add, mul_eq_ofNat, BitVec.ofNat_toNat, BitVec.setWidth_eq]

theorem add_shiftLeft_eq_ofNat (a b : Word) (n : Nat) : a + (b <<< n) = BitVec.ofNat 64 (a.toNat + b.toNat * 2 ^ n) := by
  rw [BitVec.ofNat_add, shiftLeft_eq_ofNat, BitVec.ofNat_toNat, BitVec.setWidth_eq]

theorem ite_bne_zero (a b c : Word) : (if c != 0 then a else b) = if c = 0 then b else a := by
  by_cases h : c = 0 <;> simp [h]

theorem threeOperandResults : Claims.ThreeOperandResults := by
  intro s rd ra rb rc pos lm sh a b len
  refine ⟨writesReg_of _ s rd _ _ rfl (mul_add_eq_ofNat a b _), writesReg_of _ s rd _ _ rfl (ite_bne_zero a b _),
    writesReg_of_aluRR (f := fun a b => a + (b <<< sh.toNat)) rfl (add_shiftLeft_eq_ofNat a b sh.toNat),
    fun h => ⟨⟨bfxW a pos.toNat len, writesReg_of_aluR (f := fun a => bfxW a pos.toNat len) rfl rfl,
        fun i => getLsbD_bfxW a _ _ i h⟩,
      ⟨bfiW (getReg s.bk rd) a pos.toNat len, writesReg_of _ s rd _ _ rfl rfl,
        fun i hi => getLsbD_bfiW _ a _ _ i h hi⟩⟩,
    fun h w1 => ?_⟩
  have hl : ¬ pos.toNat + lm.toNat + 1 ≤ 64 := by omega
  exact ⟨decode_illegal w1 (Laws.twoWords_encI ..) (decodeControl_word0_bfx rd ra pos lm) (decide_eq_false hl),
    decode_illegal w1 (Laws.twoWords_encI ..) (decodeControl_word0_bfi rd ra pos lm) (decide_eq_false hl)⟩

/-- Settles O31: the values of R166 as exact integers, and the fields of R167 bit by bit. -/
theorem immediateForms : Obligations.ImmediateForms := ⟨immediateResults, threeOperandResults⟩

/-! ## Outcomes of a control instruction -/

/-- Outside a repeat the check of R175 passes. -/
theorem notRepeated_ok {s : State} (h : s.bk.mode = .supervisor ∨ s.bk.repc = 0) : notRepeated s = .ok () := by
  rcases h with h | h <;> simp [notRepeated, h]

/-- Outside a repeat an instruction goes on past the check of R175. -/
theorem finish_notRepeated {s : State} (h : s.bk.mode = .supervisor ∨ s.bk.repc = 0) (k : Unit → Except Stop State) :
    finish s (notRepeated s >>= k) = finish s (k ()) := by
  rw [notRepeated_ok h]
  rfl

theorem need_ok {c : Bool} (h : c = true) (e : Except Stop Unit) : need c e = .ok () := if_pos h

theorem jumpsTo_of {i : Instr} {s : State} {target : Word} (h : exec i s = .next (jumpTo s target)) :
    JumpsTo i s target :=
  ⟨_, h, onlyBank_setBk s _, State.bk_setBk s _⟩

theorem fallsOn_of {i : Instr} {s : State} (h : exec i s = .next (retire s 1)) : FallsOn i s :=
  ⟨_, h, onlyBank_setBk s _, State.bk_setBk s _⟩

/-- An instruction that only sets the active bank. -/
theorem completes_setBk {i : Instr} {s : State} {b : Bank} (h : exec i s = .next (s.setBk b)) :
    Completes i s (fun t => OnlyBank s t ∧ t.bk = b) :=
  ⟨_, h, onlyBank_setBk s b, State.bk_setBk s b⟩

/-! ## Loop starts (R170, R176) -/

theorem lo56_of_lt (a : Word) (h : a.toNat < 2 ^ 56) : lo56 a = a := by
  apply BitVec.eq_of_toNat_eq
  rw [lo56, BitVec.toNat_and, show (0x00FFFFFFFFFFFFFF#64).toNat = 2 ^ 56 - 1 from rfl, Nat.and_two_pow_sub_one_eq_mod,
    Nat.mod_eq_of_lt h]

/-- Below the end of the address space START and END of a loop need no truncation. -/
theorem lo56_loop_bounds (pc : Word) (len : Nat) (hpc : pc.toNat + 2 ^ 19 < 2 ^ 56) (hlen : len < 2 ^ 16) :
    lo56 (pc + 4) = pc + 4 ∧ lo56 (pc + 4 + BitVec.ofNat 64 (4 * len)) = pc + 4 + BitVec.ofNat 64 (4 * len) := by
  constructor <;> apply lo56_of_lt <;> simp only [BitVec.toNat_add, BitVec.toNat_ofNat, BitVec.reduceToNat] <;> omega

section
variable {s : State} {lvl : BitVec 2} {p : Bool} {n : Word} {len : Nat}
  (hr : s.bk.mode = .supervisor ∨ s.bk.repc = 0) (hpc : s.bk.pc.toNat + 2 ^ 19 < 2 ^ 56) (hlen : len < 2 ^ 16)
include hr hpc hlen

theorem startLoop_zero :
    startLoop lvl p 0 len s = .next (jumpTo s (s.bk.pc + 4 + BitVec.ofNat 64 (4 * len))) := by
  obtain ⟨hstart, hstop⟩ := lo56_loop_bounds s.bk.pc len hpc hlen
  rw [startLoop, notRepeated_ok hr]
  dsimp only
  rw [hstart, hstop]
  rfl

theorem startLoop_nonzero (hn : n ≠ 0) :
    startLoop lvl p n len s = .next (s.setBk (fallThrough (putLoop s.bk lvl.toFin
      ⟨true, p, false, false, n, 0, s.bk.pc + 4, s.bk.pc + 4 + BitVec.ofNat 64 (4 * len)⟩) (s.bk.pc + 4))) := by
  obtain ⟨hstart, hstop⟩ := lo56_loop_bounds s.bk.pc len hpc hlen
  rw [startLoop, notRepeated_ok hr]
  dsimp only
  rw [hstart, hstop, if_neg hn]
  rfl

end

theorem loopStarts : Claims.LoopStarts := by
  intro s lvl p ra len cnt l10 imm hr hpc start starts
  have hstarts {i : Instr} {n : Word} {k : Nat} (hk : k < 2 ^ 16) (hi : exec i s = startLoop lvl p n k s) :
      starts i n k := by
    refine ⟨fun hn => jumpsTo_of ?_, fun hn => completes_setBk (hi.trans (startLoop_nonzero hr hpc hk hn))⟩
    subst hn
    exact hi.trans (startLoop_zero hr hpc hk)
  refine ⟨hstarts len.isLt rfl, hstarts (Nat.lt_trans l10.isLt (by decide)) rfl, ?_⟩
  have hs : exec (.spset imm) s = .next (retire (s.setBk { s.bk with spm := imm, sp := imm &&& 1 }) 1) :=
    finish_notRepeated hr _
  rw [retire, State.setBk_setBk, State.bk_setBk] at hs
  exact completes_setBk hs

/-! ## The loop end test (R171) -/

@[simp] theorem getLoop_putLoop_same (b : Bank) (l : Fin 4) (v : LoopLevel) : getLoop (putLoop b l v) l = v :=
  vget_set_same b.loops l v

theorem getLoop_putLoop_ne (b : Bank) {l m : Fin 4} (v : LoopLevel) (h : m ≠ l) :
    getLoop (putLoop b l v) m = getLoop b m :=
  vget_set_ne b.loops l m v h.symm

/-- LC after an end test. -/
def endLC (v : LoopLevel) : Word := if v.lc = 0 then 0 else v.lc - 1

/-- RRB after an end test. -/
def endRRB (b : Bank) (v : LoopLevel) : Word :=
  if v.pipe && b.rotn.toNat != 0 then BitVec.ofNat 64 ((b.rrb.toNat + b.rotn.toNat - 1) % b.rotn.toNat) else b.rrb

/-- SP after an end test. -/
def endSP (b : Bank) (v : LoopLevel) : BitVec 8 :=
  if v.pipe then ((b.sp <<< 1) ||| (if endLC v != 0 then 1 else 0)) &&& b.spm else b.sp

/-- Whether an end test goes back to START. -/
def goesBack (b : Bank) (v : LoopLevel) : Bool := endLC v != 0 || (v.pipe && endSP b v != 0)

/-- What an end test leaves of its level. -/
def endLevel (b : Bank) (v : LoopLevel) : LoopLevel :=
  { v with lc := endLC v, idx := v.idx + 1, act := v.act && goesBack b v }

/-- The bank after an end test, in terms of the values above. -/
theorem loopEnd_fst (b : Bank) (l : Fin 4) :
    (loopEnd b l).1 = putLoop { b with
      rrb := endRRB b (getLoop b l), sp := endSP b (getLoop b l)
      pc := if goesBack b (getLoop b l) then (getLoop b l).start else b.pc } l (endLevel b (getLoop b l)) := by
  cases hg : goesBack b (getLoop b l)
  case true =>
    rw [endLevel, hg, Bool.and_true]
    exact congrArg Prod.fst (if_pos hg)
  case false =>
    rw [endLevel, hg, Bool.and_false]
    exact congrArg Prod.fst (if_neg (ne_true_of_eq_false hg))

/-- An end test moves no other level. -/
theorem getLoop_loopEnd_ne (b : Bank) {l m : Fin 4} (h : m ≠ l) : getLoop (loopEnd b l).1 m = getLoop b m := by
  rw [loopEnd_fst]
  exact getLoop_putLoop_ne _ _ h

/-- Level m is active and its body ends at `next`. -/
def EndsAt (b : Bank) (m : Fin 4) (next : Word) : Prop := (getLoop b m).act = true ∧ (getLoop b m).stop = lo56 next

theorem endTests_skip {b : Bank} {m : Fin 4} {next : Word} (r : List (Fin 4)) (h : ¬ EndsAt b m next) :
    endTests next (m :: r) b = endTests next r b :=
  if_neg (by simpa [EndsAt] using h)

theorem endTests_test {b : Bank} {m : Fin 4} {next : Word} (r : List (Fin 4)) (h : EndsAt b m next) :
    endTests next (m :: r) b = if (loopEnd b m).2 then (loopEnd b m).1 else endTests next r (loopEnd b m).1 :=
  if_pos (by simpa [EndsAt] using h)

/-- Where no level ends, no end test runs. -/
theorem endTests_none {next : Word} {r : List (Fin 4)} {b : Bank} (h : ∀ m ∈ r, ¬ EndsAt b m next) :
    endTests next r b = b := by
  induction r with
  | nil => rfl
  | cons m r ih =>
    rw [endTests_skip r (h m List.mem_cons_self)]
    exact ih fun k hk => h k (List.mem_cons_of_mem m hk)

/-- Where one level alone ends, its end test alone runs. -/
theorem endTests_alone {next : Word} {r : List (Fin 4)} {b : Bank} {l : Fin 4} (hr : r.Nodup) (hl : l ∈ r)
    (hend : EndsAt b l next) (halone : ∀ m, m ≠ l → ¬ EndsAt b m next) : endTests next r b = (loopEnd b l).1 := by
  induction r with
  | nil => cases hl
  | cons m r ih =>
    obtain ⟨hm, hr⟩ := List.nodup_cons.1 hr
    by_cases e : m = l
    · subst e
      have hrest : endTests next r (loopEnd b m).1 = (loopEnd b m).1 := by
        refine endTests_none fun k hk => ?_
        have hkm : k ≠ m := fun e => hm (e ▸ hk)
        rw [EndsAt, getLoop_loopEnd_ne b hkm]
        exact halone k hkm
      rw [endTests_test r hend, hrest, ite_self]
    · rw [endTests_skip r (halone m e)]
      exact ih hr ((List.mem_cons.1 hl).resolve_left (Ne.symm e))

theorem fallThrough_endsAlone {b : Bank} {l : Fin 4} {next : Word} (h : EndsAlone b l next) :
    fallThrough b next = (loopEnd { b with pc := next } l).1 := by
  obtain ⟨hmode, hact, hstop, halone⟩ := h
  rw [fallThrough, hmode]
  exact endTests_alone (by decide) ((by decide : ∀ l : Fin 4, l ∈ [3, 2, 1, 0]) l) ⟨hact, hstop⟩ fun m hm ⟨ha, hs⟩ => halone m hm ha hs

theorem endLC_toNat (v : LoopLevel) : (endLC v).toNat = v.lc.toNat - 1 := by
  unfold endLC
  split
  · next h => simp [h]
  · next h =>
    have hne : v.lc.toNat ≠ 0 := fun e => h (BitVec.eq_of_toNat_eq e)
    have hlt := v.lc.isLt
    simp only [BitVec.toNat_sub, BitVec.reduceToNat]
    omega

theorem endLC_ne_zero (v : LoopLevel) : endLC v ≠ 0 ↔ 0 < v.lc.toNat - 1 := by
  rw [← endLC_toNat, Nat.pos_iff_ne_zero]
  exact not_congr ⟨fun h => congrArg BitVec.toNat h, fun h => BitVec.eq_of_toNat_eq h⟩

theorem endSP_eq (b : Bank) (v : LoopLevel) :
    endSP b v = if v.pipe then ((b.sp <<< 1) ||| (if 0 < v.lc.toNat - 1 then 1 else 0)) &&& b.spm else b.sp := by
  simp only [endSP, bne_iff_ne, endLC_ne_zero]

theorem goesBack_iff (b : Bank) (v : LoopLevel) :
    goesBack b v = true ↔ 0 < v.lc.toNat - 1 ∨ (v.pipe = true ∧ endSP b v ≠ 0) := by
  simp only [goesBack, Bool.or_eq_true, Bool.and_eq_true, bne_iff_ne, endLC_ne_zero]

theorem endRRB_pipe {b : Bank} {v : LoopLevel} (hp : v.pipe = true) (hn : b.rotn.toNat ≠ 0) :
    (endRRB b v).toNat = (b.rrb.toNat + b.rotn.toNat - 1) % b.rotn.toNat := by
  have hlt : (b.rrb.toNat + b.rotn.toNat - 1) % b.rotn.toNat < 2 ^ 64 :=
    Nat.lt_trans (Nat.mod_lt _ (Nat.pos_of_ne_zero hn)) b.rotn.isLt
  rw [endRRB, if_pos (by simp [hp, hn]), BitVec.toNat_ofNat, Nat.mod_eq_of_lt hlt]

theorem endRRB_kept {b : Bank} {v : LoopLevel} (h : v.pipe = false ∨ b.rotn = 0) : endRRB b v = b.rrb := by
  rcases h with h | h <;> simp [endRRB, h]

theorem loopEndTest : Claims.LoopEndTest := by
  intro b l next h v c w lc sp
  have hsp : endSP b v = sp := endSP_eq b v
  have hback : (0 < lc ∨ (v.pipe = true ∧ sp ≠ 0)) ↔ goesBack b v = true := hsp ▸ (goesBack_iff b v).symm
  have hend : c = (loopEnd { b with pc := next } l).1 := fallThrough_endsAlone h
  have hc : c = putLoop { b with
      rrb := endRRB b v, sp := endSP b v, pc := if goesBack b v then v.start else next } l (endLevel b v) :=
    hend.trans (loopEnd_fst { b with pc := next } l)
  have hw : w = endLevel b v := (congrArg (getLoop · l) hc).trans (getLoop_putLoop_same _ l _)
  have hrrb : c.rrb = endRRB b v := congrArg Bank.rrb hc
  have ⟨_, (hlive : v.act = true), _, _⟩ := h
  have hact : w.act = goesBack b v := by rw [hw, endLevel, hlive, Bool.true_and]
  have hpc : c.pc = if goesBack b v then v.start else next := congrArg Bank.pc hc
  refine ⟨by rw [hw]; exact endLC_toNat v, by rw [hw]; rfl, (congrArg Bank.sp hc).trans hsp,
    fun hp hn => by rw [hrrb, endRRB_pipe hp hn], fun hk => by rw [hrrb, endRRB_kept hk], ?_,
    fun m hm => by rw [hend]; exact getLoop_loopEnd_ne _ hm,
    by rw [hc]; rfl, by rw [hc]; rfl, by rw [hc]; rfl⟩
  simp only [hback, hact, hpc]
  cases goesBack b v
  case true => exact ⟨rfl, rfl⟩
  case false => exact ⟨rfl, rfl⟩

/-! ## Breaking a loop (R179) -/

/-- Where no entry is tagged beyond the index, a break discards no job. -/
theorem discardJobs_none {k : Fin 16} {loc : Loc} {l : Fin 4} {i : Word} {jobs : List Job} (s : State)
    (h : ∀ j ∈ jobs, tagBeyond l i j.e.tag = false) : discardJobs k loc l i jobs s = s := by
  induction jobs with
  | nil => rfl
  | cons j r ih =>
    rw [discardJobs, h j List.mem_cons_self, Bool.and_false, if_neg Bool.false_ne_true]
    exact ih fun x hx => h x (List.mem_cons_of_mem j hx)

/-- The vector queue after a break of level l at index i: the entries it discards are gone. -/
def keptVec (v : VecState) (l : Fin 4) (i : Word) : VecState :=
  let kept := if v.fault.isSome then v.queue.take 1 else []
  let rest := if v.fault.isSome then v.queue.drop 1 else v.queue
  { v with queue := kept ++ rest.filter (fun e => !tagBeyond l i e.tag) }

theorem getLoop_breakLevels (b : Bank) (l m : Fin 4) : getLoop (breakLevels b l) m =
    if (getLoop b l).start.ule (getLoop b m).start && (getLoop b m).stop.ule (getLoop b l).stop then
      { getLoop b m with act := false } else getLoop b m :=
  Vector.getElem_map ..

theorem act_breakLevels (b : Bank) (l m : Fin 4) : (getLoop (breakLevels b l) m).act = ((getLoop b m).act &&
    !((getLoop b l).start.ule (getLoop b m).start && (getLoop b m).stop.ule (getLoop b l).stop)) := by
  rw [getLoop_breakLevels]
  split
  · next h => rw [h, Bool.not_true, Bool.and_false]
  · next h => rw [eq_false_of_ne_true h, Bool.not_false, Bool.and_true]

section
variable {s : State} {lvl : BitVec 2} {idx : LoopLevel → Word}
  (hr : s.bk.mode = .supervisor ∨ s.bk.repc = 0) (hact : (getLoop s.bk lvl.toFin).act = true)
  (hut : (getLoop s.bk lvl.toFin).ut = false)
include hr hact hut

/-- An `lbrk` at an index above IDX has no effect. -/
theorem breakLoop_above (hi : (getLoop s.bk lvl.toFin).idx.toNat < (idx (getLoop s.bk lvl.toFin)).toNat) :
    breakLoop lvl idx s = .next (retire s 1) := by
  have hult : (getLoop s.bk lvl.toFin).idx.ult (idx (getLoop s.bk lvl.toFin)) = true := decide_eq_true hi
  rw [breakLoop, notRepeated_ok hr]
  dsimp only
  rw [need_ok (by rw [hact, hut]; rfl), if_pos hult]
  rfl

/-- An `lbrk` at IDX that discards no job. -/
theorem breakLoop_at (hi : idx (getLoop s.bk lvl.toFin) = (getLoop s.bk lvl.toFin).idx)
    (hjobs : ∀ j ∈ s.bk.jobs, tagBeyond lvl.toFin (getLoop s.bk lvl.toFin).idx j.e.tag = false) :
    breakLoop lvl idx s = .next (s.setBk { breakLevels
      { s.bk with vec := keptVec s.bk.vec lvl.toFin (getLoop s.bk lvl.toFin).idx } lvl.toFin with
        pc := (getLoop s.bk lvl.toFin).stop }) := by
  have hult : (getLoop s.bk lvl.toFin).idx.ult (getLoop s.bk lvl.toFin).idx = false := decide_eq_false (BitVec.lt_irrefl _)
  rw [breakLoop, notRepeated_ok hr]
  dsimp only
  rw [need_ok (by rw [hact, hut]; rfl), hi, hult, if_neg Bool.false_ne_true,
    need_ok (by rw [decide_eq_true rfl, Bool.or_true]), State.bk_setBk,
    discardJobs_none _ hjobs, State.bk_setBk, State.setBk_setBk]
  rfl

end

theorem loopBreak : Claims.LoopBreak := by
  intro s lvl ra hr v breaks hact hut hjobs
  have hbreaks {i : Instr} {idx : LoopLevel → Word} (hi : exec i s = breakLoop lvl idx s) (hidx : idx v = v.idx) :
      breaks i := by
    refine ⟨_, hi.trans (breakLoop_at hr hact hut hidx hjobs), fun _ => rfl, ?_⟩
    rw [State.bk_setBk]
    refine ⟨getReg_of_x rfl, rfl, ?_, fun m => act_breakLevels _ _ m⟩
    refine (act_breakLevels s.bk lvl.toFin lvl.toFin).trans ?_
    simp [BitVec.ule]
  exact ⟨fun h => fallsOn_of (breakLoop_above (idx := fun _ => getReg s.bk ra) hr hact hut h),
    fun h => hbreaks (idx := fun _ => getReg s.bk ra) rfl h, hbreaks (idx := LoopLevel.idx) rfl rfl⟩

/-- Settles O33: a level that ends alone runs its end test alone (`endTests_alone`), and a break that discards no job only
deactivates levels and drops vector entries (`breakLoop_at`). -/
theorem loops : Obligations.Loops := ⟨loopStarts, loopEndTest, loopBreak⟩

/-! ## Faults taken in user mode (R151, R161) -/

section
variable {s : State} (hmode : s.bk.mode = .user) (hloads : s.bk.loads = [])
include hmode

/-- A fault other than XF leaves of the bank what R151 names. -/
theorem takesFault_takeFault (e : Exc) (he : e.code ≠ .xf) : TakesFault s (takeFault s e) e.code e.flta e.src := by
  rw [takeFault_user s e hmode]
  refine ⟨onlyBank_setBk s _, ?_, ?_, ?_⟩ <;> rw [State.bk_setBk, enterSupervisor]
  · rw [if_neg he]
  · exact packFLTC_code ..
  · exact packFLTC_src ..

theorem privileged_user : privileged s = ctlFault .priv 0 := if_pos hmode

/-- A privileged engine instruction meets PRIV before any other check but that of R58. -/
theorem engineReady_priv (e : Eng) (h : loopSpan s.bk = false) : engineReady s e true = ctlFault .priv 0 := by
  simp [engineReady, h, hmode]

include hloads

/-- An instruction that ends in a fault other than XF takes it. -/
theorem completes_fault {i : Instr} {e : Exc} (h : exec i s = finish s (.error (.flt e))) (he : e.code ≠ .xf) :
    Completes i s (fun u => TakesFault s u e.code e.flta e.src) :=
  ⟨_, h.trans (finish_flt s e hloads), takesFault_takeFault hmode e he⟩

end

theorem systemFaults : Claims.SystemFaults := by
  intro s code a hmode hloads
  exact ⟨fun hrep =>
      ⟨completes_fault hmode hloads (e := ⟨.trap, code.setWidth 64, 0, 0⟩) (finish_notRepeated (.inr hrep) _) nofun,
        completes_fault hmode hloads (e := ⟨.brk, code.setWidth 64, 0, 0⟩) (finish_notRepeated (.inr hrep) _) nofun⟩,
    completes_fault hmode hloads (e := ⟨.ill, a, 0, 0⟩) rfl nofun,
    completes_fault hmode hloads (e := ⟨.segv, 0, 0, 0⟩) rfl nofun⟩

/-! ## Privilege (R40, R48, R208, R209) -/

theorem enqueueDesc_priv {s : State} {i : Instr} {h : Head} {f : LayA} {n : Nat} {rd : Bool}
    {regions : SDesc → Nat → List Region × List Region} (hmode : s.bk.mode = .user) (hspan : loopSpan s.bk = false) :
    enqueueDesc i h f true n rd regions s = finish s (ctlFault .priv 0) := by
  unfold enqueueDesc
  rw [engineReady_priv hmode _ hspan]
  rfl

theorem privilegeFaults : Claims.PrivilegeFaults := by
  intro s r c h f hmode hloads priv
  have hpriv {i : Instr} (hi : exec i s = finish s (ctlFault .priv 0)) : priv i :=
    completes_fault hmode hloads (e := ⟨.priv, 0, 0, 0⟩) hi nofun
  refine ⟨fun hrep => hpriv ?sret, fun hc => hpriv ?csrr, fun hc => hpriv ?csrw, fun hspan =>
    ⟨hpriv ?fprog, hpriv ?ferase, hpriv ?fduty⟩⟩
  case sret =>
    show execSret s = _
    rw [execSret, notRepeated_ok (.inr hrep), privileged_user hmode]
    rfl
  case csrr =>
    show execCsrr r c s = _
    rw [execCsrr, if_pos (by rw [csrClass, hc]; rfl), privileged_user hmode]
    rfl
  case csrw =>
    have hclass : (csrClass c = 1 || csrClass c = 2) = true := by
      rcases hc with hc | hc <;> rw [csrClass, hc] <;> rfl
    show execCsrw c r s = _
    rw [execCsrw, if_pos hclass, privileged_user hmode]
    rfl
  case fprog =>
    show execFprog h f s = _
    exact enqueueDesc_priv hmode hspan
  case ferase =>
    show execFerase h f s = _
    exact enqueueDesc_priv hmode hspan
  case fduty =>
    show execFduty h f s = _
    rw [execFduty, engineReady_priv hmode _ hspan]
    rfl

/-! ## Return from the supervisor, and nested faults (R103, R161, R208) -/

theorem sretReturns : Claims.ReturnFromFault := by
  intro s hmode
  have hp : privileged s = .ok () := if_neg (by rw [hmode]; decide)
  refine completes_setBk (b := returnFromFault s.bk) ?_
  show execSret s = _
  rw [execSret, notRepeated_ok (.inl hmode), hp]
  rfl

/-- The first request to end a launch stands in it. -/
theorem endLaunch_first {s : State} {i : Fin 16} {l : Launch} (hl : s.launch i = some l) (hf : l.finishing = none)
    (r : Launch → Record) : s.endLaunch (some i) r = s.setLaunch i (some { l with finishing := some (r l) }) := by
  simp [State.endLaunch, hl, hf]

/-- A fault in supervisor mode ends the context and writes no fault register. -/
theorem takeFault_supervisor {s : State} (e : Exc) (h : s.bk.mode = .supervisor) : takeFault s e =
    (s.endLaunch s.bk.slot (fun l => mkRecord s l 0x06 e.code.byte true s.cur.val s.bk.pc e.flta)).setBk
      { s.bk with stall := some .pageAnswer } := by
  simp [takeFault, h]

theorem nestedFault : Claims.NestedFault := by
  intro s i l e hmode hslot hl hf u
  have hu : u = (s.setLaunch i (some { l with
      finishing := some (mkRecord s l 0x06 e.code.byte true s.cur.val s.bk.pc e.flta) })).setBk
        { s.bk with stall := some .pageAnswer } := by
    rw [show u = takeFault s e from rfl, takeFault_supervisor e hmode, hslot, endLaunch_first hl hf]
  rw [hu]
  refine ⟨⟨mkRecord s l 0x06 e.code.byte true s.cur.val s.bk.pc e.flta, ?_, rfl, rfl, rfl⟩, ?_, fun _ => rfl⟩
  · rw [State.launch_setBk, State.launch_setLaunch]
  · rw [State.bk_setBk]

/-- Settles O43: every fault of the control core in user mode goes through `takeFault`, whose frame is that of R151; in
supervisor mode it ends the launch. -/
theorem exceptions : Obligations.Exceptions := ⟨systemFaults, privilegeFaults, sretReturns, nestedFault⟩

end Sys2Proof.ControlCore
end
